-- ==== Sys2Proof/Word.lean ====
section
/-! DEFINITION. The word types of the block and the small fixed groups of words its registers come in. -/

namespace Sys2Proof

/-- One byte of the bitstream (20_memory.md R70). -/
abbrev Byte := BitVec 8

/-- Two components, x and y, of `w` bits each (motion vectors, sprite offsets, one row of sprite deltas). -/
structure Vec (w : Nat) where
  /-- the x component -/
  x : BitVec w
  /-- the y component -/
  y : BitVec w
deriving DecidableEq, Repr, Inhabited

/-- The zero vector. -/
def Vec.zero (w : Nat) : Vec w := ⟨0, 0⟩

/-- A motion vector, 16 signed bits a component (10_state.md R43). -/
abbrev Mv := Vec 16

/-- Four like things, for the four 8x8 luma blocks (or the four trajectory points). -/
structure Quad (α : Type) where
  /-- element 0 -/
  v0 : α
  /-- element 1 -/
  v1 : α
  /-- element 2 -/
  v2 : α
  /-- element 3 -/
  v3 : α
deriving DecidableEq, Repr

/-- The four elements equal. -/
def Quad.all {α : Type} (a : α) : Quad α := ⟨a, a, a, a⟩

/-- Element `n`. -/
def Quad.get {α : Type} (q : Quad α) (n : Fin 4) : α :=
  if n = 0 then q.v0 else if n = 1 then q.v1 else if n = 2 then q.v2 else q.v3

/-- `q` with element `n` replaced by `a`. -/
def Quad.set {α : Type} (q : Quad α) (n : Fin 4) (a : α) : Quad α :=
  if n = 0 then { q with v0 := a } else if n = 1 then { q with v1 := a }
  else if n = 2 then { q with v2 := a } else { q with v3 := a }

/-- Six like things, one for each block of a macroblock: 0 to 3 luma, 4 Cb, 5 Cr (10_state.md R44). -/
structure Six (α : Type) where
  /-- block 0 -/
  b0 : α
  /-- block 1 -/
  b1 : α
  /-- block 2 -/
  b2 : α
  /-- block 3 -/
  b3 : α
  /-- block 4 -/
  b4 : α
  /-- block 5 -/
  b5 : α
deriving DecidableEq, Repr

/-- The six elements equal. -/
def Six.all {α : Type} (a : α) : Six α := ⟨a, a, a, a, a, a⟩

/-- The element of block `n`. -/
def Six.get {α : Type} (q : Six α) (n : Fin 6) : α :=
  if n = 0 then q.b0 else if n = 1 then q.b1 else if n = 2 then q.b2
  else if n = 3 then q.b3 else if n = 4 then q.b4 else q.b5

/-- `q` with the element of block `n` replaced by `a`. -/
def Six.set {α : Type} (q : Six α) (n : Fin 6) (a : α) : Six α :=
  if n = 0 then { q with b0 := a } else if n = 1 then { q with b1 := a }
  else if n = 2 then { q with b2 := a } else if n = 3 then { q with b3 := a }
  else if n = 4 then { q with b4 := a } else { q with b5 := a }

end Sys2Proof
end

