-- ==== Sys2Proof/Syntax.lean ====
section
/-! DEFINITION. The instructions of the block: one constructor for each row of spec/opcode_table.json, and the named
sets their operands come from. -/

namespace Sys2Proof

/-- The control states and their codes (10_state.md R22). -/
inductive Fsm where
  | idle | scan | hdrVos | hdrVo | hdrVol | hdrVolStudio | hdrGop | hdrUser | hdrVop | sliceStart
  | partA | partB | mb | resyncCheck | waitRow | done | error
deriving DecidableEq, Repr

/-- The picture types, numbered as PIC.pict_type is: 0 I, 1 P, 2 B, 3 S (10_state.md R31). -/
inductive PictType where
  | i | p | b | s
deriving DecidableEq, Repr

/-- The motion kinds of MB.mv_type, 0, 1, 2 (10_state.md R43). -/
inductive MvType where
  | mv16x16 | mv8x8 | mvField
deriving DecidableEq, Repr, Inhabited

/-- The kind of custom matrix LOAD_QMATRIX loads (40_header_vol.md R159). -/
inductive MatKind where
  | intra | inter
deriving DecidableEq, Repr

/-- A vector component: `x` is 0 and `y` is 1 in GET_AMV(n) (42_gmc.md R232). -/
inductive Comp where
  | x | y
deriving DecidableEq, Repr

/-- The run-level tables (30_encoding.md R104). -/
inductive RlTable where
  | intra | inter | rvlcIntra | rvlcInter
deriving DecidableEq, Repr

/-- Whether a run-level table is one of the reversible ones (44_residual.md R303). -/
def RlTable.isRvlc : RlTable → Bool
  | .intra => false
  | .inter => false
  | .rvlcIntra => true
  | .rvlcInter => true

/-- The macroblock types of a B picture (30_encoding.md R104, 43_macroblock.md R273). -/
inductive BType where
  | direct | interpolate | backward | forward
deriving DecidableEq, Repr

/-- What a code word of a VLC table stands for (30_encoding.md R104): a number, a (last, run, level) entry, the
escape sentinel, or a B macroblock type. -/
inductive Sym where
  | num (n : Nat)
  | rl (last : Bool) (run level : Nat)
  | escape
  | btype (t : BType)
deriving DecidableEq, Repr

/-- One code word of a VLC table: `len` bits whose value, first bit most significant, is `code` (20_memory.md R77). -/
structure VlcRow where
  /-- how many bits -/
  len : Nat
  /-- their value -/
  code : Nat
  /-- what they stand for -/
  sym : Sym
deriving DecidableEq, Repr

/-- The names of the VLC tables (00_scope.md R7, 30_encoding.md R104). -/
inductive VlcTable where
  | dcLum | dcChrom | rlIntra | rlInter | rlRvlcIntra | rlRvlcInter | spriteTraj | mbTypeB | intraMcbpc | interMcbpc
  | cbpy | mv | studioIntra (k : Fin 12) | studioLumaDc | studioChromaDc
deriving DecidableEq, Repr

/-- The instructions: one constructor for each row of spec/opcode_table.json, in the table's order. -/
inductive Instr where
  /-- SC_VO_OBJ: SC 00..1F, video object: no operation (30_encoding.md R102, R112) -/
  | scVoObj (c : Byte)
  /-- SC_VOL: SC 20..2F: selects the VOL header (30_encoding.md R102) -/
  | scVol (c : Byte)
  /-- SC_RESERVED: SC 30..AF, reserved: no operation (30_encoding.md R112) -/
  | scReserved (c : Byte)
  /-- SC_VOS: SC B0: selects the VOS header -/
  | scVos
  /-- SC_VOS_END: SC B1: no operation (30_encoding.md R112) -/
  | scVosEnd
  /-- SC_USER: SC B2: selects USERDATA -/
  | scUser
  /-- SC_GOP: SC B3: selects GOP -/
  | scGop
  /-- SC_SESSION_ERR: SC B4: no operation (30_encoding.md R112) -/
  | scSessionErr
  /-- SC_VISOBJ: SC B5: selects VO -/
  | scVisobj
  /-- SC_VOP: SC B6: ends the header run (30_encoding.md R110) -/
  | scVop
  /-- SC_SLICE: SC B7, studio slice: no operation (30_encoding.md R102) -/
  | scSlice
  /-- SC_EXT: SC B8: runs EXT (30_encoding.md R102) -/
  | scExt
  /-- SC_OTHER: SC B9..FF: no operation (30_encoding.md R112) -/
  | scOther (c : Byte)
  /-- SCAN: 40_header_vol.md R141 -/
  | scan
  /-- VOS: 40_header_vol.md R143 -/
  | vos
  /-- VO: 40_header_vol.md R144 -/
  | vo
  /-- VOL: 40_header_vol.md R146 -/
  | vol
  /-- VOL_STUDIO: 40_header_vol.md R170 -/
  | volStudio
  /-- LOAD_QMATRIX: 40_header_vol.md R160 -/
  | loadQmatrix (kind : MatKind)
  /-- CPLX_EST: 40_header_vol.md R163 -/
  | cplxEst
  /-- EXT: 40_header_vol.md R172 -/
  | extUnit
  /-- GOP: 40_header_vol.md R173 -/
  | gop
  /-- USERDATA: 40_header_vol.md R174 -/
  | userdata
  /-- VOP: 41_header_vop.md R180 -/
  | vop
  /-- TIME_INCR: 41_header_vop.md R184 -/
  | timeIncr
  /-- TI_HEAL: 41_header_vop.md R186 -/
  | tiHeal
  /-- SPRITE_TRAJ: 42_gmc.md R212 -/
  | spriteTraj
  /-- GMC_RESOLVE: 42_gmc.md R216 -/
  | gmcResolve
  /-- GET_AMV: 42_gmc.md R232 -/
  | getAmv (n : Comp)
  /-- MB_I: 43_macroblock.md R240 -/
  | mbI
  /-- MB_P: 43_macroblock.md R250 -/
  | mbP
  /-- MB_B: 43_macroblock.md R270 -/
  | mbB
  /-- MB_STUDIO: 43_macroblock.md R282 -/
  | mbStudio
  /-- MVD: 43_macroblock.md R257 -/
  | mvd (pred : Int) (fc : Nat)
  /-- DQUANT: 43_macroblock.md R246 -/
  | dquant
  /-- BLOCK_INTRA: 44_residual.md R290 -/
  | blockIntra (n : Fin 6) (coded : Bool)
  /-- BLOCK_INTER: 44_residual.md R291 -/
  | blockInter (n : Fin 6)
  /-- COEF_DIRECT: 44_residual.md R297 -/
  | coefDirect (last : Bool) (run level : Nat)
  /-- COEF_ESC1: 44_residual.md R298 -/
  | coefEsc1 (t : RlTable)
  /-- COEF_ESC2: 44_residual.md R299 -/
  | coefEsc2 (t : RlTable)
  /-- COEF_ESC3: 44_residual.md R300 -/
  | coefEsc3
  /-- PRED_DC: 44_residual.md R310 -/
  | predDc (n : Fin 6) (diff : Int)
  /-- PRED_AC: 44_residual.md R318 to R320 -/
  | predAc (n : Fin 6)
  /-- RESYNC_PEEK: 45_resync.md R335 -/
  | resyncPeek
  /-- VIDEO_PACKET_HEADER: 45_resync.md R337 -/
  | videoPacketHeader
  /-- PARTITION_A_I: 45_resync.md R341 -/
  | partitionAI
  /-- PARTITION_A_P: 45_resync.md R342 -/
  | partitionAP
  /-- PARTITION_B_I: 45_resync.md R346 -/
  | partitionBI
  /-- PARTITION_B_P: 45_resync.md R347 -/
  | partitionBP
  /-- MB_PARTITIONED: 45_resync.md R348 -/
  | mbPartitioned
  /-- QUIRK_RESOLVE: 46_quirks.md R361 -/
  | quirkResolve
  /-- CMD_NOP: 30_encoding.md R130 -/
  | cmdNop
  /-- CMD_SCAN_HEADERS: 30_encoding.md R130 -/
  | cmdScanHeaders
  /-- CMD_DECODE_PICTURE: 30_encoding.md R130 -/
  | cmdDecodePicture
  /-- CMD_SETPOS: 30_encoding.md R131 -/
  | cmdSetpos
  /-- CMD_RESOLVE_QUIRKS: 30_encoding.md R130 -/
  | cmdResolveQuirks
  /-- CMD_CLRLOG: 30_encoding.md R130 -/
  | cmdClrlog
  /-- CMD_RESERVED_6: 30_encoding.md R130 -/
  | cmdReserved6
  /-- CMD_RESERVED_7: 30_encoding.md R130 -/
  | cmdReserved7
  /-- CMD_RESERVED_8: 30_encoding.md R130 -/
  | cmdReserved8
  /-- CMD_RESERVED_9: 30_encoding.md R130 -/
  | cmdReserved9
  /-- CMD_RESERVED_10: 30_encoding.md R130 -/
  | cmdReserved10
  /-- CMD_RESERVED_11: 30_encoding.md R130 -/
  | cmdReserved11
  /-- CMD_RESERVED_12: 30_encoding.md R130 -/
  | cmdReserved12
  /-- CMD_RESERVED_13: 30_encoding.md R130 -/
  | cmdReserved13
  /-- CMD_RESERVED_14: 30_encoding.md R130 -/
  | cmdReserved14
  /-- CMD_RESERVED_15: 30_encoding.md R130 -/
  | cmdReserved15
deriving DecidableEq, Repr

end Sys2Proof
end

