-- ==== Sys2Proof/Machine/Codes.lean ====
section
/-! DEFINITION. The `where` tags of a raise and the conditions of STATUS.LOG, by name, and the word of MBTYPEMEM. -/

namespace Sys2Proof.Machine

/-- The `where` tags (60_exceptions.md R372). -/
inductive Tag where
  | none | scan | vos | vo | vol | volFramerate | volWarpPoints | volQmatrix | volStudioShape | volStudioChroma | gop
  | userdata | vop | vopBeforeTimeInc | vopBTiming | vopNotCoded | vopBeforeVopCoded | vopQscale | vopFcode | vopBcode
  | gmcSize | gmcVlc | gmcMid | gmcAfter | mbIMcbpc | mbPMcbpc | mbCbpy | mbMv | mbBType | mbStudio | mbPartTexture
  | partAMcbpc | partADc | partAMv | partCount | partMarker | partBCbpy | partBDc | blockDcSize | blockDcMarker
  | blockDcRange | blockRl | blockEsc3 | blockEsc3Range | blockRvlcEsc | blockPosition | resyncMbnum | resyncSearch
  | vpSpace | vpPrefix | vpMbnum | vpBackward | vpExt | command
deriving DecidableEq, Repr

/-- The sticky conditions of STATUS.LOG (10_state.md R58), in the order of their bits. -/
inductive LogFlag where
  | marker | shape | scalability | reducedRes | tiHealed | gmcOverflow | gmcIdentity | vopNotCoded | bTiming
  | cplxRewind | staticSprite | studio | chroma | nbit | newpred | cplxMethod
deriving DecidableEq, Repr

/-- One word of MBTYPEMEM (20_memory.md R85). -/
structure MbType where
  intra : Bool
  skipped : Bool
  mvType : MvType
  mcsel : Bool
  interlacedDct : Bool
  acPred : Bool
  fieldSelectFwd0 : Bool
  fieldSelectFwd1 : Bool
  fieldSelectBwd0 : Bool
  fieldSelectBwd1 : Bool
deriving DecidableEq, Repr, Inhabited

/-- The zero word of MBTYPEMEM (20_memory.md R89). -/
def MbType.zero : MbType := ⟨false, false, .mv16x16, false, false, false, false, false, false, false⟩

end Sys2Proof.Machine
end

