-- ==== Sys2Proof/Config.lean ====
section
/-! DEFINITION. The configuration record CFG of 00_scope.md R7: its fixed values, its open arguments as opaque
constants, and the free values of the model. No opaque constant here has a body that Lean can see: nothing can be
proved of a value of one, so whatever is proved holds for every value of it. -/

namespace Sys2Proof

/-- CFG.GMC.ref: the formula of the sprite reference points (42_gmc.md R217). -/
inductive GmcRef where
  | src | std
deriving DecidableEq, Repr

/-- A part of CFG that is a function (00_scope.md R7): the default of the rule that names it, or the `k`-th of the
functions an instance may be configured with, of which nothing is known. -/
inductive FormulaArg where
  | standard
  | given (k : Nat)
deriving DecidableEq, Repr

/-! ## CFG.GRAMMAR -/

/-- The start-code classes (30_encoding.md R102). -/
inductive ScClass where
  | voObj | vol | reserved | vos | vosEnd | user | gop | sessionErr | visobj | vop | slice | ext | other
deriving DecidableEq, Repr

/-- One row of CFG.GRAMMAR.sc_class: the suffixes from `first` to `last` are of the class `cls` (30_encoding.md
R102). -/
structure ScRange where
  first : Nat
  last : Nat
  cls : ScClass
deriving DecidableEq, Repr

/-- CFG.GRAMMAR.resync: the stuffing, resync and partition marker patterns (30_encoding.md R107, 45_resync.md R331,
R333). -/
structure ResyncPatterns where
  /-- the stuffing where `k` bits of a byte are read, k in 0..7: the value of the other 8 - k bits -/
  stuffing : List Nat
  /-- the zero bits of a resync marker in an I picture -/
  zerosI : Nat
  /-- the zero bits beyond the range code in any other picture -/
  zerosBase : Nat
  /-- the least range code that counts in a B picture -/
  leastCodeB : Nat
  /-- the width and the value of the DC marker -/
  dcBits : Nat
  dcMarker : Nat
  /-- the width and the value of the motion marker -/
  motionBits : Nat
  motionMarker : Nat
deriving DecidableEq, Repr

/-- A trash counter: of I, of P and S, or of B pictures (10_state.md R27). -/
inductive Trash where
  | i | p | b
deriving DecidableEq, Repr

/-- How many bits a header field has. -/
inductive Width where
  | bits (n : Nat)
  /-- SEQ.time_increment_bits -/
  | timeIncrement
  /-- SEQ.time_increment_bits + plus, at most `cap` (41_header_vop.md R193) -/
  | newpred (plus cap : Nat)
  /-- SEQ.quant_precision -/
  | quantPrecision
  /-- a trash counter (41_header_vop.md R194) -/
  | trash (t : Trash)
deriving DecidableEq, Repr

/-- The registers, and the two switches, that decide whether a header carries a field. -/
inductive HeaderReg where
  | shape | voVerId | volControl | spriteUsage | newPred | interlaced | scalability | enhancementType | lowDelay
  | pictType
  /-- CTRL.QUIRK.IS_3IV1 -/
  | is3iv1
  /-- CFG.GRAMMAR.scal_rewind -/
  | scalRewind
deriving DecidableEq, Repr

/-- A condition of a header's grammar, whose fields are named by `φ`. -/
inductive Cond (φ : Type) where
  /-- field `f` was read, and held `v` -/
  | read (f : φ) (v : Nat)
  /-- register `r` holds `v` -/
  | reg (r : HeaderReg) (v : Nat)
  | not (c : Cond φ)
  | and (c d : Cond φ)
  | or (c d : Cond φ)
deriving DecidableEq, Repr

/-- One act of a header's grammar, over the fields `φ` and the acts `ε` of that header. -/
inductive Item (φ ε : Type) where
  /-- get(w), taken as field `f` -/
  | field (f : φ) (w : Width)
  /-- the value `v`, taken as field `f` with no bit read -/
  | put (f : φ) (v : Nat)
  /-- skip(w) -/
  | skip (w : Width)
  /-- BITPOS is remembered, for a rewind -/
  | mark
  /-- marker(t) (30_encoding.md R103) -/
  | marker (t : Machine.Tag)
  /-- log(f) -/
  | log (f : Machine.LogFlag)
  /-- the header is truncated where fewer than `n` bits are left -/
  | need (n : Nat)
  | act (e : ε)
  /-- the rows that follow are not run -/
  | leave
deriving DecidableEq, Repr

/-- One row of a header's grammar: `item`, where every condition of `guard` holds. -/
structure Row (φ ε : Type) where
  guard : List (Cond φ)
  item : Item φ ε
deriving DecidableEq, Repr

/-- The fields of VOS, VO, VOL, VOL_STUDIO and GOP (40_header_vol.md R143 to R173). -/
inductive SeqField where
  | profile | level
  | objectIdent | voVerIdVo | objectType | signalType | colour
  | layerIdent | voVerId | aspect | volControl | chromaFormat | lowDelay | vbv | shape | timeResolution | fixedRate
  | fixedIncrement | width | height | interlaced | spriteUsage | warpPoints | warpAccuracy | brightness | notEightBit
  | precisionRead | bitsPerPixel | quantPrecision | bitDepth | mpegQuant | loadIntra | loadInter | quarterSample
  | resyncDisable | dataPartitioning | rvlc | newPred | reducedRes | scalability | hn | hm | vn | vm
  | enhancementType
  | progressive | rgb
deriving DecidableEq, Repr

/-- What those headers do beside taking fields. -/
inductive SeqAct where
  /-- the studio profile is detected (R143) -/
  | detectStudio
  /-- TIME.t_frame <- 0 (R150) -/
  | clearFieldPeriod
  /-- the size update of R151 -/
  | setSize
  /-- SEQ.quant_precision from the number read (R158) -/
  | clipPrecision
  /-- the default matrices (R159) -/
  | defaultMatrices
  /-- LOAD_QMATRIX (R160) -/
  | loadMatrix (k : MatKind)
  /-- the scalability rewind (R171) -/
  | scalRewind
  /-- raise INVALID_DATA(VOL_STUDIO_SHAPE) (R170) -/
  | refuseShape
  /-- raise INVALID_DATA(VOL_STUDIO_CHROMA) (R170) -/
  | refuseChroma
deriving DecidableEq, Repr

/-- A part of VOL: rows, or CPLX_EST (40_header_vol.md R163). -/
inductive VolPart where
  | rows (l : List (Row SeqField SeqAct))
  | complexity
deriving DecidableEq, Repr

/-- The fields of CPLX_EST (40_header_vol.md R163). -/
inductive CplxField where
  | disable | method | shapeOff | texture1Off | present1 | texture2Off | motionOff | present2
  /-- a subfield that adds its value times `weight` to a counter -/
  | counter (t : Trash) (weight : Nat)
deriving DecidableEq, Repr

/-- What CPLX_EST does beside taking fields: the rewind (40_header_vol.md R164). -/
inductive CplxAct where
  | rewind
deriving DecidableEq, Repr

/-- The fields of VOP (41_header_vop.md R182 to R200). -/
inductive VopField where
  | type | timeIncrement | vopCoded | roundingType | alphaPresent | dcThreshold | topField | alternateScan | quant
  | fCode | bCode
deriving DecidableEq, Repr

/-- What VOP does beside taking fields. -/
inductive VopAct where
  /-- SEQ.low_delay <- 0 (R183) -/
  | repairLowDelay
  /-- TIME_INCR (R184) -/
  | timeIncr
  /-- the marker probe, and TI_HEAL (R185, R186) -/
  | probe
  /-- the times of the picture (R188 to R190) -/
  | times
  /-- raise FRAME_SKIPPED(VOP_NOT_CODED) (R192) -/
  | notCoded
  /-- the newpred fields (R193) -/
  | newpred
  /-- SPRITE_TRAJ and GMC_RESOLVE (R196) -/
  | sprite
  /-- PIC.sprite_offset <- 0, PIC.sprite_delta <- 0 (R196) -/
  | zeroSprite
deriving DecidableEq, Repr

/-- The one field of the newpred fields that decides another (41_header_vop.md R193). -/
inductive NewpredField where
  | again
deriving DecidableEq, Repr

/-- What TIME_INCR does beside its markers: the unary run (41_header_vop.md R184). -/
inductive TimeAct where
  | unary
deriving DecidableEq, Repr

/-- One part of a point of the sprite trajectory (42_gmc.md R212). -/
inductive TrajItem where
  /-- the x or the y component -/
  | component (c : Comp)
  /-- marker(t); with `unlessDivx413`, only where DIVX413 is off (42_gmc.md R214) -/
  | marker (t : Machine.Tag) (unlessDivx413 : Bool)
deriving DecidableEq, Repr

/-- The bit widths and the order of the header fields (00_scope.md R7, D6): each header as the rows its rule writes as
pseudocode. -/
structure Layout where
  vos : List (Row SeqField SeqAct)
  vo : List (Row SeqField SeqAct)
  vol : List VolPart
  cplx : List (Row CplxField CplxAct)
  volStudio : List (Row SeqField SeqAct)
  gop : List (Row SeqField SeqAct)
  vop : List (List (Row VopField VopAct))
  newpred : List (Row NewpredField Empty)
  timeIncr : List (Row Empty TimeAct)
  traj : List TrajItem
deriving DecidableEq, Repr

/-- CFG.VLC: one list of code words for each table (00_scope.md R7). -/
structure VlcTables where
  dcLum : List VlcRow
  dcChrom : List VlcRow
  rlIntra : List VlcRow
  rlInter : List VlcRow
  rlRvlcIntra : List VlcRow
  rlRvlcInter : List VlcRow
  spriteTraj : List VlcRow
  mbTypeB : List VlcRow
  intraMcbpc : List VlcRow
  interMcbpc : List VlcRow
  cbpy : List VlcRow
  mv : List VlcRow
  studioIntra : List (List VlcRow)
  studioLumaDc : List VlcRow
  studioChromaDc : List VlcRow
deriving DecidableEq, Repr

/-- The parts of CFG that the block reads as data (00_scope.md R7). They are part of State because the host may
write CFG while the block is idle (60_exceptions.md R388) and QUIRK_RESOLVE writes CFG.IDCT_PERM (46_quirks.md
R367); log 1. -/
structure Cfg where
  /-- CFG.VLC -/
  vlc : VlcTables
  /-- CFG.ZIGZAG -/
  zigzag : List Nat
  /-- CFG.ALT_H -/
  altH : List Nat
  /-- CFG.ALT_V -/
  altV : List Nat
  /-- CFG.IDCT_PERM, the current permutation -/
  idctPerm : List Nat
  /-- the configured initial CFG.IDCT_PERM, its value after reset (70_reset_and_hazards.md R400) -/
  idctPermInit : List Nat
  /-- CFG.XVID_IDCT_PERM -/
  xvidIdctPerm : List Nat
  /-- CFG.XVID_IDCT_LO -/
  xvidIdctLo : Int
  /-- CFG.XVID_IDCT_HI -/
  xvidIdctHi : Int
  /-- CFG.DEFAULT_INTRA_MATRIX, in scan order (40_header_vol.md R161) -/
  defaultIntra : List Byte
  /-- CFG.DEFAULT_INTER_MATRIX, in scan order -/
  defaultInter : List Byte
  /-- CFG.GMC.ref -/
  gmcRef : GmcRef
  /-- CFG.DC_TIE_TOP -/
  dcTieTop : Bool
  /-- CFG.GRAMMAR.studio_profile_code -/
  studioProfileCode : BitVec 4
  /-- CFG.GRAMMAR.scal_rewind -/
  scalRewind : Bool
  /-- CFG.GRAMMAR.sc_class; a suffix of no row is of class SC_OTHER -/
  scClass : List ScRange
  /-- CFG.GRAMMAR.resync -/
  resync : ResyncPatterns
  /-- the bit widths and the order of the header fields, the rest of CFG.GRAMMAR -/
  layout : Layout
  /-- CFG.GMC.virtual -/
  gmcVirtual : FormulaArg
  /-- CFG.GMC.case2 -/
  gmcCase2 : FormulaArg
  /-- CFG.GMC.case3 -/
  gmcCase3 : FormulaArg
  /-- CFG.DC_SCALE -/
  dcScale : FormulaArg
  /-- CFG.INT_BITS -/
  intBits : Nat
  /-- CFG.CURSOR_BITS -/
  cursorBits : Nat
  /-- CFG.MAX_MB_W -/
  maxMbW : Nat
  /-- CFG.MAX_MB_H -/
  maxMbH : Nat
deriving DecidableEq, Repr

/-- The rows of a table. -/
def Cfg.table (c : Cfg) : VlcTable → List VlcRow
  | .dcLum => c.vlc.dcLum
  | .dcChrom => c.vlc.dcChrom
  | .rlIntra => c.vlc.rlIntra
  | .rlInter => c.vlc.rlInter
  | .rlRvlcIntra => c.vlc.rlRvlcIntra
  | .rlRvlcInter => c.vlc.rlRvlcInter
  | .spriteTraj => c.vlc.spriteTraj
  | .mbTypeB => c.vlc.mbTypeB
  | .intraMcbpc => c.vlc.intraMcbpc
  | .interMcbpc => c.vlc.interMcbpc
  | .cbpy => c.vlc.cbpy
  | .mv => c.vlc.mv
  | .studioIntra k => c.vlc.studioIntra.getD k.val []
  | .studioLumaDc => c.vlc.studioLumaDc
  | .studioChromaDc => c.vlc.studioChromaDc

namespace Machine

/-! ## What the closed forms of CFG.GMC compute on -/

/-- Two exact integers, x and y. -/
structure IVec where
  x : Int
  y : Int
deriving DecidableEq, Repr, Inhabited

/-- The vector (0, 0). -/
def IVec.zero : IVec := ⟨0, 0⟩

/-- The constants of 42_gmc.md R211 and the displacements `d`. -/
structure GmcIn where
  a : Int
  rho : Nat
  r : Int
  w : Int
  h : Int
  alpha : Nat
  beta : Nat
  d0 : IVec
  d1 : IVec
  d2 : IVec
deriving DecidableEq, Repr

/-- The sprite offsets, deltas and shifts before they are committed. -/
structure Warp where
  /-- sprite_offset[0] -/
  luma : IVec
  /-- sprite_offset[1] -/
  chroma : IVec
  /-- sprite_delta[0] -/
  rowX : IVec
  /-- sprite_delta[1] -/
  rowY : IVec
  /-- sprite_shift[0] -/
  sh0 : Nat
  /-- sprite_shift[1] -/
  sh1 : Nat
deriving DecidableEq, Repr, Inhabited

end Machine

namespace Config

open Machine

/-- The contents of a VLC table: OPEN (00_scope.md R7, D5; 91_not_in_source.md N16). Log 1. -/
opaque vlcRows : VlcTable → List VlcRow
/-- Entry `i`, in scan order, of CFG.DEFAULT_INTRA_MATRIX: OPEN (91_not_in_source.md N12). Log 1. -/
opaque defaultIntraEntry : Nat → Byte
/-- Entry `i`, in scan order, of CFG.DEFAULT_INTER_MATRIX: OPEN (91_not_in_source.md N12). Log 1. -/
opaque defaultInterEntry : Nat → Byte
/-- What a `w`-bit register holds after a write of the integer `v` that does not fit it: the spec calls such a write
a model error and gives no value (00_scope.md R10). Log 3. -/
opaque unfit : (w : Nat) → Int → BitVec w
/-- One less than the DC scaler for a quantiser outside 1..31, which the table of 44_residual.md R313 does not
give. Log 4. -/
opaque dcScaleBeyond : (q : Nat) → (chroma : Bool) → Nat
/-- PIC.intra_dc_threshold for an index of 8 or more, which DCTHR of 41_header_vop.md R195 does not have: a field that
CFG.GRAMMAR makes wider than 3 bits carries one. Log 53. -/
opaque dcThresholdBeyond : (i : Nat) → BitVec 7
/-- ROUNDED_DIV(a, b) for `b` not positive, which 00_scope.md R9 does not define. Log 5. -/
opaque roundedDivBeyond : Int → Int → Int
/-- The `k`-th of the other formulas CFG.GMC.virtual may be: virtual_ref[0] and [1] from the constants and sprite_ref
(42_gmc.md R218). Log 10. -/
opaque givenVirtual : (k : Nat) → GmcIn → (s0 s1 s2 : IVec) → IVec × IVec
/-- The `k`-th of the other formulas CFG.GMC.case2 may be, from the constants, sprite_ref[0] and virtual_ref[0]
(42_gmc.md R221). Log 10. -/
opaque givenCase2 : (k : Nat) → GmcIn → (s0 v0 : IVec) → Warp
/-- The `k`-th of the other formulas CFG.GMC.case3 may be, from the constants, sprite_ref[0], virtual_ref[0] and [1]
(42_gmc.md R222). Log 10. -/
opaque givenCase3 : (k : Nat) → GmcIn → (s0 v0 v1 : IVec) → Warp
/-- One less than the `k`-th of the other tables CFG.DC_SCALE may be (44_residual.md R313). Log 10. -/
opaque givenDcScale : (k q : Nat) → (chroma : Bool) → Nat
/-- The word of COLOC.MBTYPEMEM that a read of word `i` answers where that word is in no published row: `stands` is what
stands there, `rowprog` is ROWPROG[ref]. 70_reset_and_hazards.md R412 forbids the read, and no rule gives its value.
Log 57. -/
opaque unpublishedType : (stands : MbType) → (i rowprog : Nat) → MbType
/-- The word of COLOC.MVMEM that a read of word `i` answers where that word is in no published row, as
`unpublishedType`. Log 57. -/
opaque unpublishedMv : (stands : Mv) → (i rowprog : Nat) → Mv
/-- The quotient of `a` by 0 where a rule divides by a register that is 0. Log 5. -/
opaque divByZero : Int → Int

/-- CFG.ZIGZAG, the default of 44_residual.md R325. -/
def zigzag : List Nat :=
  [0, 1, 8, 16, 9, 2, 3, 10, 17, 24, 32, 25, 18, 11, 4, 5] ++
  [12, 19, 26, 33, 40, 48, 41, 34, 27, 20, 13, 6, 7, 14, 21, 28] ++
  [35, 42, 49, 56, 57, 50, 43, 36, 29, 22, 15, 23, 30, 37, 44, 51] ++
  [58, 59, 52, 45, 38, 31, 39, 46, 53, 60, 61, 54, 47, 55, 62, 63]

/-- CFG.ALT_H, the default of 44_residual.md R325. -/
def altH : List Nat :=
  [0, 1, 2, 3, 8, 9, 16, 17, 10, 11, 4, 5, 6, 7, 15, 14] ++
  [13, 12, 19, 18, 24, 25, 32, 33, 26, 27, 20, 21, 22, 23, 28, 29] ++
  [30, 31, 34, 35, 40, 41, 48, 49, 42, 43, 36, 37, 38, 39, 44, 45] ++
  [46, 47, 50, 51, 56, 57, 58, 59, 52, 53, 54, 55, 60, 61, 62, 63]

/-- CFG.ALT_V, the default of 44_residual.md R325. -/
def altV : List Nat :=
  [0, 8, 16, 24, 1, 9, 2, 10, 17, 25, 32, 40, 48, 56, 57, 49] ++
  [41, 33, 26, 18, 3, 11, 4, 12, 19, 27, 34, 42, 50, 58, 35, 43] ++
  [51, 59, 20, 28, 5, 13, 6, 14, 21, 29, 36, 44, 52, 60, 37, 45] ++
  [53, 61, 22, 30, 7, 15, 23, 31, 38, 46, 54, 62, 39, 47, 55, 63]

/-- The identity permutation, the default of CFG.IDCT_PERM and CFG.XVID_IDCT_PERM (00_scope.md R7). -/
def identityPerm : List Nat := List.range 64

/-- The default code words of MB_TYPE_B (43_macroblock.md R273). -/
def mbTypeB : List VlcRow :=
  [⟨1, 1, .btype .direct⟩, ⟨2, 1, .btype .interpolate⟩, ⟨3, 1, .btype .backward⟩, ⟨4, 1, .btype .forward⟩]

end Config

end Sys2Proof
end

