-- ==== Sys2Proof/WellFormed.lean ====
section
/-! DEFINITION. Which operands of an instruction the spec admits. -/

namespace Sys2Proof

/-- `v` fits 16 signed bits, the width of a motion-vector component and of a stored differential (10_state.md R43). -/
def fitsS16 (v : Int) : Bool := decide (-32768 ≤ v) && decide (v ≤ 32767)

/-- The operands of an instruction are ones the spec admits: a start-code suffix lies in its class (30_encoding.md
R102), a range code is 1 to 7 (10_state.md R31), a table entry has a level of at least 1 and a run of at most 63
(30_encoding.md R104), the escapes 1 and 2 use a table that is not reversible (44_residual.md R296). -/
def Instr.wellFormed : Instr → Bool
  | .scVoObj c => decide (c.toNat ≤ 0x1F)
  | .scVol c => decide (0x20 ≤ c.toNat) && decide (c.toNat ≤ 0x2F)
  | .scReserved c => decide (0x30 ≤ c.toNat) && decide (c.toNat ≤ 0xAF)
  | .scOther c => decide (0xB9 ≤ c.toNat)
  | .mvd pred fc => fitsS16 pred && decide (1 ≤ fc) && decide (fc ≤ 7)
  | .coefDirect _ run level => decide (run ≤ 63) && decide (1 ≤ level)
  | .coefEsc1 t => !t.isRvlc
  | .coefEsc2 t => !t.isRvlc
  | .predDc _ diff => fitsS16 diff
  | .scVos => true
  | .scVosEnd => true
  | .scUser => true
  | .scGop => true
  | .scSessionErr => true
  | .scVisobj => true
  | .scVop => true
  | .scSlice => true
  | .scExt => true
  | .scan => true
  | .vos => true
  | .vo => true
  | .vol => true
  | .volStudio => true
  | .loadQmatrix _ => true
  | .cplxEst => true
  | .extUnit => true
  | .gop => true
  | .userdata => true
  | .vop => true
  | .timeIncr => true
  | .tiHeal => true
  | .spriteTraj => true
  | .gmcResolve => true
  | .getAmv _ => true
  | .mbI => true
  | .mbP => true
  | .mbB => true
  | .mbStudio => true
  | .dquant => true
  | .blockIntra _ _ => true
  | .blockInter _ => true
  | .coefEsc3 => true
  | .predAc _ => true
  | .resyncPeek => true
  | .videoPacketHeader => true
  | .partitionAI => true
  | .partitionAP => true
  | .partitionBI => true
  | .partitionBP => true
  | .mbPartitioned => true
  | .quirkResolve => true
  | .cmdNop => true
  | .cmdScanHeaders => true
  | .cmdDecodePicture => true
  | .cmdSetpos => true
  | .cmdResolveQuirks => true
  | .cmdClrlog => true
  | .cmdReserved6 => true
  | .cmdReserved7 => true
  | .cmdReserved8 => true
  | .cmdReserved9 => true
  | .cmdReserved10 => true
  | .cmdReserved11 => true
  | .cmdReserved12 => true
  | .cmdReserved13 => true
  | .cmdReserved14 => true
  | .cmdReserved15 => true

end Sys2Proof
end

