-- ==== Sys2Proof/Decode.lean ====
section
/-! DEFINITION. What selects an instruction (30_encoding.md R102, R108, R110, R111, R130), the decoder and the
encoder. A start code and a command have code words of their own; every other operation is selected by the control
state, by fields already parsed, and (the escapes) by selector bits, so the selection is a type. -/

namespace Sys2Proof

/-- Where an instruction is selected: the "selected by" column of 30_encoding.md R111, with the operands the place
fixes. The bits that also decide stand beside it, as bytes. -/
inductive Selector where
  /-- a byte-aligned 32-bit start code, in FSM = SCAN, classed by CFG.GRAMMAR.sc_class (R101, R102) -/
  | startCode (classes : List ScRange)
  /-- the command register CTRL.CMD, in FSM = IDLE (R130); its 4 bits are the low bits of one byte -/
  | command
  /-- the control state, with SEQ.studio_profile, PIC.partitioned_frame and PIC.pict_type (R110, 43_macroblock.md R280) -/
  | state (f : Fsm) (studio partitioned : Bool) (pict : PictType)
  /-- FSM = RESYNC_CHECK after a macroblock operation (R110) -/
  | boundary
  /-- FSM = RESYNC_CHECK at a resync marker, or in the recovery search (R110) -/
  | packet
  /-- inside VOL, load flag 1 -/
  | volLoadFlag (kind : MatKind)
  /-- inside VOL, the complexity-estimation step -/
  | volComplexity
  /-- an extension unit, after its start code -/
  | extension
  /-- inside VOP, the unary part of the time increment -/
  | vopTime
  /-- inside VOP, the marker after the time increment absent -/
  | vopMarkerAbsent
  /-- inside VOP, an S picture with a sprite -/
  | vopSprite
  /-- after the sprite trajectory -/
  | trajectoryRead
  /-- a skipped or mcsel macroblock of an S picture with GMC -/
  | globalMotion (n : Comp)
  /-- a motion-vector component -/
  | vectorComponent (pred : Int) (fc : Nat)
  /-- a macroblock whose mode-class code announces a quantiser delta -/
  | quantFlag
  /-- a block of an intra macroblock -/
  | intraBlock (n : Fin 6) (coded : Bool)
  /-- a coded block of an inter macroblock -/
  | interBlock (n : Fin 6)
  /-- after the symbol `s` of the run-level table `t`; `inverted` is CTRL.QUIRK.IS_3IV1 (44_residual.md R296) -/
  | coefficient (inverted : Bool) (t : RlTable) (s : Sym)
  /-- the DC of an intra block, with its differential -/
  | dcOf (n : Fin 6) (diff : Int)
  /-- the AC prediction of an intra block -/
  | acOf (n : Fin 6)
  /-- CMD = RESOLVE_QUIRKS -/
  | quirks
deriving DecidableEq, Repr

/-- Why the decoder refuses. -/
inductive DecodeError where
  /-- the four bytes are not 00 00 01 xx (30_encoding.md R101) -/
  | notAStartCode
  /-- not exactly one byte that holds a 4-bit command -/
  | notACommand
  /-- no row of 30_encoding.md R111 is selected by this control state -/
  | noOperation
  /-- the symbol or the table admits no coefficient path (44_residual.md R296) -/
  | noCoefficient
  /-- fewer bytes than the selection needs -/
  | tooFewBytes
deriving DecidableEq, Repr

/-- The default of CFG.GRAMMAR.sc_class (30_encoding.md R102). -/
def Config.scClass : List ScRange :=
  [⟨0x00, 0x1F, .voObj⟩, ⟨0x20, 0x2F, .vol⟩, ⟨0xB0, 0xB0, .vos⟩, ⟨0xB1, 0xB1, .vosEnd⟩, ⟨0xB2, 0xB2, .user⟩,
   ⟨0xB3, 0xB3, .gop⟩, ⟨0xB4, 0xB4, .sessionErr⟩, ⟨0xB5, 0xB5, .visobj⟩, ⟨0xB6, 0xB6, .vop⟩, ⟨0xB7, 0xB7, .slice⟩,
   ⟨0xB8, 0xB8, .ext⟩, ⟨0xB9, 0xFF, .other⟩, ⟨0x30, 0xAF, .reserved⟩]

/-- The class of the suffix `c`: that of the first row it lies in (30_encoding.md R102); SC_OTHER where no row has
it. -/
def classOf (classes : List ScRange) (c : Byte) : ScClass :=
  match classes.find? (fun r => decide (r.first ≤ c.toNat) && decide (c.toNat ≤ r.last)) with
  | some r => r.cls
  | none => .other

/-- The instruction of a start code of class `k` with suffix `c` (30_encoding.md R102). -/
def ScClass.instr (k : ScClass) (c : Byte) : Instr :=
  match k with
  | .voObj => .scVoObj c
  | .vol => .scVol c
  | .reserved => .scReserved c
  | .vos => .scVos
  | .vosEnd => .scVosEnd
  | .user => .scUser
  | .gop => .scGop
  | .sessionErr => .scSessionErr
  | .visobj => .scVisobj
  | .vop => .scVop
  | .slice => .scSlice
  | .ext => .scExt
  | .other => .scOther c

/-- The instruction of a suffix byte (30_encoding.md R102). -/
def startCodeClass (classes : List ScRange) (c : Byte) : Instr := (classOf classes c).instr c

/-- The command of a code of CTRL.CMD (30_encoding.md R130). -/
def commandOf (c : BitVec 4) : Instr :=
  if c = 0 then .cmdNop
  else if c = 1 then .cmdScanHeaders
  else if c = 2 then .cmdDecodePicture
  else if c = 3 then .cmdSetpos
  else if c = 4 then .cmdResolveQuirks
  else if c = 5 then .cmdClrlog
  else if c = 6 then .cmdReserved6
  else if c = 7 then .cmdReserved7
  else if c = 8 then .cmdReserved8
  else if c = 9 then .cmdReserved9
  else if c = 10 then .cmdReserved10
  else if c = 11 then .cmdReserved11
  else if c = 12 then .cmdReserved12
  else if c = 13 then .cmdReserved13
  else if c = 14 then .cmdReserved14
  else .cmdReserved15

/-- The four bytes of a start code (30_encoding.md R101). -/
def decodeStartCode (classes : List ScRange) : List Byte → Except DecodeError Instr
  | b0 :: b1 :: b2 :: c :: _ =>
    if b0 = 0 ∧ b1 = 0 ∧ b2 = 1 then .ok (startCodeClass classes c) else .error .notAStartCode
  | _ => .error .tooFewBytes

/-- The byte that holds CTRL.CMD in its low four bits. -/
def decodeCommand : List Byte → Except DecodeError Instr
  | b :: _ => if b.toNat < 16 then .ok (commandOf (BitVec.ofNat 4 b.toNat)) else .error .notACommand
  | [] => .error .tooFewBytes

/-- The operation a control state selects (30_encoding.md R110, R111; 43_macroblock.md R280). A studio stream selects
MB_STUDIO wherever the standard path would read macroblock data (43_macroblock.md R282; log 21). -/
def operationOf (f : Fsm) (studio partitioned : Bool) (pict : PictType) : Except DecodeError Instr :=
  match f with
  | .scan => .ok .scan
  | .hdrVos => .ok .vos
  | .hdrVo => .ok .vo
  | .hdrVol => .ok .vol
  | .hdrVolStudio => .ok .volStudio
  | .hdrGop => .ok .gop
  | .hdrUser => .ok .userdata
  | .hdrVop => .ok .vop
  | .partA =>
    if studio then .ok .mbStudio else
    match pict with
    | .i => .ok .partitionAI
    | .p => .ok .partitionAP
    | .s => .ok .partitionAP
    | .b => .error .noOperation
  | .partB =>
    if studio then .ok .mbStudio else
    match pict with
    | .i => .ok .partitionBI
    | .p => .ok .partitionBP
    | .s => .ok .partitionBP
    | .b => .error .noOperation
  | .mb =>
    if studio then .ok .mbStudio else
    match pict with
    | .b => .ok .mbB
    | .i => .ok (if partitioned then .mbPartitioned else .mbI)
    | .p => .ok (if partitioned then .mbPartitioned else .mbP)
    | .s => .ok (if partitioned then .mbPartitioned else .mbP)
  | .idle => .error .noOperation
  | .sliceStart => .error .noOperation
  | .resyncCheck => .error .noOperation
  | .waitRow => .error .noOperation
  | .done => .error .noOperation
  | .error => .error .noOperation

/-- The escape tier of the selector bits, the first bit most significant in the byte: 0 tier 1, 10 tier 2, 11 tier 3
(30_encoding.md R108), both bits inverted when `inverted` (44_residual.md R296). -/
def decodeEscape (inverted : Bool) (t : RlTable) : List Byte → Except DecodeError Instr
  | b :: _ =>
    if (b.getLsbD 7 ^^ inverted) = false then .ok (.coefEsc1 t)
    else if (b.getLsbD 6 ^^ inverted) = false then .ok (.coefEsc2 t)
    else .ok .coefEsc3
  | [] => .error .tooFewBytes

/-- The coefficient path of a run-level symbol (44_residual.md R296, R306). -/
def decodeCoefficient (inverted : Bool) (t : RlTable) (s : Sym) (bytes : List Byte) : Except DecodeError Instr :=
  match s with
  | .rl last run level => .ok (.coefDirect last run level)
  | .escape => if t.isRvlc then .error .noCoefficient else decodeEscape inverted t bytes
  | .num _ => .error .noCoefficient
  | .btype _ => .error .noCoefficient

/-- The decoder: total on every selection and all bytes, and it rejects by name. -/
def decode : Selector → List Byte → Except DecodeError Instr
  | .startCode classes, bytes => decodeStartCode classes bytes
  | .command, bytes => decodeCommand bytes
  | .state f studio part pict, _ => operationOf f studio part pict
  | .boundary, _ => .ok .resyncPeek
  | .packet, _ => .ok .videoPacketHeader
  | .volLoadFlag k, _ => .ok (.loadQmatrix k)
  | .volComplexity, _ => .ok .cplxEst
  | .extension, _ => .ok .extUnit
  | .vopTime, _ => .ok .timeIncr
  | .vopMarkerAbsent, _ => .ok .tiHeal
  | .vopSprite, _ => .ok .spriteTraj
  | .trajectoryRead, _ => .ok .gmcResolve
  | .globalMotion n, _ => .ok (.getAmv n)
  | .vectorComponent p fc, _ => .ok (.mvd p fc)
  | .quantFlag, _ => .ok .dquant
  | .intraBlock n coded, _ => .ok (.blockIntra n coded)
  | .interBlock n, _ => .ok (.blockInter n)
  | .coefficient inv t s, bytes => decodeCoefficient inv t s bytes
  | .dcOf n d, _ => .ok (.predDc n d)
  | .acOf n, _ => .ok (.predAc n)
  | .quirks, _ => .ok .quirkResolve

/-- The bytes of a start code with suffix `c` (30_encoding.md R101). -/
def startCodeBytes (c : Byte) : List Byte := [0, 0, 1, c]

/-- The encoder: the selection and the bytes of an instruction, from the same tables; a start code under the default
classes. -/
def encode : Instr → Selector × List Byte
  | .scVoObj c => (.startCode Config.scClass, startCodeBytes c)
  | .scVol c => (.startCode Config.scClass, startCodeBytes c)
  | .scReserved c => (.startCode Config.scClass, startCodeBytes c)
  | .scVos => (.startCode Config.scClass, startCodeBytes 0xB0)
  | .scVosEnd => (.startCode Config.scClass, startCodeBytes 0xB1)
  | .scUser => (.startCode Config.scClass, startCodeBytes 0xB2)
  | .scGop => (.startCode Config.scClass, startCodeBytes 0xB3)
  | .scSessionErr => (.startCode Config.scClass, startCodeBytes 0xB4)
  | .scVisobj => (.startCode Config.scClass, startCodeBytes 0xB5)
  | .scVop => (.startCode Config.scClass, startCodeBytes 0xB6)
  | .scSlice => (.startCode Config.scClass, startCodeBytes 0xB7)
  | .scExt => (.startCode Config.scClass, startCodeBytes 0xB8)
  | .scOther c => (.startCode Config.scClass, startCodeBytes c)
  | .scan => (.state .scan false false .i, [])
  | .vos => (.state .hdrVos false false .i, [])
  | .vo => (.state .hdrVo false false .i, [])
  | .vol => (.state .hdrVol false false .i, [])
  | .volStudio => (.state .hdrVolStudio true false .i, [])
  | .loadQmatrix k => (.volLoadFlag k, [])
  | .cplxEst => (.volComplexity, [])
  | .extUnit => (.extension, [])
  | .gop => (.state .hdrGop false false .i, [])
  | .userdata => (.state .hdrUser false false .i, [])
  | .vop => (.state .hdrVop false false .i, [])
  | .timeIncr => (.vopTime, [])
  | .tiHeal => (.vopMarkerAbsent, [])
  | .spriteTraj => (.vopSprite, [])
  | .gmcResolve => (.trajectoryRead, [])
  | .getAmv n => (.globalMotion n, [])
  | .mbI => (.state .mb false false .i, [])
  | .mbP => (.state .mb false false .p, [])
  | .mbB => (.state .mb false false .b, [])
  | .mbStudio => (.state .mb true false .i, [])
  | .mvd p fc => (.vectorComponent p fc, [])
  | .dquant => (.quantFlag, [])
  | .blockIntra n coded => (.intraBlock n coded, [])
  | .blockInter n => (.interBlock n, [])
  | .coefDirect last run level => (.coefficient false .intra (.rl last run level), [])
  | .coefEsc1 t => (.coefficient false t .escape, [0x00])
  | .coefEsc2 t => (.coefficient false t .escape, [0x80])
  | .coefEsc3 => (.coefficient false .intra .escape, [0xC0])
  | .predDc n d => (.dcOf n d, [])
  | .predAc n => (.acOf n, [])
  | .resyncPeek => (.boundary, [])
  | .videoPacketHeader => (.packet, [])
  | .partitionAI => (.state .partA false true .i, [])
  | .partitionAP => (.state .partA false true .p, [])
  | .partitionBI => (.state .partB false true .i, [])
  | .partitionBP => (.state .partB false true .p, [])
  | .mbPartitioned => (.state .mb false true .i, [])
  | .quirkResolve => (.quirks, [])
  | .cmdNop => (.command, [0])
  | .cmdScanHeaders => (.command, [1])
  | .cmdDecodePicture => (.command, [2])
  | .cmdSetpos => (.command, [3])
  | .cmdResolveQuirks => (.command, [4])
  | .cmdClrlog => (.command, [5])
  | .cmdReserved6 => (.command, [6])
  | .cmdReserved7 => (.command, [7])
  | .cmdReserved8 => (.command, [8])
  | .cmdReserved9 => (.command, [9])
  | .cmdReserved10 => (.command, [10])
  | .cmdReserved11 => (.command, [11])
  | .cmdReserved12 => (.command, [12])
  | .cmdReserved13 => (.command, [13])
  | .cmdReserved14 => (.command, [14])
  | .cmdReserved15 => (.command, [15])

/-- The four bytes of a 32-bit word as the stream holds them, most significant first (20_memory.md R90). -/
def bytesOfWord32 (w : Nat) : List Byte :=
  [BitVec.ofNat 8 (w / 16777216), BitVec.ofNat 8 (w / 65536), BitVec.ofNat 8 (w / 256), BitVec.ofNat 8 w]

/-- Whether `r` decodes to an instruction. -/
def okOrNone : Except DecodeError Instr → Option Instr
  | .ok i => some i
  | .error _ => none

/-- The instruction of a word of spec/opcode_table.json: 32 bits are a start code, its first byte the most
significant (30_encoding.md R101); 1 to 8 bits are the command register (R130). The other rows of the table have no
bits of their own. The classes are the default ones. -/
def decodeTableWord (nbits w : Nat) : Option Instr :=
  if nbits = 32 then
    if w < 4294967296 then okOrNone (decode (.startCode Config.scClass) (bytesOfWord32 w)) else none
  else if 1 ≤ nbits ∧ nbits ≤ 8 then
    if w < 256 then okOrNone (decode .command [BitVec.ofNat 8 w]) else none
  else none

end Sys2Proof
end

