-- ==== Sys2Proof/Machine/Cells.lean ====
section
/-! DEFINITION. Sparse memories: a list of (address, value) pairs in one canonical form. The bitstream, the
prediction stores and the coefficient blocks are all of this shape. -/

namespace Sys2Proof.Machine

/-- A memory: the pairs that differ from what an unlisted address reads as, addresses strictly rising. -/
abbrev Cells (α : Type) := List (Nat × α)

/-- The value at address `i`; an unlisted address reads as `d`. -/
def Cells.read {α : Type} (d : α) : Cells α → Nat → α
  | [], _ => d
  | (j, v) :: rest, i => if i = j then v else if i < j then d else Cells.read d rest i

/-- The memory with `v` at address `i`; writing what an unlisted address reads as removes the pair. -/
def Cells.write {α : Type} [DecidableEq α] (d : α) (i : Nat) (v : α) : Cells α → Cells α
  | [] => if v = d then [] else [(i, v)]
  | (j, u) :: rest =>
    if i < j then (if v = d then (j, u) :: rest else (i, v) :: (j, u) :: rest)
    else if i = j then (if v = d then rest else (i, v) :: rest)
    else (j, u) :: Cells.write d i v rest

/-- The memory with the values of `vs` at the addresses from `i` up. -/
def Cells.writeList {α : Type} [DecidableEq α] (d : α) (i : Nat) : List α → Cells α → Cells α
  | [], m => m
  | v :: vs, m => Cells.writeList d (i + 1) vs (Cells.write d i v m)

/-- The memory with the `n` addresses from `i` up back at what an unlisted address reads as. -/
def Cells.clear {α : Type} [DecidableEq α] (d : α) (i : Nat) : Nat → Cells α → Cells α
  | 0, m => m
  | n + 1, m => Cells.clear d (i + 1) n (Cells.write d i d m)

/-- Every address of the list is above `lo` (any, when there is none), they rise strictly, and no value is `d`. -/
def Cells.wfFrom {α : Type} [DecidableEq α] (d : α) : Option Nat → Cells α → Bool
  | _, [] => true
  | lo, (j, v) :: rest =>
    (match lo with
      | none => true
      | some k => decide (k < j)) && !decide (v = d) && Cells.wfFrom d (some j) rest

/-- The canonical form: addresses strictly rising, and no pair equal to what an unlisted address reads as. -/
def Cells.wf {α : Type} [DecidableEq α] (d : α) (m : Cells α) : Bool := Cells.wfFrom d none m

/-- The bitstream BS, a list of the host's cells (20_memory.md R70). -/
abbrev Memory := List Host.Cell

/-- What a byte of BS that nothing has written reads as: DESIGN CHOICE, log 2. -/
def Memory.unlisted : Byte := 0

/-- The byte of BS at address `a`. -/
def Memory.read (m : Memory) (a : Nat) : Byte := Cells.read Memory.unlisted m a

/-- BS with the byte at address `a` replaced. -/
def Memory.write (m : Memory) (a : Nat) (v : Byte) : Memory := Cells.write Memory.unlisted a v m

/-- BS with the bytes from address `a` up replaced. -/
def Memory.writeBytes (m : Memory) (a : Nat) (vs : List Byte) : Memory := Cells.writeList Memory.unlisted a vs m

/-- The canonical form of BS. -/
def Memory.wf (m : Memory) : Bool := Cells.wf Memory.unlisted m

end Sys2Proof.Machine
end

