-- ==== Sys2Proof/Machine/Grammar.lean ====
section
/-! DEFINITION. The defaults of CFG.GRAMMAR and of the size parameters, and CFG as it stands before the first command
(00_scope.md R7). -/

namespace Sys2Proof

/-- The rows of `l`, each under the condition `c` too. -/
def under {φ ε : Type} (c : Cond φ) (l : List (Row φ ε)) : List (Row φ ε) :=
  l.map (fun r => { r with guard := c :: r.guard })

/-- Rows without a condition. -/
def always {φ ε : Type} (l : List (Item φ ε)) : List (Row φ ε) := l.map (fun i => ⟨[], i⟩)

namespace Config

/-- CFG.INT_BITS, the width of the GMC overflow guard (00_scope.md R7, D17). -/
def intBits : Nat := 32
/-- CFG.CURSOR_BITS, the width of BITPOS (00_scope.md R7, D24). -/
def cursorBits : Nat := 32
/-- CFG.MAX_MB_W (00_scope.md R7, D12). -/
def maxMbW : Nat := 512
/-- CFG.MAX_MB_H (00_scope.md R7, D12). -/
def maxMbH : Nat := 512

/-- The default of CFG.GRAMMAR.resync (30_encoding.md R107, 45_resync.md R331, R333). -/
def resync : ResyncPatterns where
  stuffing := [0x7F, 0x3F, 0x1F, 0x0F, 0x07, 0x03, 0x01, 0x00]
  zerosI := 16
  zerosBase := 15
  leastCodeB := 2
  dcBits := 19
  dcMarker := 0x6B001
  motionBits := 17
  motionMarker := 0x1F001

/-! ### VOS, VO and GOP (40_header_vol.md R143, R144, R173) -/

/-- VOS (R143). -/
def vosRows : List (Row SeqField SeqAct) :=
  always [.field .profile (.bits 4), .field .level (.bits 4), .act .detectStudio]

/-- VO (R144). -/
def voRows : List (Row SeqField SeqAct) :=
  always [.field .objectIdent (.bits 1)]
    ++ under (.read .objectIdent 1) (always [.field .voVerIdVo (.bits 4), .skip (.bits 3)])
    ++ always [.field .objectType (.bits 4)]
    ++ under (.or (.read .objectType 1) (.read .objectType 2)) (always [.field .signalType (.bits 1)]
      ++ under (.read .signalType 1) (always [.skip (.bits 3), .skip (.bits 1), .field .colour (.bits 1)]
        ++ under (.read .colour 1) (always [.skip (.bits 24)])))

/-- GOP (R173). -/
def gopRows : List (Row SeqField SeqAct) :=
  always [.skip (.bits 5), .skip (.bits 6), .marker .gop, .skip (.bits 6), .skip (.bits 1), .skip (.bits 1)]

/-! ### VOL (40_header_vol.md R147 to R167) -/

/-- The vbv parameters (R148, R170). -/
def vbvRows : List (Row SeqField SeqAct) :=
  always [.skip (.bits 15), .marker .vol, .skip (.bits 15), .marker .vol, .skip (.bits 15), .marker .vol,
    .skip (.bits 3), .skip (.bits 11), .marker .vol, .skip (.bits 15), .marker .vol]

/-- Step 1, identification (R147). -/
def volIdent : List (Row SeqField SeqAct) :=
  always [.skip (.bits 1), .skip (.bits 8), .field .layerIdent (.bits 1)]
    ++ under (.read .layerIdent 1) (always [.field .voVerId (.bits 4), .skip (.bits 3)])
    ++ under (.not (.read .layerIdent 1)) (always [.put .voVerId 1])
    ++ always [.field .aspect (.bits 4)]
    ++ under (.read .aspect 15) (always [.skip (.bits 8), .skip (.bits 8)])

/-- Step 2, control parameters (R148). -/
def volControl : List (Row SeqField SeqAct) :=
  always [.field .volControl (.bits 1)]
    ++ under (.read .volControl 1) (always [.field .chromaFormat (.bits 2)]
      ++ under (.not (.read .chromaFormat 1)) (always [.log .chroma])
      ++ always [.field .lowDelay (.bits 1), .field .vbv (.bits 1)]
      ++ under (.read .vbv 1) vbvRows)
    ++ under (.not (.read .volControl 1)) (always [.put .chromaFormat 1])

/-- Step 3, shape (R149). -/
def volShape : List (Row SeqField SeqAct) :=
  always [.field .shape (.bits 2)]
    ++ under (.not (.read .shape 0)) (always [.log .shape])
    ++ under (.and (.reg .shape 3) (.not (.reg .voVerId 1))) (always [.skip (.bits 4)])

/-- Step 4, time base (R150). -/
def volTimeBase : List (Row SeqField SeqAct) :=
  always [.marker .vol, .field .timeResolution (.bits 16), .marker .vol, .field .fixedRate (.bits 1)]
    ++ under (.read .fixedRate 1) (always [.field .fixedIncrement .timeIncrement])
    ++ under (.not (.read .fixedRate 1)) (always [.put .fixedIncrement 1])
    ++ always [.act .clearFieldPeriod]

/-- The shape is not BIN_ONLY, as steps 5 to 12 ask (R151). -/
def notBinOnly {φ : Type} : Cond φ := .not (.reg .shape 2)

/-- Step 5, picture size (R151). -/
def volSize : List (Row SeqField SeqAct) :=
  under (.reg .shape 0) (always [.marker .vol, .field .width (.bits 13), .marker .vol, .field .height (.bits 13),
    .marker .vol, .act .setSize])

/-- Step 6, interlace and OBMC (R152). -/
def volInterlace : List (Row SeqField SeqAct) := under notBinOnly (always [.field .interlaced (.bits 1), .skip (.bits 1)])

/-- Step 7, sprite usage (R153). -/
def volSpriteUsage : List (Row SeqField SeqAct) :=
  under notBinOnly (under (.reg .voVerId 1) (always [.field .spriteUsage (.bits 1)])
    ++ under (.not (.reg .voVerId 1)) (always [.field .spriteUsage (.bits 2)])
    ++ under (.or (.read .spriteUsage 1) (.read .spriteUsage 3)) (always [.log .staticSprite]))

/-- Step 8, the geometry of a static sprite and the sprite parameters (R154 to R157). -/
def volSprite : List (Row SeqField SeqAct) :=
  under notBinOnly (under (.reg .spriteUsage 1) (always [.skip (.bits 13), .marker .vol, .skip (.bits 13), .marker .vol,
      .skip (.bits 13), .marker .vol, .skip (.bits 13), .marker .vol])
    ++ under (.or (.reg .spriteUsage 1) (.reg .spriteUsage 2)) (always [.field .warpPoints (.bits 6),
        .field .warpAccuracy (.bits 2), .field .brightness (.bits 1)]
      ++ under (.reg .spriteUsage 1) (always [.skip (.bits 1)])))

/-- Step 9, sample and quantiser precision (R158). -/
def volPrecision : List (Row SeqField SeqAct) :=
  under notBinOnly (always [.field .notEightBit (.bits 1)]
    ++ under (.read .notEightBit 1) (always [.field .precisionRead (.bits 4), .field .bitsPerPixel (.bits 4)]
      ++ under (.or (.not (.read .bitsPerPixel 8)) (.not (.read .precisionRead 5))) (always [.log .nbit])
      ++ always [.act .clipPrecision])
    ++ under (.not (.read .notEightBit 1)) (always [.put .quantPrecision 5])
    ++ always [.put .bitDepth 8])

/-- Step 10, quantiser type and matrices (R159). -/
def volMatrices : List (Row SeqField SeqAct) :=
  under notBinOnly (always [.field .mpegQuant (.bits 1)]
    ++ under (.read .mpegQuant 1) (always [.act .defaultMatrices, .field .loadIntra (.bits 1)]
      ++ under (.read .loadIntra 1) (always [.act (.loadMatrix .intra)])
      ++ always [.field .loadInter (.bits 1)]
      ++ under (.read .loadInter 1) (always [.act (.loadMatrix .inter)])))

/-- Step 11, quarter sample and the truncation guard (R162). -/
def volQuarter : List (Row SeqField SeqAct) :=
  under notBinOnly (under (.not (.reg .voVerId 1)) (always [.field .quarterSample (.bits 1)])
    ++ under (.reg .voVerId 1) (always [.put .quarterSample 0])
    ++ always [.need 4])

/-- A subfield that adds `weight` to a counter (R163). -/
def counter (t : Trash) (weight : Nat) : Item CplxField CplxAct := .field (.counter t weight) (.bits 1)

/-- An absent marker rewinds, and the rest is not read (R164). -/
def rewindUnless (f : CplxField) : List (Row CplxField CplxAct) :=
  always [.field f (.bits 1)] ++ under (.read f 0) (always [.act .rewind, .leave])

/-- Step 12, complexity estimation (R163, R164). -/
def cplxRows : List (Row CplxField CplxAct) :=
  always [.field .disable (.bits 1)]
    ++ under (.not (.read .disable 0)) (always [.leave])
    ++ always [.mark, .field .method (.bits 2)]
    ++ under (.not (.or (.read .method 0) (.read .method 1))) (always [.log .cplxMethod, .leave])
    ++ always [.field .shapeOff (.bits 1)]
    ++ under (.read .shapeOff 0) (always (List.replicate 6 (counter .i 8)))
    ++ always [.field .texture1Off (.bits 1)]
    ++ under (.read .texture1Off 0) (always [counter .i 8, counter .p 8, counter .p 8, counter .i 8])
    ++ rewindUnless .present1
    ++ always [.field .texture2Off (.bits 1)]
    ++ under (.read .texture2Off 0) (always [counter .i 8, counter .i 8, counter .i 8, counter .i 4])
    ++ always [.field .motionOff (.bits 1)]
    ++ under (.read .motionOff 0)
      (always [counter .p 8, counter .p 8, counter .b 8, counter .p 8, counter .p 8, counter .p 8])
    ++ rewindUnless .present2
    ++ under (.read .method 1) (always [counter .i 8, counter .p 8])

/-- Step 13, error-resilience flags (R165). -/
def volResilience : List (Row SeqField SeqAct) :=
  always [.field .resyncDisable (.bits 1), .field .dataPartitioning (.bits 1)]
    ++ under (.read .dataPartitioning 1) (always [.field .rvlc (.bits 1)])
    ++ under (.not (.read .dataPartitioning 1)) (always [.put .rvlc 0])

/-- Step 14, version-2 tools (R166). -/
def volVersion2 : List (Row SeqField SeqAct) :=
  under (.not (.reg .voVerId 1)) (always [.field .newPred (.bits 1)]
      ++ under (.read .newPred 1) (always [.log .newpred, .skip (.bits 2), .skip (.bits 1)])
      ++ always [.field .reducedRes (.bits 1)]
      ++ under (.read .reducedRes 1) (always [.log .reducedRes]))
    ++ under (.reg .voVerId 1) (always [.put .newPred 0, .put .reducedRes 0])

/-- The scalability header is rewound (R167, R171): a sampling factor is 0, CFG.GRAMMAR.scal_rewind is on, and the shape
is not BIN_ONLY, which skips R171 (R151; log 13). -/
def scalabilityBroken : Cond SeqField :=
  .and (.or (.or (.read .hn 0) (.read .hm 0)) (.or (.read .vn 0) (.read .vm 0))) (.and (.reg .scalRewind 1) notBinOnly)

/-- Step 15, scalability (R167, R171). -/
def volScalability : List (Row SeqField SeqAct) :=
  always [.field .scalability (.bits 1)]
    ++ under (.read .scalability 1) (always [.mark, .skip (.bits 1), .skip (.bits 4), .skip (.bits 1),
        .field .hn (.bits 5), .field .hm (.bits 5), .field .vn (.bits 5), .field .vm (.bits 5),
        .field .enhancementType (.bits 1)]
      ++ under scalabilityBroken (always [.act .scalRewind])
      ++ under (.not scalabilityBroken) (always [.log .scalability]))

/-- VOL_STUDIO (R170). -/
def volStudioRows : List (Row SeqField SeqAct) :=
  always [.skip (.bits 1), .skip (.bits 8), .skip (.bits 4), .field .shape (.bits 2), .skip (.bits 4),
      .field .progressive (.bits 1)]
    ++ under (.not (.reg .shape 0)) (always [.log .shape, .act .refuseShape])
    ++ always [.field .rgb (.bits 1), .field .chromaFormat (.bits 2)]
    ++ under (.or (.or (.read .chromaFormat 0) (.read .chromaFormat 1)) (.and (.read .rgb 1) (.read .chromaFormat 2)))
      (always [.act .refuseChroma])
    ++ always [.field .bitDepth (.bits 4), .marker .vol, .field .width (.bits 14), .marker .vol,
      .field .height (.bits 14), .marker .vol, .act .setSize, .field .aspect (.bits 4)]
    ++ under (.read .aspect 15) (always [.skip (.bits 16)])
    ++ always [.skip (.bits 4)]
    ++ vbvRows
    ++ always [.field .lowDelay (.bits 1), .field .mpegQuant (.bits 1), .log .studio]

/-! ### VOP (41_header_vop.md R182 to R200) -/

/-- Steps 1 to 7: type, times, vop_coded (R182 to R192). -/
def vopStart : List (Row VopField VopAct) :=
  always [.field .type (.bits 2)]
    ++ under (.and (.reg .pictType 2) (.and (.reg .lowDelay 1) (.reg .volControl 0))) (always [.act .repairLowDelay])
    ++ always [.act .timeIncr, .act .probe]
    ++ under (.reg .is3iv1 1) (always [.field .timeIncrement (.bits 1)])
    ++ under (.not (.reg .is3iv1 1)) (always [.field .timeIncrement .timeIncrement])
    ++ always [.act .times, .marker .vopBeforeVopCoded, .field .vopCoded (.bits 1)]
    ++ under (.read .vopCoded 0) (always [.log .vopNotCoded, .act .notCoded])

/-- A picture with a rounding bit: P, or S with GMC (R193). -/
def hasRounding : Cond VopField := .or (.reg .pictType 1) (.and (.reg .pictType 3) (.reg .spriteUsage 2))

/-- Step 8: newpred, rounding, geometry (R193). -/
def vopRounding : List (Row VopField VopAct) :=
  under (.reg .newPred 1) (always [.act .newpred])
    ++ under (.and notBinOnly hasRounding) (always [.field .roundingType (.bits 1)])
    ++ under (.not (.and notBinOnly hasRounding)) (always [.put .roundingType 0])
    ++ under (.not (.reg .shape 0)) (under (.not (.and (.reg .spriteUsage 1) (.reg .pictType 0)))
        (always [.skip (.bits 13), .marker .vop, .skip (.bits 13), .marker .vop, .skip (.bits 13), .marker .vop,
          .skip (.bits 13)])
      ++ always [.skip (.bits 1), .field .alphaPresent (.bits 1)]
      ++ under (.read .alphaPresent 1) (always [.skip (.bits 8)]))

/-- Steps 9 and 10: the trash counters, the DC threshold, the interlace bits (R194, R195). -/
def vopThreshold : List (Row VopField VopAct) :=
  under notBinOnly (always [.skip (.trash .i)]
    ++ under (.not (.reg .pictType 0)) (always [.skip (.trash .p)])
    ++ under (.reg .pictType 2) (always [.skip (.trash .b)])
    ++ always [.need 3, .field .dcThreshold (.bits 3)]
    ++ under (.reg .interlaced 1) (always [.field .topField (.bits 1), .field .alternateScan (.bits 1)])
    ++ under (.not (.reg .interlaced 1)) (always [.put .topField 0, .put .alternateScan 0]))

/-- Steps 11 to 13: the sprite, the quantiser, the motion ranges (R196 to R198). -/
def vopRanges : List (Row VopField VopAct) :=
  under (.reg .pictType 3) (under (.or (.reg .spriteUsage 1) (.reg .spriteUsage 2)) (always [.act .sprite])
      ++ under (.not (.or (.reg .spriteUsage 1) (.reg .spriteUsage 2))) (always [.act .zeroSprite]))
    ++ under notBinOnly (always [.field .quant .quantPrecision])
    ++ under (.not (.reg .pictType 0)) (always [.field .fCode (.bits 3)])
    ++ under (.reg .pictType 0) (always [.put .fCode 1])
    ++ under (.reg .pictType 2) (always [.field .bCode (.bits 3)])
    ++ under (.not (.reg .pictType 2)) (always [.put .bCode 1])

/-- Step 15, the scalability tail (R200). -/
def vopTail : List (Row VopField VopAct) :=
  under notBinOnly (under (.and (.reg .scalability 0) (.and (.not (.reg .shape 0)) (.not (.reg .pictType 0))))
      (always [.skip (.bits 1)])
    ++ under (.not (.reg .scalability 0)) (under (.reg .enhancementType 1) (always [.skip (.bits 1)])
      ++ always [.skip (.bits 2)]))

/-- The newpred fields (R193). The marker stands after them whether or not the second field does, as MPEG-4 part 2 has
it: the `;` of R193 may also be read as putting it under the flag. PRESUMED, log 56. -/
def newpredRows : List (Row NewpredField Empty) :=
  always [.skip (.newpred 3 15), .field .again (.bits 1)]
    ++ under (.read .again 1) (always [.skip (.newpred 3 15)])
    ++ always [.marker .vop]

/-- TIME_INCR (R184): the unary run, then its marker (30_encoding.md R105). -/
def timeIncrRows : List (Row Empty TimeAct) := always [.act .unary, .marker .vopBeforeTimeInc]

/-- A point of the sprite trajectory (42_gmc.md R212): the marker GMC_MID stands unless DIVX413 (R214). -/
def trajItems : List TrajItem :=
  [.component .x, .marker .gmcMid true, .component .y, .marker .gmcAfter false]

/-- The default layout of the headers (40_header_vol.md R143 to R173, 41_header_vop.md R182 to R200, 42_gmc.md
R212). -/
def layout : Layout where
  vos := vosRows
  vo := voRows
  vol :=
    [.rows volIdent, .rows volControl, .rows volShape, .rows volTimeBase, .rows volSize, .rows volInterlace,
     .rows volSpriteUsage, .rows volSprite, .rows volPrecision, .rows volMatrices, .rows volQuarter, .complexity,
     .rows volResilience, .rows volVersion2, .rows volScalability]
  cplx := cplxRows
  volStudio := volStudioRows
  gop := gopRows
  vop := [vopStart, vopRounding, vopThreshold, vopRanges, vopTail]
  newpred := newpredRows
  timeIncr := timeIncrRows
  traj := trajItems

/-- CFG as the environment configures it before the first command (70_reset_and_hazards.md R404): the defaults the
spec gives, opaque constants where it gives none. -/
def initial : Cfg where
  vlc :=
    { dcLum := vlcRows .dcLum, dcChrom := vlcRows .dcChrom, rlIntra := vlcRows .rlIntra, rlInter := vlcRows .rlInter,
      rlRvlcIntra := vlcRows .rlRvlcIntra, rlRvlcInter := vlcRows .rlRvlcInter, spriteTraj := vlcRows .spriteTraj,
      mbTypeB := mbTypeB, intraMcbpc := vlcRows .intraMcbpc, interMcbpc := vlcRows .interMcbpc,
      cbpy := vlcRows .cbpy, mv := vlcRows .mv,
      studioIntra := (List.finRange 12).map (fun k => vlcRows (.studioIntra k)),
      studioLumaDc := vlcRows .studioLumaDc, studioChromaDc := vlcRows .studioChromaDc }
  zigzag := zigzag
  altH := altH
  altV := altV
  idctPerm := identityPerm
  idctPermInit := identityPerm
  xvidIdctPerm := identityPerm
  xvidIdctLo := 0
  xvidIdctHi := 2147483647
  defaultIntra := (List.range 64).map defaultIntraEntry
  defaultInter := (List.range 64).map defaultInterEntry
  gmcRef := .src
  dcTieTop := true
  studioProfileCode := 14
  scalRewind := true
  scClass := scClass
  resync := resync
  layout := layout
  gmcVirtual := .standard
  gmcCase2 := .standard
  gmcCase3 := .standard
  dcScale := .standard
  intBits := intBits
  cursorBits := cursorBits
  maxMbW := maxMbW
  maxMbH := maxMbH

end Config

end Sys2Proof
end

