-- ==== Sys2Proof/Machine/Tables.lean ====
section
/-! DEFINITION. Quantisation matrices, scan orders and permutations as lists of 64 entries. -/

namespace Sys2Proof.Machine

/-- Entry `i` of a permutation or scan table. -/
def permAt (p : List Nat) (i : Nat) : Nat := p.getD i 0

/-- Place(i): the raster position that scan position `i` of a matrix is stored at (40_header_vol.md R160). -/
def place (perm scan : List Nat) (i : Nat) : Nat := permAt perm (permAt scan i)

/-- The matrix with `v` at scan position `i`. -/
def putScan (perm scan : List Nat) (i : Nat) (v : Byte) (m : List Byte) : List Byte := m.set (place perm scan i) v

/-- The matrix with the values of `vs` at the scan positions from `i` up. -/
def putScanList (perm scan : List Nat) (i : Nat) : List Byte → List Byte → List Byte
  | [], m => m
  | v :: vs, m => putScanList perm scan (i + 1) vs (putScan perm scan i v m)

/-- The matrix with `v` at the `n` scan positions from `i` up. -/
def fillScan (perm scan : List Nat) (v : Byte) (i : Nat) : Nat → List Byte → List Byte
  | 0, m => m
  | n + 1, m => fillScan perm scan v (i + 1) n (putScan perm scan i v m)

/-- 64 zero entries. -/
def zeroMatrix : List Byte := List.replicate 64 0

/-- A default matrix, given in scan order, loaded through Place (40_header_vol.md R159, R161). -/
def placedMatrix (c : Cfg) (d : List Byte) : List Byte := putScanList c.idctPerm c.zigzag 0 d zeroMatrix

/-- repermute: the entry at `old[j]` moves to `new[j]`, for every j in 0..63 (46_quirks.md R367). -/
def repermute (m : List Byte) (new old : List Nat) : List Byte :=
  (List.range 64).foldl (fun acc j => acc.set (permAt new j) (m.getD (permAt old j) 0)) m

/-- `p` is a permutation of 0..63 (44_residual.md R325, 70_reset_and_hazards.md R404). -/
def isPerm64 (p : List Nat) : Bool := decide (p.length = 64) && (List.range 64).all (fun i => p.contains i)

/-- The code word of `a` begins the code word of `b` (or is equal to it). -/
def codeBegins (a b : VlcRow) : Bool := decide (a.len ≤ b.len) && decide (b.code >>> (b.len - a.len) = a.code)

/-- A table is prefix-free, with code words of 1 to 32 bits (20_memory.md R77). -/
def tableOk : List VlcRow → Bool
  | [] => true
  | r :: rest =>
    decide (1 ≤ r.len) && decide (r.len ≤ 32) && decide (r.code < 2 ^ r.len)
      && rest.all (fun q => !codeBegins r q && !codeBegins q r) && tableOk rest

/-- Every table of CFG.VLC is prefix-free (70_reset_and_hazards.md R404). -/
def vlcOk (v : VlcTables) : Bool :=
  tableOk v.dcLum && tableOk v.dcChrom && tableOk v.rlIntra && tableOk v.rlInter && tableOk v.rlRvlcIntra
    && tableOk v.rlRvlcInter && tableOk v.spriteTraj && tableOk v.mbTypeB && tableOk v.intraMcbpc
    && tableOk v.interMcbpc && tableOk v.cbpy && tableOk v.mv && v.studioIntra.all tableOk
    && tableOk v.studioLumaDc && tableOk v.studioChromaDc

/-- Whatever SEQ holds, a field of this width has at most 32 bits (20_memory.md R92): SEQ.time_increment_bits is a register
of 5 bits and SEQ.quant_precision of 4, but a trash counter may hold 255. -/
def Width.small : Width → Bool
  | .bits n => decide (n ≤ 32)
  | .timeIncrement => true
  | .newpred _ cap => decide (cap ≤ 32)
  | .quantPrecision => true
  | .trash _ => false

/-- No field of the rows is read by one get of more than 32 bits. -/
def rowsOk {φ ε : Type} (l : List (Row φ ε)) : Bool :=
  l.all (fun r => match r.item with
    | .field _ w => Width.small w
    | .put _ _ => true
    | .skip _ => true
    | .mark => true
    | .marker _ => true
    | .log _ => true
    | .need _ => true
    | .act _ => true
    | .leave => true)

/-- The same of a part of VOL. -/
def volPartOk : VolPart → Bool
  | .rows l => rowsOk l
  | .complexity => true

/-- No read of a header, and no read of a partition marker, is wider than one get allows (20_memory.md R92). -/
def grammarOk (c : Cfg) : Bool :=
  rowsOk c.layout.vos && rowsOk c.layout.vo && c.layout.vol.all volPartOk && rowsOk c.layout.cplx
    && rowsOk c.layout.volStudio && rowsOk c.layout.gop && c.layout.vop.all rowsOk && rowsOk c.layout.newpred
    && rowsOk c.layout.timeIncr
    && decide (c.resync.dcBits ≤ 32) && decide (c.resync.motionBits ≤ 32)

/-- The premises on CFG under which the rules hold (70_reset_and_hazards.md R404): prefix-free tables, scans and
permutations that are bijections on 0..63, default matrices of 64 entries, reads of at most 32 bits
(20_memory.md R92). -/
def cfgOk (c : Cfg) : Bool :=
  isPerm64 c.zigzag && isPerm64 c.altH && isPerm64 c.altV && isPerm64 c.idctPerm && isPerm64 c.idctPermInit
    && isPerm64 c.xvidIdctPerm && vlcOk c.vlc && decide (c.vlc.studioIntra.length = 12)
    && decide (c.defaultIntra.length = 64) && decide (c.defaultInter.length = 64)
    && grammarOk c

end Sys2Proof.Machine
end

