-- ==== Sys2Proof/Machine/State.lean ====
section
/-! DEFINITION. Everything the spec gives the machine, as plain data, and the machine right after reset
(10_state.md, 20_memory.md R80 to R89, 70_reset_and_hazards.md R400). A one-bit field is a Bool. -/

namespace Sys2Proof.Machine

/-- The result codes (60_exceptions.md R370), in the order of their numbers. -/
inductive ResultCode where
  | none | ok | okAtVop | okWithErrors | endOfData | frameSkipped | sliceEnd | sliceNoend | invalidData | badCommand
  | refusedStudio | fatalTruncated | fatalExhausted | fatalRange | fatalGmc | fatalNoVol | fatalNoResync
deriving DecidableEq, Repr

/-- SEQ, the sequence registers (10_state.md R23 to R29; 40_header_vol.md R144 for `voVerIdVo`). -/
structure Seq where
  shape : BitVec 2
  chromaFormat : BitVec 2
  bitDepth : BitVec 4
  timeIncrementBits : BitVec 5
  quantPrecision : BitVec 4
  spriteUsage : BitVec 2
  numSpriteWarpingPoints : BitVec 3
  spriteWarpingAccuracy : BitVec 2
  intraMatrix : List Byte
  interMatrix : List Byte
  chromaIntraMatrix : List Byte
  chromaInterMatrix : List Byte
  scalability : Bool
  enhancementType : Bool
  resyncMarker : Bool
  dataPartitioning : Bool
  rvlc : Bool
  studioProfile : Bool
  width : BitVec 14
  height : BitVec 14
  contextReinit : Bool
  timeIncrementResolution : BitVec 16
  fixedVopTimeIncrement : BitVec 16
  profile : BitVec 4
  level : BitVec 4
  reducedResVop : Bool
  interlaced : Bool
  mpegQuant : Bool
  quarterSample : Bool
  voVerId : BitVec 4
  voVerIdVo : BitVec 4
  lowDelay : Bool
  spriteBrightnessChange : Bool
  newPred : Bool
  volControl : Bool
  /-- SEQ.valid, read as STATUS.SEQ_VALID too (R57) -/
  valid : Bool
  trashI : BitVec 8
  trashP : BitVec 8
  trashB : BitVec 8
  /-- the 256-byte text buffer (R28) -/
  userData : Cells Byte
  userDataLen : BitVec 9
  divxVersion : BitVec 32
  divxBuild : BitVec 32
  xvidBuild : BitVec 32
  lavcBuild : BitVec 32
deriving DecidableEq, Repr

/-- PIC, the picture registers (10_state.md R30 to R37). -/
structure Pic where
  pictType : PictType
  qscale : BitVec 9
  fCode : BitVec 3
  bCode : BitVec 3
  noRounding : Bool
  timeIncr : BitVec 16
  timeIncrement : BitVec 16
  time : BitVec 64
  /-- PIC.sprite_offset[0], luma -/
  spriteOffsetLuma : IVec
  /-- PIC.sprite_offset[1], chroma -/
  spriteOffsetChroma : IVec
  /-- PIC.sprite_delta[0]: the x output's step along x and along y -/
  spriteDeltaX : IVec
  /-- PIC.sprite_delta[1]: the y output's step along x and along y -/
  spriteDeltaY : IVec
  /-- PIC.sprite_shift[0] -/
  spriteShiftLuma : BitVec 6
  /-- PIC.sprite_shift[1] -/
  spriteShiftChroma : BitVec 6
  partitionedFrame : Bool
  vopCoded : Bool
  ppTime : BitVec 32
  pbTime : BitVec 32
  ppFieldTime : BitVec 32
  pbFieldTime : BitVec 32
  spriteTraj : Quad (Vec 16)
  realSpriteWarpingPoints : BitVec 3
  gmcOverflow : Bool
  tiHealed : Bool
  intraDcThreshold : BitVec 7
  alternateScan : Bool
  topFieldFirst : Bool
  chromaQscale : BitVec 9
deriving DecidableEq, Repr

/-- TIME, the timing registers (10_state.md R38). -/
structure Time where
  timeBase : BitVec 32
  lastTimeBase : BitVec 32
  lastNonBTime : BitVec 64
  ppTime : BitVec 32
  tFrame : BitVec 32
deriving DecidableEq, Repr

/-- The two fields' vectors of one direction of SLICE.last_mv (10_state.md R40). -/
structure LastMv where
  field0 : Mv
  field1 : Mv
deriving DecidableEq, Repr

/-- SLICE, the slice registers (10_state.md R40). -/
structure Slice where
  mbX : BitVec 10
  mbY : BitVec 10
  resyncMbX : BitVec 10
  resyncMbY : BitVec 10
  firstSliceLine : Bool
  mbNumLeft : BitVec 20
  mbValid : BitVec 20
  mbErr : BitVec 20
  lastResyncPos : BitVec 32
  nextMbi : BitVec 20
  /-- SLICE.last_mv[0] -/
  lastMvFwd : LastMv
  /-- SLICE.last_mv[1] -/
  lastMvBwd : LastMv
deriving DecidableEq, Repr

/-- MB, the macroblock working record (10_state.md R42 to R46). -/
structure Mb where
  intra : Bool
  skipped : Bool
  direct : Bool
  mvType : MvType
  /-- bit 1 forward, bit 0 backward -/
  mvDir : BitVec 2
  /-- MB.mv[0][0..3] -/
  mvFwd : Quad Mv
  /-- MB.mv[1][0..3] -/
  mvBwd : Quad Mv
  qscale : BitVec 9
  cbp : BitVec 6
  acPred : Bool
  /-- MB.pred_dir: true is top (1), false is left (0) -/
  predDir : Six Bool
  /-- MB.block[0..5], coefficients at raster positions 0..63, an unlisted one 0 -/
  block : Six (Cells (BitVec 16))
  mcsel : Bool
  /-- MB.field_select[0][0] -/
  fieldSelectFwd0 : Bool
  /-- MB.field_select[0][1] -/
  fieldSelectFwd1 : Bool
  /-- MB.field_select[1][0] -/
  fieldSelectBwd0 : Bool
  /-- MB.field_select[1][1] -/
  fieldSelectBwd1 : Bool
  interlacedDct : Bool
  lastIndex : Six (BitVec 7)
  dquant : BitVec 3
  cbpc : BitVec 2
deriving DecidableEq, Repr

/-- CTRL, the host's registers (10_state.md R55). -/
structure Ctrl where
  cmd : BitVec 4
  strict : Bool
  quirk : BitVec 32
  codecTag : BitVec 32
  pos : BitVec 32
  ack : Bool
deriving DecidableEq, Repr

/-- STATUS (10_state.md R56 to R58). SEQ_VALID and BUSY are views (R57, R59): see `State.busy`. -/
structure Status where
  result : ResultCode
  /-- STATUS.WHERE -/
  tag : Tag
  errpos : BitVec 32
  picValid : Bool
  log : BitVec 32
deriving DecidableEq, Repr

/-- One record of PARTMEM: what the two partitions decoded for one macroblock (20_memory.md R85, 45_resync.md R341
to R347). -/
structure PartRec where
  intra : Bool
  skipped : Bool
  mcsel : Bool
  mvType : MvType
  mv : Quad Mv
  cbpc : BitVec 2
  hasDquant : Bool
  qscale : BitVec 9
  dcDiff : Six (BitVec 16)
  dir : Six Bool
  acPred : Bool
  cbp : BitVec 6
deriving DecidableEq, Repr

/-- The zero record of PARTMEM (20_memory.md R89). -/
def PartRec.zero : PartRec :=
  ⟨false, false, false, .mv16x16, Quad.all (Vec.zero 16), 0, false, 0, Six.all 0, Six.all false, false, 0⟩

/-- The prediction stores and this instance's row counter (20_memory.md R80 to R89). -/
structure Stores where
  dcLuma : Cells (BitVec 16)
  dcCb : Cells (BitVec 16)
  dcCr : Cells (BitVec 16)
  /-- ACMEM, word `k` of block position `X` at address 16 X + k -/
  acLuma : Cells (BitVec 16)
  acCb : Cells (BitVec 16)
  acCr : Cells (BitVec 16)
  qmem : Cells (BitVec 9)
  mvmem : Cells Mv
  mbtype : Cells MbType
  partmem : Cells PartRec
  /-- ROWPROG[self] -/
  rowprog : Nat
deriving DecidableEq, Repr

/-- The stores at the start of a picture and after reset (20_memory.md R89): nothing listed, an unlisted word of
DCMEM reading 1024 and of every other store 0. -/
def Stores.initial : Stores := ⟨[], [], [], [], [], [], [], [], [], [], 0⟩

/-- The views of the next reference picture that a B picture reads: COLOC and ROWPROG[ref] (20_memory.md R86, R87).
Written by the peer and the host, never by the engine. -/
structure Coloc where
  mvmem : Cells Mv
  mbtype : Cells MbType
  rowprog : Nat
deriving DecidableEq, Repr

/-- One emission on the record port (30_encoding.md R133). -/
inductive PortRecord where
  /-- a decoded macroblock: its coordinates and MB -/
  | decoded (mbX mbY : BitVec 10) (mb : Mb)
  /-- a macroblock that ended INVALID_DATA -/
  | failed (mbX mbY : BitVec 10)
deriving DecidableEq, Repr

/-- The soft answers of a macroblock operation (43_macroblock.md R283, 45_resync.md R349). -/
inductive Boundary where
  | ok | sliceEnd | sliceNoend
deriving DecidableEq, Repr

/-- What state RESYNC_CHECK does next (45_resync.md R349, R350; the model's own field, log 7). -/
inductive Phase where
  /-- a macroblock operation ended: RESYNC_PEEK is next -/
  | peek
  /-- the macroblock's answer is known: the tests of R349 are next -/
  | decide (r : Boundary)
  /-- a marker was found and its stuffing skipped: VIDEO_PACKET_HEADER is next -/
  | header
  /-- an INVALID_DATA or a SLICE_NOEND: the recovery of R350 starts next -/
  | recover
  /-- inside the recovery search of R350 -/
  | search
deriving DecidableEq, Repr

/-- The model's own fields (log 6, log 7, log 42). -/
structure Eng where
  phase : Phase
  /-- the value of 43_macroblock.md R245, read by 44_residual.md R290 -/
  useIntraDcVlc : Bool
  /-- the values an operation run by itself hands to its caller -/
  ret : List Int
  /-- the macroblocks of the picture that a failure lost (70_reset_and_hazards.md R413) -/
  failed : List Nat
deriving DecidableEq, Repr

/-- The state of the machine. -/
structure State where
  /-- the program counter: the bit cursor BITPOS (10_state.md R21) -/
  bitpos : Nat
  /-- LEN, the length of BS in bytes -/
  len : BitVec 32
  /-- BS, the bitstream -/
  bs : Memory
  /-- FSM (10_state.md R22) -/
  fsm : Fsm
  seq : Seq
  pic : Pic
  time : Time
  slice : Slice
  mb : Mb
  ctrl : Ctrl
  status : Status
  stores : Stores
  coloc : Coloc
  cfg : Cfg
  /-- the records emitted on the record port and not yet taken by the host, oldest first (30_encoding.md R133) -/
  port : List PortRecord
  eng : Eng
deriving DecidableEq, Repr

/-- Why the machine stops with a fault. -/
inductive Fault where
  /-- raised by an operation that reaches a prediction store while the picture has more macroblocks than the store
  has slots, CFG.MAX_MB_W * CFG.MAX_MB_H: the last macroblocks have no slot (20_memory.md R88). Safe; log 20. -/
  | storeTooSmall
deriving DecidableEq, Repr

/-- Why an instruction has no meaning. -/
inductive Refusal where
  /-- raised by exec for an instruction that is not modelled yet. Safe. -/
  | notModelled (mnemonic : String)
  /-- raised by step when no row of 30_encoding.md R111 is selected; no run from reset reaches it. Safe; log 21. -/
  | undecodable (e : DecodeError)
deriving DecidableEq, Repr

/-- SEQ after reset (10_state.md R24 to R29, 70_reset_and_hazards.md R400). -/
def Seq.reset (c : Cfg) : Seq where
  shape := 0
  chromaFormat := 1
  bitDepth := 8
  timeIncrementBits := 0
  quantPrecision := 5
  spriteUsage := 0
  numSpriteWarpingPoints := 0
  spriteWarpingAccuracy := 0
  intraMatrix := placedMatrix c c.defaultIntra
  interMatrix := placedMatrix c c.defaultInter
  chromaIntraMatrix := placedMatrix c c.defaultIntra
  chromaInterMatrix := placedMatrix c c.defaultInter
  scalability := false
  enhancementType := false
  resyncMarker := false
  dataPartitioning := false
  rvlc := false
  studioProfile := false
  width := 0
  height := 0
  contextReinit := false
  timeIncrementResolution := 0
  fixedVopTimeIncrement := 1
  profile := 0
  level := 0
  reducedResVop := false
  interlaced := false
  mpegQuant := false
  quarterSample := false
  voVerId := 1
  voVerIdVo := 1
  lowDelay := false
  spriteBrightnessChange := false
  newPred := false
  volControl := false
  valid := false
  trashI := 0
  trashP := 0
  trashB := 0
  userData := []
  userDataLen := 0
  divxVersion := -1
  divxBuild := -1
  xvidBuild := -1
  lavcBuild := -1

/-- PIC after reset (10_state.md R31, R35). -/
def Pic.reset : Pic where
  pictType := .i
  qscale := 0
  fCode := 1
  bCode := 1
  noRounding := false
  timeIncr := 0
  timeIncrement := 0
  time := 0
  spriteOffsetLuma := IVec.zero
  spriteOffsetChroma := IVec.zero
  spriteDeltaX := IVec.zero
  spriteDeltaY := IVec.zero
  spriteShiftLuma := 0
  spriteShiftChroma := 0
  partitionedFrame := false
  vopCoded := false
  ppTime := 0
  pbTime := 0
  ppFieldTime := 0
  pbFieldTime := 0
  spriteTraj := Quad.all (Vec.zero 16)
  realSpriteWarpingPoints := 0
  gmcOverflow := false
  tiHealed := false
  intraDcThreshold := 0
  alternateScan := false
  topFieldFirst := false
  chromaQscale := 0

/-- TIME after reset (10_state.md R38). -/
def Time.reset : Time := ⟨0, 0, 0, 0, 0⟩

/-- SLICE.last_mv of one direction at zero. -/
def LastMv.zero : LastMv := ⟨Vec.zero 16, Vec.zero 16⟩

/-- SLICE after reset (10_state.md R40). -/
def Slice.reset : Slice := ⟨0, 0, 0, 0, false, 0, 0, 0, 0, 0, LastMv.zero, LastMv.zero⟩

/-- MB after reset (10_state.md R43, R45). -/
def Mb.reset : Mb where
  intra := false
  skipped := false
  direct := false
  mvType := .mv16x16
  mvDir := 0
  mvFwd := Quad.all (Vec.zero 16)
  mvBwd := Quad.all (Vec.zero 16)
  qscale := 0
  cbp := 0
  acPred := false
  predDir := Six.all false
  block := Six.all []
  mcsel := false
  fieldSelectFwd0 := false
  fieldSelectFwd1 := false
  fieldSelectBwd0 := false
  fieldSelectBwd1 := false
  interlacedDct := false
  lastIndex := Six.all (-1)
  dquant := 0
  cbpc := 0

/-- CTRL after reset (10_state.md R55). -/
def Ctrl.reset : Ctrl := ⟨0, false, 0, 0, 0, false⟩

/-- STATUS after reset (10_state.md R56 to R58). -/
def Status.reset : Status := ⟨.none, .none, 0, false, 0⟩

/-- The model's own fields after reset (log 7). -/
def Eng.reset : Eng := ⟨.peek, false, [], []⟩

/-- The views of a peer that has published nothing (log 25). -/
def Coloc.empty : Coloc := ⟨[], [], 0⟩

/-- The machine right after reset under the configuration `c`, with the peer's views `v`: CFG and the views are not
reset, but CFG.IDCT_PERM goes back to its configured value (70_reset_and_hazards.md R400). BS and LEN are unspecified
there: log 2. -/
def State.resetUnder (c : Cfg) (v : Coloc) : State where
  bitpos := 0
  len := 0
  bs := []
  fsm := .idle
  seq := Seq.reset { c with idctPerm := c.idctPermInit }
  pic := Pic.reset
  time := Time.reset
  slice := Slice.reset
  mb := Mb.reset
  ctrl := Ctrl.reset
  status := Status.reset
  stores := Stores.initial
  coloc := v
  cfg := { c with idctPerm := c.idctPermInit }
  port := []
  eng := Eng.reset

/-- The machine right after reset (70_reset_and_hazards.md R400), configured as `Config.initial`. -/
def State.reset : State := State.resetUnder Config.initial Coloc.empty

end Sys2Proof.Machine
end

