-- ==== Sys2Proof/Machine/Flags.lean ====
section
/-! DEFINITION. Numbers of states, results and tags; the bits of STATUS.LOG and of CTRL.QUIRK. The block has no
condition codes (10_state.md R47): the sticky log bits and the host's quirk bits are its only flags. -/

namespace Sys2Proof.Machine

/-- The code of a control state (10_state.md R22). -/
def fsmCode : Fsm → Nat
  | .idle => 0
  | .scan => 1
  | .hdrVos => 2
  | .hdrVo => 3
  | .hdrVol => 4
  | .hdrVolStudio => 5
  | .hdrGop => 6
  | .hdrUser => 7
  | .hdrVop => 8
  | .sliceStart => 9
  | .partA => 10
  | .partB => 11
  | .mb => 12
  | .resyncCheck => 13
  | .waitRow => 14
  | .done => 15
  | .error => 16

/-- PIC.pict_type as a number (10_state.md R31). -/
def pictTypeCode : PictType → BitVec 2
  | .i => 0
  | .p => 1
  | .b => 2
  | .s => 3

/-- The picture type of a 2-bit code (10_state.md R31, 41_header_vop.md R182). -/
def pictTypeOf (n : BitVec 2) : PictType :=
  if n = 0 then .i else if n = 1 then .p else if n = 2 then .b else .s

/-- MB.mv_type as a number (10_state.md R43). -/
def mvTypeCode : MvType → BitVec 2
  | .mv16x16 => 0
  | .mv8x8 => 1
  | .mvField => 2

/-- The number of a result code (60_exceptions.md R370). -/
def resultNumber : ResultCode → BitVec 5
  | .none => 0
  | .ok => 1
  | .okAtVop => 2
  | .okWithErrors => 3
  | .endOfData => 4
  | .frameSkipped => 5
  | .sliceEnd => 6
  | .sliceNoend => 7
  | .invalidData => 8
  | .badCommand => 9
  | .refusedStudio => 10
  | .fatalTruncated => 16
  | .fatalExhausted => 17
  | .fatalRange => 18
  | .fatalGmc => 19
  | .fatalNoVol => 20
  | .fatalNoResync => 21

/-- The codes of the source's class Fatal-for-frame: bit 4 set, or REFUSED_STUDIO (60_exceptions.md R374). -/
def ResultCode.isFatal : ResultCode → Bool
  | .refusedStudio => true
  | .fatalTruncated => true
  | .fatalExhausted => true
  | .fatalRange => true
  | .fatalGmc => true
  | .fatalNoVol => true
  | .fatalNoResync => true
  | .none => false
  | .ok => false
  | .okAtVop => false
  | .okWithErrors => false
  | .endOfData => false
  | .frameSkipped => false
  | .sliceEnd => false
  | .sliceNoend => false
  | .invalidData => false
  | .badCommand => false

/-- The number of a tag (60_exceptions.md R372). -/
def tagNumber : Tag → BitVec 8
  | .none => 0
  | .scan => 1
  | .vos => 2
  | .vo => 3
  | .vol => 4
  | .volFramerate => 5
  | .volWarpPoints => 6
  | .volQmatrix => 7
  | .volStudioShape => 8
  | .volStudioChroma => 9
  | .gop => 10
  | .userdata => 11
  | .vop => 16
  | .vopBeforeTimeInc => 17
  | .vopBTiming => 18
  | .vopNotCoded => 19
  | .vopBeforeVopCoded => 20
  | .vopQscale => 21
  | .vopFcode => 22
  | .vopBcode => 23
  | .gmcSize => 24
  | .gmcVlc => 25
  | .gmcMid => 26
  | .gmcAfter => 27
  | .mbIMcbpc => 32
  | .mbPMcbpc => 33
  | .mbCbpy => 34
  | .mbMv => 35
  | .mbBType => 36
  | .mbStudio => 37
  | .mbPartTexture => 38
  | .partAMcbpc => 40
  | .partADc => 41
  | .partAMv => 42
  | .partCount => 43
  | .partMarker => 44
  | .partBCbpy => 45
  | .partBDc => 46
  | .blockDcSize => 48
  | .blockDcMarker => 49
  | .blockDcRange => 50
  | .blockRl => 51
  | .blockEsc3 => 52
  | .blockEsc3Range => 53
  | .blockRvlcEsc => 54
  | .blockPosition => 55
  | .resyncMbnum => 64
  | .resyncSearch => 65
  | .vpSpace => 66
  | .vpPrefix => 67
  | .vpMbnum => 68
  | .vpBackward => 69
  | .vpExt => 70
  | .command => 80

/-- The bit of a log condition (10_state.md R58). -/
def LogFlag.bit : LogFlag → Nat
  | .marker => 0
  | .shape => 1
  | .scalability => 2
  | .reducedRes => 3
  | .tiHealed => 4
  | .gmcOverflow => 5
  | .gmcIdentity => 6
  | .vopNotCoded => 7
  | .bTiming => 8
  | .cplxRewind => 9
  | .staticSprite => 10
  | .studio => 11
  | .chroma => 12
  | .nbit => 13
  | .newpred => 14
  | .cplxMethod => 15

/-- The mask of a log condition. -/
def LogFlag.mask (f : LogFlag) : BitVec 32 := BitVec.ofNat 32 (2 ^ f.bit)

/-- The flags of CTRL.QUIRK (46_quirks.md R364), in the order of their bits. -/
inductive QuirkFlag where
  | xvidIlace | ump4 | noPadding | qpelChroma | qpelChroma2 | hpelChroma | dcClip | edge | stdQpel | directBlocksize
  | is3iv1 | divxPacked
deriving DecidableEq, Repr

/-- The bit of a quirk flag (46_quirks.md R364). -/
def QuirkFlag.bit : QuirkFlag → Nat
  | .xvidIlace => 0
  | .ump4 => 1
  | .noPadding => 2
  | .qpelChroma => 3
  | .qpelChroma2 => 4
  | .hpelChroma => 5
  | .dcClip => 6
  | .edge => 7
  | .stdQpel => 8
  | .directBlocksize => 9
  | .is3iv1 => 10
  | .divxPacked => 11

/-- The implemented bits of CTRL.QUIRK: 12 to 31 read as 0 and writes to them are ignored
(93_implementation_defined.md U3). -/
def quirkMask : BitVec 32 := 0xFFF

/-- A quirk flag of CTRL.QUIRK. -/
def State.quirk (s : State) (f : QuirkFlag) : Bool := s.ctrl.quirk.getLsbD f.bit

/-- SEQ.shape = RECT, BIN_ONLY, GRAY (10_state.md R24). -/
def shapeRect : BitVec 2 := 0
/-- SEQ.shape = BIN_ONLY -/
def shapeBinOnly : BitVec 2 := 2
/-- SEQ.shape = GRAY -/
def shapeGray : BitVec 2 := 3
/-- SEQ.sprite_usage = STATIC (10_state.md R24) -/
def spriteStatic : BitVec 2 := 1
/-- SEQ.sprite_usage = GMC (10_state.md R24) -/
def spriteGmc : BitVec 2 := 2
/-- MB.mv_dir bit 1: forward used (10_state.md R43) -/
def dirForward : BitVec 2 := 2
/-- MB.mv_dir bit 0: backward used (10_state.md R43) -/
def dirBackward : BitVec 2 := 1

end Sys2Proof.Machine
end

