-- ==== Sys2Proof/Machine/Ops.lean ====
section
/-! DEFINITION. The named operations over registers and memory, the views of State, exact arithmetic, and taking and
returning from a result (the block's only exceptions, 60_exceptions.md R371, R377, R378). -/

namespace Sys2Proof.Machine

/-! ## Exact integers and register writes (00_scope.md R10) -/

/-- The `w`-bit register that takes the integer `v` as unsigned; a value that does not fit is a free value (log 3). -/
def toU (w : Nat) (v : Int) : BitVec w :=
  if 0 ≤ v ∧ v.toNat < 2 ^ w then BitVec.ofInt w v else Config.unfit w v

/-- The `w`-bit register that takes the integer `v` as two's complement; a value that does not fit is a free value
(log 3). -/
def toS (w : Nat) (v : Int) : BitVec w :=
  if (0 ≤ v ∧ 2 * v.toNat < 2 ^ w) ∨ (v < 0 ∧ 2 * (-v).toNat ≤ 2 ^ w) then BitVec.ofInt w v else Config.unfit w v

/-- The quotient truncated toward zero; by 0 it is a free value (log 5). -/
def divT (a b : Int) : Int := if b = 0 then Config.divByZero a else Int.tdiv a b

/-- ROUNDED_DIV (00_scope.md R9): round half away from zero; its divisor is positive, and for another one the value
is free (log 5). -/
def roundedDiv (a b : Int) : Int :=
  if 0 < b then
    if 0 ≤ a then Int.tdiv (a + b / 2) b else Int.tdiv (a - b / 2) b
  else Config.roundedDivBeyond a b

/-- clip(v, lo, hi) (00_scope.md R9). -/
def clip (v lo hi : Int) : Int := if v < lo then lo else if v > hi then hi else v

/-- The median of three (00_scope.md R9). -/
def mid (a b c : Int) : Int := max (min a b) (min (max a b) c)

/-- Arithmetic right shift: floor division by a power of two (00_scope.md R9). -/
def sar (v : Int) (k : Nat) : Int := v / (2 ^ k : Int)

/-- How many bits `v` needs, for v below 2^fuel: the position of the highest set bit plus 1, and 0 for 0
(45_resync.md R332). -/
def bitLengthIn : Nat → Nat → Nat
  | 0, _ => 0
  | fuel + 1, v => if v = 0 then 0 else bitLengthIn fuel (v / 2) + 1

/-- bitlength(v) for v below 2^64. -/
def bitLength (v : Nat) : Nat := bitLengthIn 64 v

/-- The next multiple of 8 at or above `p` (00_scope.md R9, align). -/
def alignUp (p : Nat) : Nat := (p + 7) / 8 * 8

/-! ## Views of State -/

/-- BITPOS as a number. -/
def State.pos (s : State) : Nat := s.bitpos

/-- 8*LEN, the length of BS in bits. -/
def State.endPos (s : State) : Nat := 8 * s.len.toNat

/-- left() (20_memory.md R78). -/
def State.left (s : State) : Int := (s.endPos : Int) - s.pos

/-- STATUS.BUSY: FSM is none of IDLE, DONE, ERROR (10_state.md R59). -/
def State.busy (s : State) : Bool := !(s.fsm == .idle || s.fsm == .done || s.fsm == .error)

/-- STATUS.SEQ_VALID, the mirror of SEQ.valid (10_state.md R57). -/
def State.seqValid (s : State) : Bool := s.seq.valid

/-- mb_w (20_memory.md R80). -/
def State.mbW (s : State) : Nat := (s.seq.width.toNat + 15) / 16

/-- mb_h (20_memory.md R80). -/
def State.mbH (s : State) : Nat := (s.seq.height.toNat + 15) / 16

/-- The macroblocks of the picture. -/
def State.mbTotal (s : State) : Nat := s.mbW * s.mbH

/-- mbi of the macroblock at SLICE.mb_x, SLICE.mb_y (20_memory.md R80). -/
def State.mbi (s : State) : Nat := s.slice.mbY.toNat * s.mbW + s.slice.mbX.toNat

/-- mbi of the first macroblock of the slice. -/
def State.resyncMbi (s : State) : Nat := s.slice.resyncMbY.toNat * s.mbW + s.slice.resyncMbX.toNat

/-- The picture fits the slots of the stores (20_memory.md R88; log 20). -/
def State.fitsStores (s : State) : Bool := decide (s.mbTotal ≤ s.cfg.maxMbW * s.cfg.maxMbH)

/-- An S picture of a GMC sequence (43_macroblock.md R252). -/
def State.isGmc (s : State) : Bool := s.pic.pictType == .s && s.seq.spriteUsage == spriteGmc

/-- DIVX413 (42_gmc.md R214). -/
def State.divx413 (s : State) : Bool := s.seq.divxVersion == 500 && s.seq.divxBuild == 413

/-! ## Updates of State -/

/-- BITPOS <- p, an unsigned register of CFG.CURSOR_BITS bits (10_state.md R21) -/
def State.setPos (s : State) (p : Nat) : State := { s with bitpos := (toU s.cfg.cursorBits p).toNat }
/-- FSM <- f -/
def State.setFsm (s : State) (f : Fsm) : State := { s with fsm := f }
/-- SEQ rewritten by `f` -/
def State.updSeq (s : State) (f : Seq → Seq) : State := { s with seq := f s.seq }
/-- PIC rewritten by `f` -/
def State.updPic (s : State) (f : Pic → Pic) : State := { s with pic := f s.pic }
/-- TIME rewritten by `f` -/
def State.updTime (s : State) (f : Time → Time) : State := { s with time := f s.time }
/-- SLICE rewritten by `f` -/
def State.updSlice (s : State) (f : Slice → Slice) : State := { s with slice := f s.slice }
/-- MB rewritten by `f` -/
def State.updMb (s : State) (f : Mb → Mb) : State := { s with mb := f s.mb }
/-- CTRL rewritten by `f` -/
def State.updCtrl (s : State) (f : Ctrl → Ctrl) : State := { s with ctrl := f s.ctrl }
/-- STATUS rewritten by `f` -/
def State.updStatus (s : State) (f : Status → Status) : State := { s with status := f s.status }
/-- the stores rewritten by `f` -/
def State.updStores (s : State) (f : Stores → Stores) : State := { s with stores := f s.stores }
/-- the model's own fields rewritten by `f` -/
def State.updEng (s : State) (f : Eng → Eng) : State := { s with eng := f s.eng }

/-- STATUS.RESULT <- c, as a result without a tag does (60_exceptions.md R371). -/
def State.post (s : State) (c : ResultCode) : State := s.updStatus (fun t => { t with result := c })

/-- log(flag): a sticky bit of STATUS.LOG (10_state.md R58). -/
def State.log (s : State) (f : LogFlag) : State := s.updStatus (fun t => { t with log := t.log ||| f.mask })

/-- The record port emits `r` (30_encoding.md R133). -/
def State.emit (s : State) (r : PortRecord) : State := { s with port := s.port ++ [r] }

/-- PIC.qscale and PIC.chroma_qscale <- q (41_header_vop.md R197, 45_resync.md R337). -/
def State.setQscale (s : State) (q : BitVec 9) : State :=
  s.updPic (fun p => { p with qscale := q, chromaQscale := q })

/-! ## The bitstream (20_memory.md R73) -/

/-- Bit `p` of BS, 0 past the end: the most significant bit of a byte comes first (00_scope.md R8). -/
def State.bitAt (s : State) (p : Nat) : Nat :=
  if p < s.endPos then ((Memory.read s.bs (p / 8)).toNat / 2 ^ (7 - p % 8)) % 2 else 0

/-- MemRead(addr, n) (20_memory.md R73). -/
def State.memRead (s : State) (addr : Nat) : Nat → Nat
  | 0 => 0
  | n + 1 => 2 * s.memRead addr n + s.bitAt (addr + n)

/-- peek(n) (20_memory.md R78). -/
def State.peek (s : State) (n : Nat) : Nat := s.memRead s.pos n

/-- The byte of BS at byte address `a`, 0 past the end. -/
def State.byteAt (s : State) (a : Nat) : Byte := if a < s.len.toNat then Memory.read s.bs a else 0

/-! ## The prediction stores (20_memory.md R80 to R89) -/

/-- What a word of DCMEM that nothing has written reads as: the sentinel 1024 (20_memory.md R89). -/
def dcUnlisted : BitVec 16 := 1024

/-- The plane of DCMEM of block `n`: luma, Cb or Cr (20_memory.md R81). -/
def Stores.dcPlane (t : Stores) (n : Fin 6) : Cells (BitVec 16) :=
  if n.val < 4 then t.dcLuma else if n.val = 4 then t.dcCb else t.dcCr

/-- The stores with the DCMEM plane of block `n` replaced. -/
def Stores.setDcPlane (t : Stores) (n : Fin 6) (m : Cells (BitVec 16)) : Stores :=
  if n.val < 4 then { t with dcLuma := m } else if n.val = 4 then { t with dcCb := m } else { t with dcCr := m }

/-- The plane of ACMEM of block `n` (20_memory.md R82). -/
def Stores.acPlane (t : Stores) (n : Fin 6) : Cells (BitVec 16) :=
  if n.val < 4 then t.acLuma else if n.val = 4 then t.acCb else t.acCr

/-- The stores with the ACMEM plane of block `n` replaced. -/
def Stores.setAcPlane (t : Stores) (n : Fin 6) (m : Cells (BitVec 16)) : Stores :=
  if n.val < 4 then { t with acLuma := m } else if n.val = 4 then { t with acCb := m } else { t with acCr := m }

/-- The column of block `n` in its plane (20_memory.md R81). -/
def State.blockX (s : State) (n : Fin 6) : Nat :=
  if n.val < 4 then 2 * s.slice.mbX.toNat + n.val % 2 else s.slice.mbX.toNat

/-- The row of block `n` in its plane (20_memory.md R81). -/
def State.blockY (s : State) (n : Fin 6) : Nat :=
  if n.val < 4 then 2 * s.slice.mbY.toNat + n.val / 2 else s.slice.mbY.toNat

/-- The blocks in a row of the plane of block `n` (20_memory.md R81). -/
def State.planeW (s : State) (n : Fin 6) : Nat := if n.val < 4 then 2 * s.mbW else s.mbW

/-- The position X of block `n` in its plane (20_memory.md R81). -/
def State.blockPos (s : State) (n : Fin 6) : Nat := s.blockY n * s.planeW n + s.blockX n

/-- The DCMEM word at column `x`, row `y` of the plane of block `n`. -/
def State.dcAt (s : State) (n : Fin 6) (x y : Nat) : Int :=
  (Cells.read dcUnlisted (s.stores.dcPlane n) (y * s.planeW n + x)).toInt

/-- DCMEM[X] <- v for block `n`. -/
def State.writeDc (s : State) (n : Fin 6) (v : BitVec 16) : State :=
  s.updStores (fun t => t.setDcPlane n (Cells.write dcUnlisted (s.blockPos n) v (t.dcPlane n)))

/-- Word `k` of ACMEM at column `x`, row `y` of the plane of block `n`. -/
def State.acAt (s : State) (n : Fin 6) (x y k : Nat) : Int :=
  (Cells.read (0 : BitVec 16) (s.stores.acPlane n) (16 * (y * s.planeW n + x) + k)).toInt

/-- ACMEM[X][k] <- v for block `n`. -/
def State.writeAc (s : State) (n : Fin 6) (k : Nat) (v : BitVec 16) : State :=
  s.updStores (fun t => t.setAcPlane n (Cells.write 0 (16 * s.blockPos n + k) v (t.acPlane n)))

/-- QMEM[i] (20_memory.md R83). -/
def State.qAt (s : State) (i : Nat) : Nat := (Cells.read (0 : BitVec 9) s.stores.qmem i).toNat

/-- QMEM[mbi] <- q for the current macroblock. -/
def State.writeQ (s : State) (q : BitVec 9) : State :=
  s.updStores (fun t => { t with qmem := Cells.write 0 s.mbi q t.qmem })

/-- The luma block `n` as one of the six blocks. -/
def lumaBlock (n : Fin 4) : Fin 6 := ⟨n.val, by omega⟩

/-- MVMEM at luma block column `x`, row `y` (20_memory.md R84). -/
def State.mvAt (s : State) (x y : Nat) : Mv := Cells.read (Vec.zero 16) s.stores.mvmem (y * (2 * s.mbW) + x)

/-- MVMEM of luma block `n` of the current macroblock. -/
def State.mvOfBlock (s : State) (n : Fin 4) : Mv := s.mvAt (s.blockX (lumaBlock n)) (s.blockY (lumaBlock n))

/-- MVMEM[block n] <- v for the current macroblock. -/
def State.writeMv (s : State) (n : Fin 4) (v : Mv) : State :=
  s.updStores (fun t => { t with mvmem := Cells.write (Vec.zero 16) (s.blockPos (lumaBlock n)) v t.mvmem })

/-- MVMEM[all four blocks] <- v for the current macroblock. -/
def State.writeMvAll (s : State) (v : Mv) : State := (((s.writeMv 0 v).writeMv 1 v).writeMv 2 v).writeMv 3 v

/-- MBTYPEMEM[mbi] <- w for the current macroblock (20_memory.md R85). -/
def State.writeMbType (s : State) (w : MbType) : State :=
  s.updStores (fun t => { t with mbtype := Cells.write MbType.zero s.mbi w t.mbtype })

/-- PARTMEM[j] (20_memory.md R85). -/
def State.partAt (s : State) (j : Nat) : PartRec := Cells.read PartRec.zero s.stores.partmem j

/-- PARTMEM[j] <- r. -/
def State.writePart (s : State) (j : Nat) (r : PartRec) : State :=
  s.updStores (fun t => { t with partmem := Cells.write PartRec.zero j r t.partmem })

/-- The peer has published the row of macroblock `i` (20_memory.md R87); a macroblock beyond the picture is in no row. -/
def State.published (s : State) (i : Nat) : Bool :=
  decide (i < s.mbTotal) && decide (i / s.mbW < s.coloc.rowprog)

/-- COLOC.MBTYPEMEM[i] (20_memory.md R86). Of a row that is not published, and of a word of no row, nothing is read: the
answer is a free value (R87, 70_reset_and_hazards.md R412): DESIGN CHOICE, log 57. -/
def State.colocType (s : State) (i : Nat) : MbType :=
  let stands := Cells.read MbType.zero s.coloc.mbtype i
  if s.published i then stands else Config.unpublishedType stands i s.coloc.rowprog

/-- COLOC.MVMEM of luma block `n` of the current macroblock; of a row that is not published it is a free value, as
`State.colocType` (log 57). -/
def State.colocMv (s : State) (n : Fin 4) : Mv :=
  let i := s.blockPos (lumaBlock n)
  let stands := Cells.read (Vec.zero 16) s.coloc.mvmem i
  if s.published s.mbi then stands else Config.unpublishedMv stands i s.coloc.rowprog

/-- ROWPROG[self] <- n (20_memory.md R87). -/
def State.publishRow (s : State) (n : Nat) : State := s.updStores (fun t => { t with rowprog := n })

/-! ## Taking a result and returning from it (60_exceptions.md R371, R378) -/

/-- A raise: the result code and the `where` tag (60_exceptions.md R371, R372). -/
structure Raise where
  code : ResultCode
  tag : Tag
deriving DecidableEq, Repr

/-- Where an operation runs, which decides the class of an INVALID_DATA (60_exceptions.md R371). -/
inductive Site where
  /-- a header operation of the header run -/
  | headerRun
  /-- the VOP header and what runs inside it -/
  | vopHeader
  /-- a macroblock operation and what runs inside it -/
  | macroblock
  /-- the first pass of a partitioned slice -/
  | partA
  /-- the second pass of a partitioned slice -/
  | partB
  /-- a video-packet header at the place a marker was found -/
  | packet
  /-- the resync unit itself -/
  | resync
  /-- a host command -/
  | command
deriving DecidableEq, Repr

/-- Whether a site belongs to the decode of a picture. -/
def Site.inPicture : Site → Bool
  | .headerRun => false
  | .command => false
  | .vopHeader => true
  | .macroblock => true
  | .partA => true
  | .partB => true
  | .packet => true
  | .resync => true

/-- The records of the partitions not yet replayed and good, the one whose replay failed with `tag` among them. The peek of
MB_PARTITIONED, which alone raises RESYNC_MBNUM, runs after SLICE.mb_num_left has counted that record off
(45_resync.md R348, R350; log 18). -/
def State.recordsLeft (s : State) (tag : Tag) : Nat :=
  if tag = .resyncMbnum then s.slice.mbNumLeft.toNat + 1 else max 1 s.slice.mbNumLeft.toNat

/-- The macroblocks of the slice not validly consumed when an operation at `site` fails (45_resync.md R350; log 18). -/
def State.notConsumed (s : State) (tag : Tag) : Site → Nat
  | .macroblock => if s.pic.partitionedFrame then s.recordsLeft tag else 1
  | .partA => max 1 (s.mbi - s.resyncMbi)
  | .partB => max 1 s.slice.mbNumLeft.toNat
  | .headerRun => 0
  | .vopHeader => 0
  | .packet => 0
  | .resync => 0
  | .command => 0

/-- SLICE.next_mbi after a failure at `site`: the index of the failed or last macroblock plus 1 (45_resync.md R350;
log 18). -/
def State.nextAfterFailure (s : State) (tag : Tag) : Site → Nat
  | .macroblock => s.mbi + 1
  | .partA =>
    if tag = .partCount ∨ tag = .partMarker then s.resyncMbi + max 1 (s.mbi - s.resyncMbi) else s.mbi + 1
  | .partB => s.mbi + 1
  | .headerRun => s.slice.nextMbi.toNat
  | .vopHeader => s.slice.nextMbi.toNat
  | .packet => s.slice.nextMbi.toNat
  | .resync => s.slice.nextMbi.toNat
  | .command => s.slice.nextMbi.toNat

/-- The three registers a raise writes: STATUS.RESULT, STATUS.WHERE, STATUS.ERRPOS (60_exceptions.md R371). -/
def State.recordRaise (s : State) (r : Raise) : State :=
  s.updStatus (fun t => { t with result := r.code, tag := r.tag, errpos := toU 32 s.bitpos })

/-- The macroblocks that a failure at `site` leaves without a result of their own. -/
def State.lostAt (s : State) (tag : Tag) : Site → List Nat
  | .macroblock => List.range' s.mbi (s.notConsumed tag .macroblock)
  | .partA => List.range' s.resyncMbi (s.mbi - s.resyncMbi + 1)
  | .partB => List.range' s.resyncMbi (s.notConsumed tag .partB)
  | .headerRun => []
  | .vopHeader => []
  | .packet => []
  | .resync => []
  | .command => []

/-- The macroblocks that a failure at `site` loses are remembered, so that a peer sees their words at their
picture-start values (70_reset_and_hazards.md R413; log 42). -/
def State.noteLost (s : State) (site : Site) (tag : Tag) : State :=
  s.updEng (fun e => { e with failed := e.failed ++ s.lostAt tag site })

/-- The end of a command by a fatal result: STATUS.PIC_VALID cleared, every row published when a picture was being
decoded, FSM = ERROR (60_exceptions.md R371, R386; 20_memory.md R95; log 19). -/
def State.failFatally (s : State) (site : Site) (tag : Tag) : State :=
  (((if site.inPicture then s.publishRow s.mbH else s).updStatus (fun t => { t with picValid := false })).setFsm
    .error).noteLost site tag

/-- The recoverable failure of a macroblock, block or partition operation: the count of 45_resync.md R350, the error
record (30_encoding.md R133), and FSM = RESYNC_CHECK with the recovery next. The words that the macroblock stored
before the raise stay in this instance's stores (43_macroblock.md R283, 60_exceptions.md R377), although 20_memory.md
R96 says its slots keep their picture-start values: DEDUCED, log 42. -/
def State.failRecoverably (s : State) (site : Site) (tag : Tag) : State :=
  let t := s.updSlice (fun l =>
    { l with mbErr := toU 20 (l.mbErr.toNat + s.notConsumed tag site), nextMbi := toU 20 (s.nextAfterFailure tag site) })
  let u := if site = .macroblock then t.emit (.failed s.slice.mbX s.slice.mbY) else t
  (u.setFsm .resyncCheck).updEng (fun e => { e with phase := .recover, failed := e.failed ++ s.lostAt tag site })

/-- What an INVALID_DATA does at each site (60_exceptions.md R371). -/
def State.takeInvalid (s : State) (tag : Tag) : Site → State
  | .headerRun => s.setFsm .scan
  | .vopHeader => s.failFatally .vopHeader tag
  | .macroblock => s.failRecoverably .macroblock tag
  | .partA => s.failRecoverably .partA tag
  | .partB => s.failRecoverably .partB tag
  | .packet => s.failRecoverably .packet tag
  | .resync => s.failRecoverably .resync tag
  | .command => s.setFsm .done

/-- raise Code(where), the one operation every result with a tag goes through (60_exceptions.md R371): the three
status registers, then the effect of the code's class. BAD_COMMAND, which R371 lists among the fatal codes and R374 does
not, leaves STATUS.PIC_VALID as it was: DEDUCED, log 16. -/
def State.takeRaise (s : State) (site : Site) (r : Raise) : State :=
  match r.code with
  | .invalidData => (s.recordRaise r).takeInvalid r.tag site
  | .none => (s.recordRaise r).setFsm .done
  | .ok => (s.recordRaise r).setFsm .done
  | .okAtVop => (s.recordRaise r).setFsm .done
  | .okWithErrors => (s.recordRaise r).setFsm .done
  | .endOfData => (s.recordRaise r).setFsm .done
  | .frameSkipped => (s.recordRaise r).setFsm .done
  | .badCommand => (s.recordRaise r).setFsm .done
  | .sliceEnd => (s.recordRaise r).setFsm .resyncCheck
  | .sliceNoend => (s.recordRaise r).setFsm .resyncCheck
  | .refusedStudio => (s.recordRaise r).failFatally site r.tag
  | .fatalTruncated => (s.recordRaise r).failFatally site r.tag
  | .fatalExhausted => (s.recordRaise r).failFatally site r.tag
  | .fatalRange => (s.recordRaise r).failFatally site r.tag
  | .fatalGmc => (s.recordRaise r).failFatally site r.tag
  | .fatalNoVol => (s.recordRaise r).failFatally site r.tag
  | .fatalNoResync => (s.recordRaise r).failFatally site r.tag

/-- The return from DONE or ERROR (60_exceptions.md R378, 30_encoding.md R134): with CTRL.ACK set the block moves to
IDLE, clears CTRL.ACK and CTRL.CMD and SEQ.context_reinit (10_state.md R25; log 11); without it nothing changes. -/
def State.acknowledge (s : State) : State :=
  if s.ctrl.ack then
    ((s.setFsm .idle).updCtrl (fun c => { c with ack := false, cmd := 0 })).updSeq
      (fun q => { q with contextReinit := false })
  else s

end Sys2Proof.Machine
end

