-- ==== Sys2Proof/Machine/Operands.lean ====
section
/-! DEFINITION. The operand forms: the bit-reader primitives of 20_memory.md R73 to R78 and the marker bit of
30_encoding.md R103, over one monad, `Parse`: a computation that reads and writes State and may end in a raise. -/

namespace Sys2Proof.Machine

/-- A parse: it answers a value and a state, or a raise and the state the raise leaves (60_exceptions.md R377: every
write made before the raise stays). -/
abbrev Parse (α : Type) := EStateM Raise State α

/-- raise FATAL_TRUNCATED(t): exhaustion in a header operation (20_memory.md R75). -/
def truncated (t : Tag) : Raise := ⟨.fatalTruncated, t⟩
/-- raise FATAL_EXHAUSTED(t): exhaustion in a macroblock, block, partition or packet operation (20_memory.md R75). -/
def exhausted (t : Tag) : Raise := ⟨.fatalExhausted, t⟩
/-- raise INVALID_DATA(t) (60_exceptions.md R373). -/
def invalid (t : Tag) : Raise := ⟨.invalidData, t⟩

/-- raise r (60_exceptions.md R371). -/
def raise {α : Type} (r : Raise) : Parse α := throw r

/-- The current state. -/
def getState : Parse State := get

/-- A view of the current state. -/
def view {α : Type} (f : State → α) : Parse α := do
  let s ← getState
  pure (f s)

/-- The state rewritten by `f`. -/
def update (f : State → State) : Parse Unit := modify f

/-- `m` when `c` holds. -/
def whenP (c : Bool) (m : Parse Unit) : Parse Unit := if c then m else pure ()

/-- `m` for each element of a list, in order. -/
def forEach {α : Type} (f : α → Parse Unit) : List α → Parse Unit
  | [] => pure ()
  | a :: as => do
    f a
    forEach f as

/-- `m`, every raise inside carrying the tag `t` (45_resync.md R341, R342, R348). -/
def withTag {α : Type} (t : Tag) (m : Parse α) : Parse α := fun s =>
  match m s with
  | .ok a u => .ok a u
  | .error r u => .error { r with tag := t } u

/-- log(flag) (10_state.md R58). -/
def logBit (f : LogFlag) : Parse Unit := update (fun s => s.log f)

/-- get(n) (20_memory.md R74, R75): a read past the end consumes nothing and raises `e`. -/
def getBits (e : Raise) (n : Nat) : Parse Nat := do
  let s ← getState
  if s.pos + n ≤ s.endPos then
    update (fun s => s.setPos (s.pos + n))
    pure (s.memRead s.pos n)
  else raise e

/-- get1(), as a Bool. -/
def getFlag (e : Raise) : Parse Bool := do
  let v ← getBits e 1
  pure (v == 1)

/-- skip(n), for any n (20_memory.md R74). -/
def skipBits (e : Raise) (n : Nat) : Parse Unit := do
  let s ← getState
  if s.pos + n ≤ s.endPos then update (fun s => s.setPos (s.pos + n)) else raise e

/-- The two's-complement value of the n-bit number `v` (00_scope.md R9, sext). -/
def signed (n v : Nat) : Int := if 2 * v < 2 ^ n then v else (v : Int) - 2 ^ n

/-- gets(n) (20_memory.md R74). -/
def getSigned (e : Raise) (n : Nat) : Parse Int := do
  let v ← getBits e n
  pure (signed n v)

/-- The sign folding of 20_memory.md R76: with the top bit set the number itself, else the number less 2^n - 1. -/
def unfold (n v : Nat) : Int := if 2 ^ n ≤ 2 * v then v else (v : Int) - (2 ^ n - 1)

/-- getx(n) (20_memory.md R76). -/
def getFolded (e : Raise) (n : Nat) : Parse Int := do
  let v ← getBits e n
  pure (unfold n v)

/-- align() (20_memory.md R78). -/
def State.align (s : State) : State := s.setPos (alignUp s.pos)

/-- The bits at the cursor begin with the code word of `r`, all of it inside BS. -/
def State.matchesRow (s : State) (r : VlcRow) : Bool :=
  decide (s.pos + r.len ≤ s.endPos) && decide (s.memRead s.pos r.len = r.code)

/-- BS ends inside the code word of `r`: the bits that are left are a proper prefix of it. -/
def State.runsOutIn (s : State) (r : VlcRow) : Bool :=
  decide (s.endPos < s.pos + r.len)
    && decide (s.memRead s.pos (s.endPos - s.pos) = r.code >>> (s.pos + r.len - s.endPos))

/-- vlc(t) (20_memory.md R77): the symbol, or `none` for the sentinel INVALID, which consumes nothing; where BS ends
inside a code word the read is exhausted (R75; 95_test_vectors.md B1 item 7; log 12). -/
def vlc (e : Raise) (t : VlcTable) : Parse (Option Sym) := do
  let s ← getState
  match (s.cfg.table t).find? s.matchesRow with
  | some r => do
    update (fun s => s.setPos (s.pos + r.len))
    pure (some r.sym)
  | none => if (s.cfg.table t).any s.runsOutIn then raise e else pure none

/-- The greatest number in the alphabet of a table of numbers (30_encoding.md R104). -/
def greatestSymbol : VlcTable → Nat
  | .dcLum => 12
  | .dcChrom => 12
  | .spriteTraj => 14
  | .intraMcbpc => 8
  | .interMcbpc => 20
  | .cbpy => 15
  | .mv => 32
  | .rlIntra => 0
  | .rlInter => 0
  | .rlRvlcIntra => 0
  | .rlRvlcInter => 0
  | .mbTypeB => 0
  | .studioIntra _ => 0
  | .studioLumaDc => 0
  | .studioChromaDc => 0

/-- The number a symbol of table `t` stands for; a symbol outside the table's alphabet is INVALID (30_encoding.md
R104; log 38). -/
def numberOf (t : VlcTable) : Option Sym → Option Nat
  | some (.num n) => if n ≤ greatestSymbol t then some n else none
  | some (.rl _ _ _) => none
  | some .escape => none
  | some (.btype _) => none
  | none => none

/-- The macroblock type a symbol stands for. -/
def btypeOf : Option Sym → Option BType
  | some (.btype t) => some t
  | some (.num _) => none
  | some (.rl _ _ _) => none
  | some .escape => none
  | none => none

/-- vlc(t) of a table of numbers, with the raise that INVALID takes. -/
def vlcNumber (e : Raise) (bad : Raise) (t : VlcTable) : Parse Nat := do
  let r ← vlc e t
  match numberOf t r with
  | some n => pure n
  | none => raise bad

/-- marker(where) (30_encoding.md R103), where `e` is the raise of an exhausted read with the same tag: a bit 0 is
INVALID_DATA(where) under CTRL.STRICT, with BITPOS after the bit, and LOG_MARKER otherwise. -/
def marker (e : Raise) : Parse Unit := do
  let b ← getFlag e
  let s ← getState
  if b then pure () else if s.ctrl.strict then raise (invalid e.tag) else logBit .marker

end Sys2Proof.Machine
end

