-- ==== Sys2Proof/Machine/Run.lean ====
section
/-! DEFINITION. How an operation ends: its parse run at a site, its raise taken there, its result as an outcome of a
step (60_exceptions.md R371). -/

namespace Sys2Proof.Machine

/-- The state after the parse `m` run at `site`: a raise is taken there. -/
def runAt (site : Site) (m : Parse Unit) (s : State) : State :=
  match m s with
  | .ok _ t => t
  | .error r t => t.takeRaise site r

/-- The same for an operation that hands values to its caller: run by itself, it leaves them in the model's own
field (log 6). -/
def runFor (site : Site) (m : Parse (List Int)) (s : State) : State :=
  match m s with
  | .ok vs t => t.updEng (fun e => { e with ret := vs })
  | .error r t => t.takeRaise site r

/-- An operation that ends OK and moves on: the untagged result and the next control state (60_exceptions.md R371,
30_encoding.md R110). -/
def finishOk (f : Fsm) : Parse Unit := update (fun s => (s.post .ok).setFsm f)

/-- An operation's outcome: it always has a next state. -/
def completes (t : State) : Host.Outcome State Fault Refusal := .next t

/-- The outcome of an operation that reaches the prediction stores: a picture larger than the stores faults
(20_memory.md R88; log 20). -/
def inStores (s : State) (t : State) : Host.Outcome State Fault Refusal :=
  if s.fitsStores then .next t else .fault .storeTooSmall

end Sys2Proof.Machine
end

