-- ==== Sys2Proof/Machine/Quirk.lean ====
section
/-! DEFINITION. The compatibility resolver: encoder signatures, flags, the permutation switch (46_quirks.md). -/

namespace Sys2Proof.Machine

/-! ## Text scanning (R362; log 24) -/

/-- The bytes of `DivX`. -/
def textDivX : List Byte := [0x44, 0x69, 0x76, 0x58]
/-- The bytes of `Build`. -/
def textBuild : List Byte := [0x42, 0x75, 0x69, 0x6C, 0x64]
/-- The bytes of `b`. -/
def textB : List Byte := [0x62]
/-- The bytes of `FFmpe`. -/
def textFFmpe : List Byte := [0x46, 0x46, 0x6D, 0x70, 0x65]
/-- The bytes of `FFmpeg v`. -/
def textFFmpegV : List Byte := [0x46, 0x46, 0x6D, 0x70, 0x65, 0x67, 0x20, 0x76]
/-- The bytes of `.`. -/
def textDot : List Byte := [0x2E]
/-- The bytes of ` / libavcodec build: `. -/
def textLibavcodec : List Byte := [0x20, 0x2F, 0x20, 0x6C, 0x69, 0x62, 0x61, 0x76, 0x63, 0x6F, 0x64, 0x65, 0x63, 0x20, 0x62, 0x75, 0x69, 0x6C, 0x64, 0x3A, 0x20]
/-- The bytes of `Lavc`. -/
def textLavc : List Byte := [0x4C, 0x61, 0x76, 0x63]
/-- The bytes of `ffmpeg`. -/
def textFfmpeg : List Byte := [0x66, 0x66, 0x6D, 0x70, 0x65, 0x67]
/-- The bytes of `XviD`. -/
def textXviD : List Byte := [0x58, 0x76, 0x69, 0x44]

/-- The text after the bytes `p`, when it begins with them. -/
def expectBytes : (p text : List Byte) → Option (List Byte)
  | [], t => some t
  | _ :: _, [] => none
  | b :: p, c :: t => if b = c then expectBytes p t else none

/-- An ASCII digit's value. -/
def digitOf (c : Byte) : Option Nat := if 0x30 ≤ c.toNat ∧ c.toNat ≤ 0x39 then some (c.toNat - 0x30) else none

/-- The digits at the start of a text: how many, their value after `acc`, and what follows. -/
def takeDigits : (text : List Byte) → (count acc : Nat) → Nat × Nat × List Byte
  | [], n, acc => (n, acc, [])
  | c :: t, n, acc =>
    match digitOf c with
    | some d => takeDigits t (n + 1) (10 * acc + d)
    | none => (n, acc, c :: t)

/-- One or more digits. -/
def takeNat (text : List Byte) : Option (Nat × List Byte) :=
  match takeDigits text 0 0 with
  | (0, _, _) => none
  | (_ + 1, v, rest) => some (v, rest)

/-- `<d>`: an optional sign and one or more digits (R362). -/
def takeInt (text : List Byte) : Option (Int × List Byte) :=
  match text with
  | [] => none
  | c :: t =>
    if c = 0x2D then (takeNat t).map (fun r => (-(r.1 : Int), r.2))
    else if c = 0x2B then (takeNat t).map (fun r => ((r.1 : Int), r.2))
    else (takeNat (c :: t)).map (fun r => ((r.1 : Int), r.2))

/-- The text from its first `b` on. -/
def fromFirstB : List Byte → List Byte
  | [] => []
  | c :: t => if c = 0x62 then c :: t else fromFirstB t

/-- `DivX<d><mid><d>[<c>]`, rows 1 and 2: the version, the build, whether the byte after is `p` (R362). -/
def divxPattern (mid text : List Byte) : Option (Int × Int × Bool) := do
  let t ← expectBytes textDivX text
  let v ← takeInt t
  let u ← expectBytes mid v.2
  let b ← takeInt u
  pure (v.1, b.1, b.2.head? == some 0x70)

/-- Rows 1 and 2 (R362). -/
def divxSignature (text : List Byte) : Option (Int × Int × Bool) :=
  (divxPattern textBuild text).orElse (fun _ => divxPattern textB text)

/-- Row 3 (R362). -/
def lavcRow3 (text : List Byte) : Option Int := do
  let t ← expectBytes textFFmpe text
  let u ← expectBytes textB (fromFirstB t)
  let d ← takeInt u
  pure d.1

/-- `<d>.<d>.<d>` (R362). -/
def takeTriple (text : List Byte) : Option (Int × Int × Int × List Byte) := do
  let a ← takeInt text
  let t ← expectBytes textDot a.2
  let b ← takeInt t
  let u ← expectBytes textDot b.2
  let c ← takeInt u
  pure (a.1, b.1, c.1, c.2)

/-- Row 4 (R362). -/
def lavcRow4 (text : List Byte) : Option Int := do
  let t ← expectBytes textFFmpegV text
  let v ← takeTriple t
  let u ← expectBytes textLibavcodec v.2.2.2
  let d ← takeInt u
  pure d.1

/-- The low byte of a component of row 5; of one that is no signed 32-bit number, the low byte of the free value of
log 3: R362 reads a number as 32 bits and gives no value beyond them (log 24). -/
def lavcByte (v : Int) : Int := (toS 32 v).toInt % 256

/-- Row 5 (R362). -/
def lavcRow5 (text : List Byte) : Option Int := do
  let t ← expectBytes textLavc text
  let v ← takeTriple t
  pure (lavcByte v.1 * 65536 + lavcByte v.2.1 * 256 + lavcByte v.2.2.1)

/-- Row 6 (R362). -/
def lavcRow6 (text : List Byte) : Option Int := if text = textFfmpeg then some 4600 else none

/-- Rows 3 to 6, each only where the ones before it failed (R362). -/
def lavcSignature (text : List Byte) : Option Int :=
  (((lavcRow3 text).orElse (fun _ => lavcRow4 text)).orElse (fun _ => lavcRow5 text)).orElse (fun _ => lavcRow6 text)

/-- Row 7 (R362). -/
def xvidSignature (text : List Byte) : Option Int := do
  let t ← expectBytes textXviD text
  let d ← takeInt t
  pure d.1

/-- The embedded text: SEQ.user_data[0..SEQ.user_data_len - 1] (R360). -/
def State.text (s : State) : List Byte :=
  (List.range s.seq.userDataLen.toNat).map (fun i => Cells.read 0 s.seq.userData i)

/-- The signatures of rows 1 and 2. -/
def Seq.takeDivx (q : Seq) (text : List Byte) : Seq :=
  match divxSignature text with
  | some (v, b, _) => { q with divxVersion := toS 32 v, divxBuild := toS 32 b }
  | none => q

/-- The signatures of rows 3 to 6. -/
def Seq.takeLavc (q : Seq) (text : List Byte) : Seq :=
  match lavcSignature text with
  | some v => { q with lavcBuild := toS 32 v }
  | none => q

/-- The signature of row 7. -/
def Seq.takeXvid (q : Seq) (text : List Byte) : Seq :=
  match xvidSignature text with
  | some v => { q with xvidBuild := toS 32 v }
  | none => q

/-- Step 1 (R362). -/
def Seq.takeSignatures (q : Seq) (text : List Byte) : Seq := ((q.takeDivx text).takeLavc text).takeXvid text

/-- packed (R362). -/
def packedText (text : List Byte) : Bool :=
  match divxSignature text with
  | some (_, _, p) => p
  | none => false

/-! ## Codec-tag defaults (R363) and flags (R364) -/

/-- The codec tag XVID, its first character in the low byte (R360). -/
def tagXVID : BitVec 32 := 0x44495658
/-- The codec tag XVIX, its first character in the low byte (R360). -/
def tagXVIX : BitVec 32 := 0x58495658
/-- The codec tag RMP4, its first character in the low byte (R360). -/
def tagRMP4 : BitVec 32 := 0x34504D52
/-- The codec tag ZMP4, its first character in the low byte (R360). -/
def tagZMP4 : BitVec 32 := 0x34504D5A
/-- The codec tag SIPP, its first character in the low byte (R360). -/
def tagSIPP : BitVec 32 := 0x50504953
/-- The codec tag DIVX, its first character in the low byte (R360). -/
def tagDIVX : BitVec 32 := 0x58564944
/-- The codec tag UMP4, its first character in the low byte (R360). -/
def tagUMP4 : BitVec 32 := 0x34504D55
/-- The codec tag 3IV1, its first character in the low byte (R360). -/
def tag3IV1 : BitVec 32 := 0x31564933

/-- The tags of an xvid stream (R363). -/
def isXvidTag (t : BitVec 32) : Bool :=
  t == tagXVID || t == tagXVIX || t == tagRMP4 || t == tagZMP4 || t == tagSIPP

/-- The defaults of a stream with no signature (R363). -/
def Seq.tagDefaults (q : Seq) (t : BitVec 32) : Seq :=
  if q.xvidBuild = -1 ∧ q.divxVersion = -1 ∧ q.lavcBuild = -1 then
    if isXvidTag t then { q with xvidBuild := 0 }
    else if t = tagDIVX ∧ q.volControl = false then { q with divxVersion := 400 }
    else q
  else q

/-- An xvid signature cancels a divx one (R363). -/
def Seq.cancelDivx (q : Seq) : Seq :=
  if 0 ≤ q.xvidBuild.toInt ∧ 0 ≤ q.divxVersion.toInt then { q with divxVersion := -1, divxBuild := -1 } else q

/-- Steps 1 and 2: the four version registers (R362, R363). -/
def Seq.resolveVersions (q : Seq) (text : List Byte) (t : BitVec 32) : Seq :=
  ((q.takeSignatures text).tagDefaults t).cancelDivx

/-- The condition of a flag (R364); an unsigned comparison is one that -1 fails. -/
def quirkSet (q : Seq) (t : BitVec 32) (packed : Bool) : QuirkFlag → Bool
  | .xvidIlace => t == tagXVIX
  | .ump4 => t == tagUMP4
  | .noPadding => false
  | .qpelChroma =>
    decide (500 ≤ q.divxVersion.toInt ∧ q.divxBuild.toInt < 1814) || decide (q.xvidBuild.toNat ≤ 1)
  | .qpelChroma2 => decide (502 < q.divxVersion.toInt ∧ q.divxBuild.toInt < 1814)
  | .hpelChroma => decide (0 ≤ q.divxVersion.toInt)
  | .dcClip => decide (q.xvidBuild.toNat ≤ 32) || decide (q.lavcBuild.toNat ≤ 4712)
  | .edge =>
    decide (q.xvidBuild.toNat ≤ 12) || decide (q.lavcBuild.toNat < 4670) || decide (q.divxVersion.toNat < 500)
  | .stdQpel => decide (q.lavcBuild.toNat < 4653)
  | .directBlocksize => decide (q.lavcBuild.toNat < 4655) || decide (0 ≤ q.divxVersion.toInt)
  | .is3iv1 => t == tag3IV1
  | .divxPacked => packed

/-- The flags, in the order of their bits. -/
def quirkFlags : List QuirkFlag :=
  [.xvidIlace, .ump4, .noPadding, .qpelChroma, .qpelChroma2, .hpelChroma, .dcClip, .edge, .stdQpel, .directBlocksize,
   .is3iv1, .divxPacked]

/-- The mask of a flag. -/
def QuirkFlag.mask (f : QuirkFlag) : BitVec 32 := BitVec.ofNat 32 (2 ^ f.bit)

/-- CTRL.QUIRK as the resolver writes it (R364; log 34). -/
def quirkWord (q : Seq) (t : BitVec 32) (packed : Bool) : BitVec 32 :=
  quirkFlags.foldl (fun w f => if quirkSet q t packed f then w ||| f.mask else w) 0

/-! ## The permutation switch (R367) -/

/-- The four matrices re-permuted. -/
def Seq.repermuted (q : Seq) (new old : List Nat) : Seq :=
  { q with
    intraMatrix := repermute q.intraMatrix new old
    interMatrix := repermute q.interMatrix new old
    chromaIntraMatrix := repermute q.chromaIntraMatrix new old
    chromaInterMatrix := repermute q.chromaInterMatrix new old }

/-- The switch applies (R367). -/
def State.switches (s : State) : Bool :=
  decide (s.cfg.xvidIdctLo ≤ s.seq.xvidBuild.toInt) && decide (s.seq.xvidBuild.toInt ≤ s.cfg.xvidIdctHi)
    && s.cfg.idctPerm != s.cfg.xvidIdctPerm

/-- Step 4 (R367). -/
def State.switchPermutation (s : State) : State :=
  if s.switches then
    { s.updSeq (fun q => q.repermuted s.cfg.xvidIdctPerm s.cfg.idctPerm) with
      cfg := { s.cfg with idctPerm := s.cfg.xvidIdctPerm } }
  else s

/-- The four steps (R361). -/
def State.resolveQuirks (s : State) : State :=
  let q := s.seq.resolveVersions s.text s.ctrl.codecTag
  let w := quirkWord q s.ctrl.codecTag (packedText s.text)
  ((s.updSeq (fun _ => q)).updCtrl (fun c => { c with quirk := w })).switchPermutation

/-- QUIRK_RESOLVE (R361): OK always. -/
def quirkResolveP : Parse Unit := update (fun s => s.resolveQuirks.post .ok)

/-- QUIRK_RESOLVE. -/
def execQuirkResolve (s : State) : Host.Outcome State Fault Refusal := completes (runAt .command quirkResolveP s)

end Sys2Proof.Machine
end

