-- ==== Sys2Proof/Machine/Command.lean ====
section
/-! DEFINITION. The host commands (30_encoding.md R130, R131). A command is accepted only in IDLE. -/

namespace Sys2Proof.Machine

/-- Accepting a command clears STATUS.RESULT, STATUS.WHERE and STATUS.ERRPOS (30_encoding.md R130). -/
def State.accept (s : State) : State :=
  s.updStatus (fun t => { t with result := .none, tag := .none, errpos := 0 })

/-- A command that runs `m` once it is accepted; outside IDLE nothing is accepted and nothing changes (R130). -/
def runCommand (m : Parse Unit) (s : State) : Host.Outcome State Fault Refusal :=
  completes (if s.fsm = .idle then runAt .command m s.accept else s)

/-- A command refused: BAD_COMMAND (R130, R131). Its tag, and that it leaves STATUS.PIC_VALID as it was, are log 16. -/
def badCommand : Parse Unit := raise ⟨.badCommand, .command⟩

/-- SETPOS (R131). -/
def setposP : Parse Unit := do
  let s ← getState
  if s.ctrl.pos.toNat ≤ s.endPos then do
    update (fun s => s.setPos s.ctrl.pos.toNat)
    finishOk .done
  else badCommand

/-- RESOLVE_QUIRKS (R130). -/
def resolveQuirksP : Parse Unit := do
  quirkResolveP
  finishOk .done

/-- CLRLOG (R130). -/
def clrlogP : Parse Unit := do
  update (fun s => s.updStatus (fun t => { t with log := 0 }))
  finishOk .done

/-- NOP: the absence of a command; no state changes (R130). -/
def execCmdNop (s : State) : Host.Outcome State Fault Refusal := completes s
/-- SCAN_HEADERS: the header run starts (R130, R110). -/
def execCmdScanHeaders (s : State) : Host.Outcome State Fault Refusal :=
  runCommand (update (fun s => s.setFsm .scan)) s
/-- DECODE_PICTURE: the picture header is next (R130, R110). -/
def execCmdDecodePicture (s : State) : Host.Outcome State Fault Refusal :=
  runCommand (update (fun s => s.setFsm .hdrVop)) s
/-- SETPOS. -/
def execCmdSetpos (s : State) : Host.Outcome State Fault Refusal := runCommand setposP s
/-- RESOLVE_QUIRKS. -/
def execCmdResolveQuirks (s : State) : Host.Outcome State Fault Refusal := runCommand resolveQuirksP s
/-- CLRLOG. -/
def execCmdClrlog (s : State) : Host.Outcome State Fault Refusal := runCommand clrlogP s
/-- The reserved code 6. -/
def execCmdReserved6 (s : State) : Host.Outcome State Fault Refusal := runCommand badCommand s
/-- The reserved code 7. -/
def execCmdReserved7 (s : State) : Host.Outcome State Fault Refusal := runCommand badCommand s
/-- The reserved code 8. -/
def execCmdReserved8 (s : State) : Host.Outcome State Fault Refusal := runCommand badCommand s
/-- The reserved code 9. -/
def execCmdReserved9 (s : State) : Host.Outcome State Fault Refusal := runCommand badCommand s
/-- The reserved code 10. -/
def execCmdReserved10 (s : State) : Host.Outcome State Fault Refusal := runCommand badCommand s
/-- The reserved code 11. -/
def execCmdReserved11 (s : State) : Host.Outcome State Fault Refusal := runCommand badCommand s
/-- The reserved code 12. -/
def execCmdReserved12 (s : State) : Host.Outcome State Fault Refusal := runCommand badCommand s
/-- The reserved code 13. -/
def execCmdReserved13 (s : State) : Host.Outcome State Fault Refusal := runCommand badCommand s
/-- The reserved code 14. -/
def execCmdReserved14 (s : State) : Host.Outcome State Fault Refusal := runCommand badCommand s
/-- The reserved code 15. -/
def execCmdReserved15 (s : State) : Host.Outcome State Fault Refusal := runCommand badCommand s

end Sys2Proof.Machine
end

