-- ==== Sys2Proof/Machine/Gmc.lean ====
section
/-! DEFINITION. The sprite trajectory, its resolution and the average motion vector (42_gmc.md). The closed forms
of CFG.GMC are its defaults or the configured ones (log 10). All arithmetic is exact (R210). -/

namespace Sys2Proof.Machine

/-! ## SPRITE_TRAJ (R212) -/

/-- One component of a trajectory point: a length, then that many bits, sign-folded (R212). -/
def trajComponent (e bad : Raise) : Parse Int := do
  let len ← vlcNumber e bad .spriteTraj
  if len = 0 then pure 0 else getFolded e len

/-- `v` with one component replaced. -/
def IVec.setComp (v : IVec) (c : Comp) (n : Int) : IVec :=
  match c with
  | .x => { v with x := n }
  | .y => { v with y := n }

/-- One part of a point, whose parts so far are `v`. `ex` gives the raise of an exhausted read, `family` the tag of a read
that is no marker. -/
def trajItem (ex : Tag → Raise) (family : Tag) (bad : Raise) (v : IVec) : TrajItem → Parse IVec
  | .component c => do
    let n ← trajComponent (ex family) bad
    pure (v.setComp c n)
  | .marker t unlessDivx413 => do
    let s ← getState
    whenP (!(unlessDivx413 && s.divx413)) (marker (ex t))
    pure v

/-- The parts of a point, in order. -/
def trajItems (ex : Tag → Raise) (family : Tag) (bad : Raise) : List TrajItem → IVec → Parse IVec
  | [], v => pure v
  | i :: is, v => do
    let u ← trajItem ex family bad v i
    trajItems ex family bad is u

/-- One point, its parts and its markers as CFG.GRAMMAR has them: by default x, the marker GMC_MID unless DIVX413 (R214),
y, the marker GMC_AFTER (log 10). -/
def trajPoint (ex : Tag → Raise) (family : Tag) (bad : Raise) : Parse IVec := do
  let s ← getState
  trajItems ex family bad s.cfg.layout.traj .zero

/-- PIC.sprite_traj[i] <- (x, y). -/
def State.setTraj (s : State) (i : Fin 4) (v : IVec) : State :=
  s.updPic (fun p => { p with spriteTraj := p.spriteTraj.set i ⟨toS 16 v.x, toS 16 v.y⟩ })

/-- One turn of the two loops of R212: point `i` is read when i < N and is (0, 0) otherwise. -/
def trajStep (i : Fin 4) : Parse Unit := do
  let s ← getState
  if i.val < s.seq.numSpriteWarpingPoints.toNat then do
    let v ← trajPoint truncated .vop (invalid .gmcVlc)
    update (fun s => s.setTraj i v)
  else update (fun s => s.setTraj i ⟨0, 0⟩)

/-- SPRITE_TRAJ (R212). -/
def spriteTrajP : Parse Unit := forEach trajStep [0, 1, 2, 3]

/-- The trajectory of a packet header, whose values are discarded (45_resync.md R338): an invalid code and, under
CTRL.STRICT, a marker 0 raise INVALID_DATA(VP_EXT). -/
def packetTrajP : Parse Unit :=
  withTag .vpExt (forEach (fun i : Fin 4 => do
    let s ← getState
    whenP (decide (i.val < s.seq.numSpriteWarpingPoints.toNat)) (do
      let _ ← trajPoint exhausted .vpExt (invalid .vpExt)
      pure ())) [0, 1, 2, 3])

/-! ## GMC_RESOLVE (R211, R216 to R228) -/

/-- A point of the trajectory as exact integers. -/
def trajValue (v : Vec 16) : IVec := ⟨v.x.toInt, v.y.toInt⟩

/-- a = 2 << acc, the warping-accuracy-dependent factor (R211). -/
def State.gmcFactor (s : State) : Int := 2 * 2 ^ s.seq.spriteWarpingAccuracy.toNat

/-- The inputs of GMC_RESOLVE (R211). -/
def State.gmcIn (s : State) : GmcIn where
  a := s.gmcFactor
  rho := 3 - s.seq.spriteWarpingAccuracy.toNat
  r := 8 / 2 ^ s.seq.spriteWarpingAccuracy.toNat
  w := s.seq.width.toNat
  h := s.seq.height.toNat
  alpha := max 1 (bitLength (s.seq.width.toNat - 1))
  beta := bitLength (s.seq.height.toNat - 1)
  d0 := trajValue s.pic.spriteTraj.v0
  d1 := trajValue s.pic.spriteTraj.v1
  d2 := trajValue s.pic.spriteTraj.v2

/-- w2 = 2^alpha (R211). -/
def GmcIn.w2 (g : GmcIn) : Int := 2 ^ g.alpha
/-- h2 = 2^beta (R211). -/
def GmcIn.h2 (g : GmcIn) : Int := 2 ^ g.beta
/-- vop_ref[0] (R211). -/
def GmcIn.ref0 (_ : GmcIn) : IVec := ⟨0, 0⟩
/-- vop_ref[1] (R211). -/
def GmcIn.ref1 (g : GmcIn) : IVec := ⟨g.w, 0⟩
/-- vop_ref[2] (R211). -/
def GmcIn.ref2 (g : GmcIn) : IVec := ⟨0, g.h⟩

/-- One component of a sprite reference point (R217), from the corner and the sum of displacements: the variants
DIVX, SRC and STD. -/
def spriteRefOf (divx : Bool) (k : GmcRef) (a corner disp : Int) : Int :=
  if divx then a * corner + disp
  else match k with
    | .src => a * (corner + disp)
    | .std => sar a 1 * (2 * corner + disp)

/-- A sprite reference point (R217). -/
def spriteRefPoint (divx : Bool) (k : GmcRef) (a : Int) (corner disp : IVec) : IVec :=
  ⟨spriteRefOf divx k a corner.x disp.x, spriteRefOf divx k a corner.y disp.y⟩

/-- The sum of two vectors. -/
def IVec.plus (u v : IVec) : IVec := ⟨u.x + v.x, u.y + v.y⟩

/-- Case N = 0 (R219). -/
def warpNone (g : GmcIn) : Warp := ⟨⟨0, 0⟩, ⟨0, 0⟩, ⟨g.a, 0⟩, ⟨0, g.a⟩, 0, 0⟩

/-- (v >> 1) | (v & 1) on a two's-complement value (R220). -/
def halfKeepingOdd (v : Int) : Int := if v % 2 = 1 ∧ sar v 1 % 2 = 0 then sar v 1 + 1 else sar v 1

/-- Case N = 1 (R220). -/
def warpOne (g : GmcIn) (s0 : IVec) : Warp where
  luma := ⟨s0.x - g.a * g.ref0.x, s0.y - g.a * g.ref0.y⟩
  chroma := ⟨halfKeepingOdd s0.x - g.a * Int.tdiv g.ref0.x 2, halfKeepingOdd s0.y - g.a * Int.tdiv g.ref0.y 2⟩
  rowX := ⟨g.a, 0⟩
  rowY := ⟨0, g.a⟩
  sh0 := 0
  sh1 := 0

/-- virtual_ref[0] (R218). -/
def virtualRef0 (g : GmcIn) (s0 s1 : IVec) : IVec where
  x := 16 * (g.ref0.x + g.w2)
    + roundedDiv ((g.w - g.w2) * (g.r * s0.x - 16 * g.ref0.x) + g.w2 * (g.r * s1.x - 16 * g.ref1.x)) g.w
  y := 16 * g.ref0.y
    + roundedDiv ((g.w - g.w2) * (g.r * s0.y - 16 * g.ref0.y) + g.w2 * (g.r * s1.y - 16 * g.ref1.y)) g.w

/-- virtual_ref[1] (R218). -/
def virtualRef1 (g : GmcIn) (s0 s2 : IVec) : IVec where
  x := 16 * g.ref0.x
    + roundedDiv ((g.h - g.h2) * (g.r * s0.x - 16 * g.ref0.x) + g.h2 * (g.r * s2.x - 16 * g.ref2.x)) g.h
  y := 16 * (g.ref0.y + g.h2)
    + roundedDiv ((g.h - g.h2) * (g.r * s0.y - 16 * g.ref0.y) + g.h2 * (g.r * s2.y - 16 * g.ref2.y)) g.h

/-- Case N = 2 (R221). -/
def warpTwo (g : GmcIn) (s0 v0 : IVec) : Warp :=
  let sh := g.alpha + g.rho
  let A := -g.r * s0.x + v0.x
  let B := g.r * s0.y - v0.y
  { luma :=
      ⟨s0.x * 2 ^ sh + A * (-g.ref0.x) + B * (-g.ref0.y) + 2 ^ (sh - 1),
       s0.y * 2 ^ sh + (-B) * (-g.ref0.x) + A * (-g.ref0.y) + 2 ^ (sh - 1)⟩
    chroma :=
      ⟨A * (-2 * g.ref0.x + 1) + B * (-2 * g.ref0.y + 1) + 2 * g.w2 * g.r * s0.x - 16 * g.w2 + 2 ^ (sh + 1),
       (-B) * (-2 * g.ref0.x + 1) + A * (-2 * g.ref0.y + 1) + 2 * g.w2 * g.r * s0.y - 16 * g.w2 + 2 ^ (sh + 1)⟩
    rowX := ⟨A, B⟩
    rowY := ⟨-B, A⟩
    sh0 := sh
    sh1 := sh + 2 }

/-- Case N = 3 (R222). -/
def warpThree (g : GmcIn) (s0 v0 v1 : IVec) : Warp :=
  let m := min g.alpha g.beta
  let w3 := sar g.w2 m
  let h3 := sar g.h2 m
  let sh := g.alpha + g.beta + g.rho - m
  let Ax := -g.r * s0.x + v0.x
  let Bx := -g.r * s0.x + v1.x
  let Ay := -g.r * s0.y + v0.y
  let By := -g.r * s0.y + v1.y
  { luma :=
      ⟨s0.x * 2 ^ sh + Ax * h3 * (-g.ref0.x) + Bx * w3 * (-g.ref0.y) + 2 ^ (sh - 1),
       s0.y * 2 ^ sh + Ay * h3 * (-g.ref0.x) + By * w3 * (-g.ref0.y) + 2 ^ (sh - 1)⟩
    chroma :=
      ⟨Ax * h3 * (-2 * g.ref0.x + 1) + Bx * w3 * (-2 * g.ref0.y + 1) + 2 * g.w2 * h3 * g.r * s0.x
         - 16 * g.w2 * h3 + 2 ^ (sh + 1),
       Ay * h3 * (-2 * g.ref0.x + 1) + By * w3 * (-2 * g.ref0.y + 1) + 2 * g.w2 * h3 * g.r * s0.y
         - 16 * g.w2 * h3 + 2 ^ (sh + 1)⟩
    rowX := ⟨Ax * h3, Bx * w3⟩
    rowY := ⟨Ay * h3, By * w3⟩
    sh0 := sh
    sh1 := sh + 2 }

/-- virtual_ref[0] and [1] under CFG.GMC.virtual (R218). -/
def State.virtualRefs (s : State) (g : GmcIn) (s0 s1 s2 : IVec) : IVec × IVec :=
  match s.cfg.gmcVirtual with
  | .standard => (virtualRef0 g s0 s1, virtualRef1 g s0 s2)
  | .given k => Config.givenVirtual k g s0 s1 s2

/-- Case N = 2 under CFG.GMC.case2 (R221). -/
def State.warpOfTwo (s : State) (g : GmcIn) (s0 v0 : IVec) : Warp :=
  match s.cfg.gmcCase2 with
  | .standard => warpTwo g s0 v0
  | .given k => Config.givenCase2 k g s0 v0

/-- Case N = 3 under CFG.GMC.case3 (R222). -/
def State.warpOfThree (s : State) (g : GmcIn) (s0 v0 v1 : IVec) : Warp :=
  match s.cfg.gmcCase3 with
  | .standard => warpThree g s0 v0 v1
  | .given k => Config.givenCase3 k g s0 v0 v1

/-- The raw offsets, deltas and shifts of the case N (R217 to R222). -/
def State.rawWarp (s : State) : Warp :=
  let g := s.gmcIn
  let n := s.seq.numSpriteWarpingPoints.toNat
  let s0 := spriteRefPoint s.divx413 s.cfg.gmcRef g.a g.ref0 g.d0
  let s1 := spriteRefPoint s.divx413 s.cfg.gmcRef g.a g.ref1 (g.d0.plus g.d1)
  let s2 := spriteRefPoint s.divx413 s.cfg.gmcRef g.a g.ref2 (g.d0.plus g.d2)
  let v := s.virtualRefs g s0 s1 s2
  if n = 0 then warpNone g
  else if n = 1 then warpOne g s0
  else if n = 2 then s.warpOfTwo g s0 v.1
  else s.warpOfThree g s0 v.1 v.2

/-- The test of R224: pure unit scaling. -/
def Warp.isPureScaling (k : Warp) (a : Int) : Bool :=
  k.rowX.x == a * 2 ^ k.sh0 && k.rowX.y == 0 && k.rowY.x == 0 && k.rowY.y == a * 2 ^ k.sh0

/-- The collapse of R224. -/
def Warp.collapse (k : Warp) (a : Int) : Warp :=
  ⟨⟨sar k.luma.x k.sh0, sar k.luma.y k.sh0⟩, ⟨sar k.chroma.x k.sh1, sar k.chroma.y k.sh1⟩, ⟨a, 0⟩, ⟨0, a⟩, 0, 0⟩

/-- All four offsets are 0. -/
def Warp.noOffset (k : Warp) : Bool := k.luma.x == 0 && k.luma.y == 0 && k.chroma.x == 0 && k.chroma.y == 0

/-- MAX = 2^(CFG.INT_BITS - 1) - 1 (R226). -/
def State.gmcMax (s : State) : Int := 2 ^ (s.cfg.intBits - 1) - 1

/-- `v` reaches the bound `m` in magnitude. -/
def reaches (v m : Int) : Bool := decide (m ≤ (v.natAbs : Int))

/-- Part 1 of the guard (R226) with the bound `m`, before the scaling. -/
def Warp.overflowsBefore (k : Warp) (m : Int) : Bool :=
  decide (16 < k.sh0) || decide (16 < k.sh1)
    || reaches k.luma.x (sar m (16 - k.sh0)) || reaches k.luma.y (sar m (16 - k.sh0))
    || reaches k.chroma.x (sar m (16 - k.sh1)) || reaches k.chroma.y (sar m (16 - k.sh1))
    || reaches k.rowX.x (sar m (16 - k.sh0)) || reaches k.rowX.y (sar m (16 - k.sh0))
    || reaches k.rowY.x (sar m (16 - k.sh0)) || reaches k.rowY.y (sar m (16 - k.sh0))

/-- The normalisation to a common shift of 16 (R225). -/
def Warp.normalise (k : Warp) : Warp :=
  let fy : Int := 2 ^ (16 - k.sh0)
  let fc : Int := 2 ^ (16 - k.sh1)
  ⟨⟨k.luma.x * fy, k.luma.y * fy⟩, ⟨k.chroma.x * fc, k.chroma.y * fc⟩, ⟨k.rowX.x * fy, k.rowX.y * fy⟩,
   ⟨k.rowY.x * fy, k.rowY.y * fy⟩, 16, 16⟩

/-- The terms of one row of part 2 of the guard (R226): `o` the luma offset, `row` the deltas. -/
def guardedTerms (a W H o : Int) (row : IVec) : List Int :=
  let sd0 := row.x - a * 2 ^ 16
  let sd1 := row.y - a * 2 ^ 16
  [o + row.x * W, o + row.y * H, o + row.x * W + row.y * H, row.x * W, row.y * H, sd0, sd1,
   o + sd0 * W, o + sd1 * H, o + sd0 * W + sd1 * H]

/-- Part 2 of the guard (R226) with the bound `m`, after the scaling. -/
def Warp.overflowsAfter (k : Warp) (m a w h : Int) : Bool :=
  (guardedTerms a (w + 16) (h + 16) k.luma.x k.rowX).any (fun v => reaches v m)
    || (guardedTerms a (w + 16) (h + 16) k.luma.y k.rowY).any (fun v => reaches v m)

/-- A vector committed to two registers of CFG.INT_BITS bits (10_state.md R31, R34). -/
def State.commit (s : State) (v : IVec) : IVec := ⟨(toS s.cfg.intBits v.x).toInt, (toS s.cfg.intBits v.y).toInt⟩

/-- Commit (R228), with PIC.real_sprite_warping_points. -/
def State.commitWarp (s : State) (k : Warp) (points : BitVec 3) : State :=
  s.updPic (fun p =>
    { p with
      spriteOffsetLuma := s.commit k.luma, spriteOffsetChroma := s.commit k.chroma
      spriteDeltaX := s.commit k.rowX, spriteDeltaY := s.commit k.rowY
      spriteShiftLuma := toU 6 k.sh0, spriteShiftChroma := toU 6 k.sh1
      realSpriteWarpingPoints := points })

/-- The result of the overflow guard (R226): zeroed arrays and a reported overflow. -/
def State.gmcOverflow (s : State) : State :=
  (s.updPic (fun p =>
    { p with
      spriteOffsetLuma := IVec.zero, spriteOffsetChroma := IVec.zero
      spriteDeltaX := IVec.zero, spriteDeltaY := IVec.zero
      gmcOverflow := true, realSpriteWarpingPoints := 0
      spriteShiftLuma := 0, spriteShiftChroma := 0 })).log .gmcOverflow

/-- The offsets, deltas and shifts of a picture whose size is positive (R217 to R228). -/
def State.resolveWarp (s : State) : State :=
  let a := s.gmcFactor
  let k := s.rawWarp
  if k.isPureScaling a then
    let c := k.collapse a
    let t := if c.noOffset then s.log .gmcIdentity else s
    t.commitWarp c 1
  else if k.overflowsBefore s.gmcMax then s.gmcOverflow
  else if k.normalise.overflowsAfter s.gmcMax a s.seq.width.toNat s.seq.height.toNat then s.gmcOverflow
  else s.commitWarp k.normalise s.seq.numSpriteWarpingPoints

/-- GMC_RESOLVE (R211, R216). -/
def gmcResolveP : Parse Unit := do
  let s ← getState
  if s.seq.width = 0 ∨ s.seq.height = 0 then raise ⟨.fatalGmc, .gmcSize⟩ else update State.resolveWarp

/-! ## GET_AMV (R232) -/

/-- RSHIFT(v, k): round half up (R232). -/
def rshift (v : Int) (k : Nat) : Int := if k = 0 then v else sar (v + 2 ^ (k - 1)) k

/-- A component of a pair. -/
def vecComp (v : IVec) : Comp → Int
  | .x => v.x
  | .y => v.y

/-- PIC.sprite_delta[n] (R223). -/
def Pic.deltaRow (p : Pic) : Comp → IVec
  | .x => p.spriteDeltaX
  | .y => p.spriteDeltaY

/-- The sum of the bilinear field over the 16x16 block: over y in 0..15 and x in 0..15 of
(v0 + dy*y + dx*x) >> shift (R232). -/
def fieldSum (v0 dx dy : Int) (shift : Nat) : Int :=
  (List.range 16).foldl (fun acc (y : Nat) =>
    (List.range 16).foldl (fun acc (x : Nat) => acc + sar (v0 + dy * y + dx * x) shift) acc) 0

/-- The average vector before the clamp, one real point (R232). -/
def State.amvOnePoint (s : State) (n : Comp) : Int :=
  let o := vecComp s.pic.spriteOffsetLuma n
  let acc := s.seq.spriteWarpingAccuracy.toNat
  let qs := s.seq.quarterSample.toNat
  if s.divx413 ∧ qs ≤ acc then Int.tdiv o (2 ^ (acc - qs)) else rshift (o * 2 ^ qs) acc

/-- The average vector before the clamp, otherwise (R232). -/
def State.amvField (s : State) (n : Comp) : Int :=
  let acc := s.seq.spriteWarpingAccuracy.toNat
  let qs := s.seq.quarterSample.toNat
  let shift := s.pic.spriteShiftLuma.toNat
  let unit : Int := 2 ^ (shift + acc + 1)
  let row := s.pic.deltaRow n
  let dx := if n = .y then row.x else row.x - unit
  let dy := if n = .y then row.y - unit else row.y
  let v0 := vecComp s.pic.spriteOffsetLuma n + dx * s.slice.mbX.toNat * 16 + dy * s.slice.mbY.toNat * 16
  rshift (fieldSum v0 dx dy shift) (acc + 8 - qs)

/-- The clamp of R232: [-len, len - 1] with len = 1 << (f_code + 4). -/
def clampAmv (fCode : Nat) (v : Int) : Int :=
  if v < -(2 ^ (fCode + 4)) then -(2 ^ (fCode + 4)) else if 2 ^ (fCode + 4) ≤ v then 2 ^ (fCode + 4) - 1 else v

/-- The result of GET_AMV(n) (R232). -/
def State.amv (s : State) (n : Comp) : Int :=
  if s.pic.gmcOverflow then 0
  else clampAmv s.pic.fCode.toNat (if s.pic.realSpriteWarpingPoints = 1 then s.amvOnePoint n else s.amvField n)

/-- The average motion vector, both components. -/
def State.amvVec (s : State) : Mv := ⟨toS 16 (s.amv .x), toS 16 (s.amv .y)⟩

/-! ## The meanings -/

/-- SPRITE_TRAJ run by itself. -/
def execSpriteTraj (s : State) : Host.Outcome State Fault Refusal := completes (runAt .vopHeader spriteTrajP s)

/-- GMC_RESOLVE run by itself. -/
def execGmcResolve (s : State) : Host.Outcome State Fault Refusal := completes (runAt .vopHeader gmcResolveP s)

/-- GET_AMV(n) run by itself: its result goes to its caller. -/
def execGetAmv (n : Comp) (s : State) : Host.Outcome State Fault Refusal :=
  completes (runFor .macroblock (pure [s.amv n]) s)

end Sys2Proof.Machine
end

