-- ==== Sys2Proof/Machine/Residual.lean ====
section
/-! DEFINITION. The residual block decoder: coefficients, escapes, DC and AC prediction (44_residual.md). -/

namespace Sys2Proof.Machine

/-- The raise of an exhausted read in a block operation (20_memory.md R75, 60_exceptions.md R372; log 15). -/
def blockEnd : Raise := exhausted .blockRl

/-! ## MB.block, MB.pred_dir, MB.last_index -/

/-- MB.block[n][p]. -/
def State.coefAt (s : State) (n : Fin 6) (p : Nat) : Int := (Cells.read (0 : BitVec 16) (s.mb.block.get n) p).toInt

/-- MB.block[n][p] <- v. -/
def State.setCoef (s : State) (n : Fin 6) (p : Nat) (v : Int) : State :=
  s.updMb (fun m => { m with block := m.block.set n (Cells.write 0 p (toS 16 v) (m.block.get n)) })

/-- MB.pred_dir[n] <- dir; true is top. -/
def State.setDir (s : State) (n : Fin 6) (dir : Bool) : State :=
  s.updMb (fun m => { m with predDir := m.predDir.set n dir })

/-- MB.last_index[n] <- i. -/
def State.setLastIndex (s : State) (n : Fin 6) (i : Int) : State :=
  s.updMb (fun m => { m with lastIndex := m.lastIndex.set n (toS 7 i) })

/-! ## DC: differential, neighbours, scaler, prediction (R292, R310 to R315, R326) -/

/-- The differential of `size` bits in the IS_3IV1 format (R292). -/
def dcDiff3iv1 (size : Nat) : Parse Int := do
  let b ← getBits blockEnd 1
  if size = 1 then pure (2 * (b : Int) - 1)
  else do
    let m ← getBits blockEnd (size - 1)
    pure (if b = 1 then ((m + 2 ^ (size - 1) : Nat) : Int) else -((m + 2 ^ (size - 1) : Nat) : Int))

/-- The bits of a differential of `size` bits, at least 1 (R292). -/
def dcDiffBits (size : Nat) : Parse Int := do
  let s ← getState
  if s.quirk .is3iv1 then dcDiff3iv1 size else getFolded blockEnd size

/-- The differential of `size` bits, at least 1, and its marker (R292, R293). -/
def dcDiffSized (size : Nat) : Parse Int := do
  let d ← dcDiffBits size
  whenP (decide (8 < size)) (marker (exhausted .blockDcMarker))
  pure d

/-- DC_DIFF(n) (R292). -/
def dcDiffP (n : Fin 6) : Parse Int := do
  let size ← vlcNumber blockEnd (invalid .blockDcSize) (if n.val < 4 then .dcLum else .dcChrom)
  if 9 < size then raise (invalid .blockDcSize)
  else if size = 0 then pure 0
  else dcDiffSized size

/-- The DC neighbours of a block: left, top-left, top. -/
structure DcNeighbours where
  a : Int
  b : Int
  c : Int
deriving DecidableEq, Repr

/-- The neighbours as DCMEM holds them, 1024 outside the picture (R311). -/
def State.storedNeighbours (s : State) (n : Fin 6) : DcNeighbours :=
  let x := s.blockX n
  let y := s.blockY n
  { a := if x = 0 then 1024 else s.dcAt n (x - 1) y
    b := if x = 0 ∨ y = 0 then 1024 else s.dcAt n (x - 1) (y - 1)
    c := if y = 0 then 1024 else s.dcAt n x (y - 1) }

/-- The slice boundary: the neighbours a block may not use read 1024 (R311). -/
def State.maskNeighbours (s : State) (n : Fin 6) (d : DcNeighbours) : DcNeighbours :=
  let first := s.slice.firstSliceLine && n.val != 3
  let atStart := s.slice.mbX == s.slice.resyncMbX
  let above := first && n.val != 2
  let left := first && n.val != 1 && atStart
  let below := atStart && decide (s.slice.mbY.toNat = s.slice.resyncMbY.toNat + 1)
    && (n.val == 0 || n.val == 4 || n.val == 5)
  { a := if left then 1024 else d.a
    b := if above || left || below then 1024 else d.b
    c := if above then 1024 else d.c }

/-- The neighbours PRED_DC uses (R311). -/
def State.dcNeighbours (s : State) (n : Fin 6) : DcNeighbours := s.maskNeighbours n (s.storedNeighbours n)

/-- The direction: true is top (R312). -/
def dcTop (tieTop : Bool) (d : DcNeighbours) : Bool :=
  decide ((d.a - d.b).natAbs < (d.b - d.c).natAbs) || (tieTop && (d.a - d.b).natAbs == (d.b - d.c).natAbs)

/-- The default of CFG.DC_SCALE(q, chroma) (R313); outside 1..31 the table gives no value (log 4). -/
def dcScale (q : Nat) (chroma : Bool) : Nat :=
  if q = 0 ∨ 31 < q then Config.dcScaleBeyond q chroma + 1
  else if q ≤ 4 then 8
  else if chroma then (if q ≤ 24 then (q + 13) / 2 else q - 6)
  else if q ≤ 8 then 2 * q
  else if q ≤ 24 then q + 8
  else 2 * q - 16

/-- CFG.DC_SCALE(q, chroma) (R313, 00_scope.md R7). -/
def State.dcScaleAt (s : State) (q : Nat) (chroma : Bool) : Nat :=
  match s.cfg.dcScale with
  | .standard => dcScale q chroma
  | .given k => Config.givenDcScale k q chroma + 1

/-- The scaler of block `n` (R313). -/
def State.scaleOf (s : State) (n : Fin 6) : Nat :=
  if s.quirk .is3iv1 then 8 else s.dcScaleAt s.pic.qscale.toNat (decide (4 ≤ n.val))

/-- The DC level of a stored word: (w + (scale >> 1)) div scale (R310, R326). -/
def levelOf (w : Int) (scale : Nat) : Int := divT (w + (scale / 2 : Nat)) scale

/-- The word that DCMEM takes (R314). -/
def State.dcWord (s : State) (w : Int) : Int :=
  if w < 0 then 0 else if 2047 < w ∧ s.quirk .dcClip = false then 2047 else w

/-- PRED_DC_DIR(n): MB.pred_dir[n] only (R290, R312). -/
def State.predDcDir (s : State) (n : Fin 6) : State := s.setDir n (dcTop s.cfg.dcTieTop (s.dcNeighbours n))

/-- The predictor of PRED_DC(n), in level units (R310 to R313). -/
def State.dcPredictor (s : State) (n : Fin 6) : Int :=
  let d := s.dcNeighbours n
  levelOf (if dcTop s.cfg.dcTieTop d then d.c else d.a) (s.scaleOf n)

/-- The range check under CTRL.STRICT (R315). -/
def dcRange (level : Int) (scale : Nat) : Parse Unit := do
  let s ← getState
  if s.ctrl.strict ∧ (level < 0 ∨ 2048 + (scale : Int) < level) then raise (invalid .blockDcRange) else pure ()

/-- PRED_DC(n, diff) (R310): the level. -/
def predDcP (n : Fin 6) (diff : Int) : Parse Int := do
  let s ← getState
  update (fun s => s.predDcDir n)
  dcRange (diff + s.dcPredictor n) (s.scaleOf n)
  update (fun s => s.writeDc n (toS 16 (s.dcWord ((diff + s.dcPredictor n) * s.scaleOf n))))
  pure (diff + s.dcPredictor n)

/-- The record of the current macroblock in PARTMEM: its position in the slice (45_resync.md R348). -/
def State.partHere (s : State) : PartRec := s.partAt (s.mbi - s.resyncMbi)

/-- The DC of a partitioned frame, with no bit read (R326). -/
def State.partitionedDc (s : State) (n : Fin 6) : State :=
  (s.setCoef n 0 (levelOf (s.dcAt n (s.blockX n) (s.blockY n)) (s.scaleOf n))).setDir n (s.partHere.dir.get n)

/-! ## Coefficients (R296 to R305) -/

/-- A coefficient: the last flag, the run of zeros, the signed level. -/
structure Coef where
  last : Bool
  run : Nat
  level : Int
deriving DecidableEq, Repr

/-- The sign rule (R301). -/
def signedLevel (level : Nat) (sb : Bool) : Int := if sb then -(level : Int) else level

/-- The trailing sign bit and the level (R297 to R299). -/
def withSign (last : Bool) (run level : Nat) : Parse Coef := do
  let sb ← getFlag blockEnd
  pure ⟨last, run, signedLevel level sb⟩

/-- The (last, run, level) of a symbol that is one. -/
def entryOf : Option Sym → Option (Bool × Nat × Nat)
  | some (.rl last run level) => some (last, run, level)
  | some .escape => none
  | some (.num _) => none
  | some (.btype _) => none
  | none => none

/-- MaxLevel(t, last, run) (R304). -/
def maxLevel (rows : List VlcRow) (last : Bool) (run : Nat) : Nat :=
  rows.foldl (fun m r =>
    match entryOf (some r.sym) with
    | some (l, rn, lv) => if l = last ∧ rn = run then max m lv else m
    | none => m) 0

/-- MaxRun(t, last, level) (R304). -/
def maxRun (rows : List VlcRow) (last : Bool) (level : Nat) : Nat :=
  rows.foldl (fun m r =>
    match entryOf (some r.sym) with
    | some (l, rn, lv) => if l = last ∧ lv = level then max m rn else m
    | none => m) 0

/-- The table of a run-level table's name. -/
def vlcOf : RlTable → VlcTable
  | .intra => .rlIntra
  | .inter => .rlInter
  | .rvlcIntra => .rlRvlcIntra
  | .rvlcInter => .rlRvlcInter

/-- COEF_DIRECT (R297). -/
def coefDirectP (last : Bool) (run level : Nat) : Parse Coef := withSign last run level

/-- COEF_ESC1(t) (R298). -/
def coefEsc1P (t : RlTable) : Parse Coef := do
  let s ← getState
  let r ← vlc blockEnd (vlcOf t)
  match entryOf r with
  | some (last, run, level) => withSign last run (level + maxLevel (s.cfg.table (vlcOf t)) last run)
  | none => raise (invalid .blockRl)

/-- COEF_ESC2(t) (R299). -/
def coefEsc2P (t : RlTable) : Parse Coef := do
  let s ← getState
  let r ← vlc blockEnd (vlcOf t)
  match entryOf r with
  | some (last, run, level) => withSign last (run + maxRun (s.cfg.table (vlcOf t)) last level + 1) level
  | none => raise (invalid .blockRl)

/-- The level of the third escape, between its markers unless IS_3IV1 (R300). -/
def esc3Level : Parse Int := do
  let s ← getState
  if s.quirk .is3iv1 then getSigned blockEnd 12
  else do
    marker (exhausted .blockEsc3)
    let l ← getSigned blockEnd 12
    marker (exhausted .blockEsc3)
    pure l

/-- COEF_ESC3 (R300). -/
def coefEsc3P : Parse Coef := do
  let last ← getFlag blockEnd
  let run ← getBits blockEnd 6
  let l ← esc3Level
  pure ⟨last, run, l⟩

/-- A bit that must be 1, always strict (R303). -/
def rvlcMarker : Parse Unit := do
  let b ← getFlag blockEnd
  if b then pure () else raise (invalid .blockRvlcEsc)

/-- The escape of the reversible tables (R303). -/
def coefRvlcP : Parse Coef := do
  rvlcMarker
  let last ← getFlag blockEnd
  let run ← getBits blockEnd 6
  rvlcMarker
  let level ← getBits blockEnd 11
  let tail ← getBits blockEnd 5
  if tail ≠ 16 then raise (invalid .blockRvlcEsc) else withSign last run level

/-- A coefficient, and whether it came by COEF_ESC3 (R305). -/
structure Taken where
  coef : Coef
  raw : Bool
deriving DecidableEq, Repr

/-- A coefficient that is not raw. -/
def tableCoef (m : Parse Coef) : Parse Taken := do
  let c ← m
  pure ⟨c, false⟩

/-- A coefficient by COEF_ESC3, after its two selector bits. -/
def rawCoef : Parse Taken := do
  skipBits blockEnd 2
  let c ← coefEsc3P
  pure ⟨c, true⟩

/-- The tiers of an escape, in the order of R296, with the selector bits inverted under IS_3IV1 (R307). -/
def escapeP (t : RlTable) : Parse Taken := do
  let s ← getState
  let x := if s.quirk .is3iv1 then 1 else 0
  if s.peek 1 ^^^ x = 0 then do
    skipBits blockEnd 1
    tableCoef (coefEsc1P t)
  else if s.peek 2 ^^^ (3 * x) = 2 then do
    skipBits blockEnd 2
    tableCoef (coefEsc2P t)
  else rawCoef

/-- One coefficient of the loop (R296). -/
def nextCoef (t : RlTable) : Parse Taken := do
  let r ← vlc blockEnd (vlcOf t)
  match r with
  | some (.rl last run level) => tableCoef (coefDirectP last run level)
  | some .escape => if t.isRvlc then tableCoef coefRvlcP else escapeP t
  | some (.num _) => raise (invalid .blockRl)
  | some (.btype _) => raise (invalid .blockRl)
  | none => raise (invalid .blockRl)

/-- Whether an inter block is dequantised here: qmul and qadd other than (1, 0) (R291, R305). -/
inductive DeqMode where
  | plain
  | scaled
deriving DecidableEq, Repr

/-- Deq(L) (R305): qmul = 2*PIC.qscale, qadd = (PIC.qscale - 1) | 1. -/
def deq (mode : DeqMode) (qscale : Nat) (l : Int) : Int :=
  match mode with
  | .plain => l
  | .scaled =>
    let qadd : Int := if qscale % 2 = 1 then qscale else (qscale : Int) - 1
    if 0 < l then l * (2 * qscale) + qadd else l * (2 * qscale) - qadd

/-- The range of a value that came by COEF_ESC3 (R305). -/
def esc3Range (v : Int) : Parse Int := do
  let s ← getState
  if -2048 ≤ v ∧ v ≤ 2047 then pure v
  else if s.ctrl.strict ∧ 2560 < v.natAbs then raise (invalid .blockEsc3Range)
  else pure (clip v (-2048) 2047)

/-- The value of a coefficient (R305). -/
def valueOf (mode : DeqMode) (k : Taken) : Parse Int := do
  let s ← getState
  if k.raw then esc3Range (deq mode s.pic.qscale.toNat k.coef.level)
  else pure (deq mode s.pic.qscale.toNat k.coef.level)

/-- COEF_LOOP(n, t, scan, i) (R296, R302): the final index. Each turn raises the index, so 65 turns are enough. -/
def coefLoop (n : Fin 6) (t : RlTable) (scan : List Nat) (mode : DeqMode) : (fuel : Nat) → Int → Parse Int
  | 0, i => pure i
  | fuel + 1, i => do
    let k ← nextCoef t
    let j : Int := i + k.coef.run + 1 + (if k.coef.last then 192 else 0)
    let v ← valueOf mode k
    if 62 < j then
      if j - 192 < 0 ∨ 63 < j - 192 then raise (invalid .blockPosition)
      else do
        update (fun s => s.setCoef n (permAt scan (j - 192).toNat) v)
        pure (j - 192)
    else do
      update (fun s => s.setCoef n (permAt scan j.toNat) v)
      coefLoop n t scan mode fuel j

/-- UseRvlc (R303). -/
def State.useRvlc (s : State) : Bool := s.seq.rvlc && s.pic.partitionedFrame

/-- The scan of an intra block (R295). -/
def State.intraScan (s : State) (n : Fin 6) : List Nat :=
  if s.pic.alternateScan then s.cfg.altV
  else if s.mb.intra && s.mb.acPred then (if s.mb.predDir.get n then s.cfg.altH else s.cfg.altV)
  else s.cfg.zigzag

/-- The scan of an inter block (R291). -/
def State.interScan (s : State) : List Nat := if s.pic.alternateScan then s.cfg.altV else s.cfg.zigzag

/-! ## AC prediction (R318 to R320) -/

/-- The raster position of AC coefficient `p`, through the current permutation (R318; log 22). -/
def State.acPos (s : State) (p : Nat) : Nat := permAt s.cfg.idctPerm p

/-- Word `k` of the neighbour that the direction picks: left of X or above it, 0 outside the picture (R318). -/
def State.acNeighbour (s : State) (n : Fin 6) (top : Bool) (k : Nat) : Int :=
  if top then (if s.blockY n = 0 then 0 else s.acAt n (s.blockX n) (s.blockY n - 1) (8 + k))
  else (if s.blockX n = 0 then 0 else s.acAt n (s.blockX n - 1) (s.blockY n) k)

/-- nb, the macroblock of the neighbour (R318). -/
def State.acMacroblock (s : State) (top : Bool) : Nat := if top then s.mbi - s.mbW else s.mbi - 1

/-- The neighbour used the same quantiser (R318). -/
def State.sameQuant (s : State) (n : Fin 6) (top : Bool) : Bool :=
  if top then
    s.slice.mbY == 0 || n.val == 2 || n.val == 3 || s.qAt (s.acMacroblock true) == s.pic.qscale.toNat
  else
    s.slice.mbX == 0 || n.val == 1 || n.val == 3 || s.qAt (s.acMacroblock false) == s.pic.qscale.toNat

/-- The rescaled word `k` (R319). -/
def State.acPrediction (s : State) (n : Fin 6) (top : Bool) (k : Nat) : Int :=
  if s.sameQuant n top then s.acNeighbour n top k
  else roundedDiv (s.acNeighbour n top k * s.qAt (s.acMacroblock top)) s.pic.qscale.toNat

/-- The 1 to 7 of R318 and R320. -/
def oneToSeven : List Nat := [1, 2, 3, 4, 5, 6, 7]

/-- The coefficient that word `k` of the direction adds to: `k` of the first row for top, `8k` of the first column
for left (R318). -/
def State.acTarget (s : State) (top : Bool) (k : Nat) : Nat := if top then s.acPos k else s.acPos (8 * k)

/-- The read side for one `k` (R318, R319). -/
def State.addAc (s : State) (n : Fin 6) (top : Bool) (k : Nat) : State :=
  s.setCoef n (s.acTarget top k) (s.coefAt n (s.acTarget top k) + s.acPrediction n top k)

/-- The read side of PRED_AC(n) (R318). -/
def State.addAcAll (s : State) (n : Fin 6) : State :=
  oneToSeven.foldl (fun t k => t.addAc n (s.mb.predDir.get n) k) s

/-- The write side for one `k` (R320). -/
def State.storeAc (s : State) (n : Fin 6) (k : Nat) : State :=
  (s.writeAc n k (toS 16 (s.coefAt n (s.acPos (8 * k))))).writeAc n (8 + k) (toS 16 (s.coefAt n (s.acPos k)))

/-- The write side of PRED_AC(n) (R320). -/
def State.storeAcAll (s : State) (n : Fin 6) : State := oneToSeven.foldl (fun t k => t.storeAc n k) s

/-- PRED_AC(n) (R318 to R320). -/
def State.predAc (s : State) (n : Fin 6) : State :=
  if s.mb.acPred then (s.addAcAll n).storeAcAll n else s.storeAcAll n

/-! ## Blocks (R290, R291) -/

/-- The early DC: read and predicted, or recovered in a partitioned frame (R290, R326). -/
def earlyDc (n : Fin 6) : Parse Unit := do
  let s ← getState
  if s.pic.partitionedFrame then update (fun s => s.partitionedDc n)
  else do
    let diff ← dcDiffP n
    let level ← predDcP n diff
    update (fun s => s.setCoef n 0 level)

/-- The coefficients of a coded intra block from index `i` (R290); an uncoded block keeps the index. -/
def intraCoefs (n : Fin 6) (coded : Bool) (i : Int) : Parse Int := do
  let s ← getState
  if coded then coefLoop n (if s.useRvlc then .rvlcIntra else .intra) (s.intraScan n) .plain 65 i else pure i

/-- The end of an intra block: AC prediction and MB.last_index (R290, R321). -/
def State.endIntra (s : State) (n : Fin 6) (i : Int) : State :=
  (s.predAc n).setLastIndex n (if s.mb.acPred then 63 else i)

/-- BLOCK_INTRA with the DC read first (R290). -/
def intraEarly (n : Fin 6) (coded : Bool) : Parse Unit := do
  earlyDc n
  let i ← intraCoefs n coded 0
  update (fun s => s.endIntra n i)

/-- BLOCK_INTRA with the DC among the coefficients (R290, R294). -/
def intraLate (n : Fin 6) (coded : Bool) : Parse Unit := do
  update (fun s => s.predDcDir n)
  let i ← intraCoefs n coded (-1)
  let s ← getState
  let level ← predDcP n (s.coefAt n 0)
  update (fun s => (s.setCoef n 0 level).endIntra n (if i = -1 then 0 else i))

/-- BLOCK_INTRA(n, coded) (R290). -/
def blockIntraP (n : Fin 6) (coded : Bool) : Parse Unit := do
  let s ← getState
  if s.eng.useIntraDcVlc then intraEarly n coded else intraLate n coded

/-- BLOCK_INTER(n) (R291). -/
def blockInterP (n : Fin 6) : Parse Unit := do
  let s ← getState
  let i ← coefLoop n (if s.useRvlc then .rvlcInter else .inter) s.interScan
    (if s.seq.mpegQuant then .plain else .scaled) 65 (-1)
  update (fun s => s.setLastIndex n i)

/-! ## The meanings -/

/-- A coefficient as the values handed to the caller: last, run, level. -/
def Coef.values (c : Coef) : List Int := [if c.last then 1 else 0, c.run, c.level]

/-- A coefficient operation run by itself. -/
def coefValues (m : Parse Coef) : Parse (List Int) := do
  let c ← m
  pure c.values

/-- BLOCK_INTRA(n, coded) run by itself. -/
def execBlockIntra (n : Fin 6) (coded : Bool) (s : State) : Host.Outcome State Fault Refusal :=
  inStores s (runAt .macroblock (blockIntraP n coded) s)
/-- BLOCK_INTER(n) run by itself. -/
def execBlockInter (n : Fin 6) (s : State) : Host.Outcome State Fault Refusal :=
  completes (runAt .macroblock (blockInterP n) s)
/-- COEF_DIRECT run by itself. -/
def execCoefDirect (last : Bool) (run level : Nat) (s : State) : Host.Outcome State Fault Refusal :=
  completes (runFor .macroblock (coefValues (coefDirectP last run level)) s)
/-- COEF_ESC1(t) run by itself. -/
def execCoefEsc1 (t : RlTable) (s : State) : Host.Outcome State Fault Refusal :=
  completes (runFor .macroblock (coefValues (coefEsc1P t)) s)
/-- COEF_ESC2(t) run by itself. -/
def execCoefEsc2 (t : RlTable) (s : State) : Host.Outcome State Fault Refusal :=
  completes (runFor .macroblock (coefValues (coefEsc2P t)) s)
/-- COEF_ESC3 run by itself. -/
def execCoefEsc3 (s : State) : Host.Outcome State Fault Refusal :=
  completes (runFor .macroblock (coefValues coefEsc3P) s)
/-- PRED_DC(n, diff) run by itself: the level goes to its caller. -/
def execPredDc (n : Fin 6) (diff : Int) (s : State) : Host.Outcome State Fault Refusal :=
  inStores s (runFor .macroblock (do
    let l ← predDcP n diff
    pure [l]) s)
/-- PRED_AC(n) run by itself. -/
def execPredAc (n : Fin 6) (s : State) : Host.Outcome State Fault Refusal :=
  inStores s (runAt .macroblock (update (fun s => s.predAc n)) s)

end Sys2Proof.Machine
end

