-- ==== Sys2Proof/Machine/Macroblock.lean ====
section
/-! DEFINITION. The macroblock layer: I, P and S, and B macroblocks, motion vectors, the quantiser delta
(43_macroblock.md). -/

namespace Sys2Proof.Machine

/-- MB rewritten by `f`. -/
def putMb (f : Mb → Mb) : Parse Unit := update (fun s => s.updMb f)

/-- MB at the start of a macroblock operation (10_state.md R46). -/
def State.startMb (s : State) : State := s.updMb (fun _ => { Mb.reset with qscale := s.pic.qscale })

/-- The six blocks, in order. -/
def sixBlocks : List (Fin 6) := [0, 1, 2, 3, 4, 5]

/-- The four luma blocks, in order. -/
def fourBlocks : List (Fin 4) := [0, 1, 2, 3]

/-- Bit 5 - n of MB.cbp (R244). -/
def State.codedBit (s : State) (n : Fin 6) : Bool := s.mb.cbp.getLsbD (5 - n.val)

/-! ## Quantiser (R246, R247, R274) -/

/-- DQTAB (30_encoding.md R109). -/
def dquantOf (i : Nat) : Int := if i = 0 then -1 else if i = 1 then -2 else if i = 2 then 1 else 2

/-- The quantiser after the delta `d` (R247): between 1 and 2^SEQ.quant_precision - 1. -/
def State.steppedQuant (s : State) (d : Int) : BitVec 9 :=
  toU 9 (clip (s.pic.qscale.toNat + d) 1 (2 ^ s.seq.quantPrecision.toNat - 1))

/-- MB.dquant <- d and the quantiser update (R247). It writes PIC.chroma_qscale with PIC.qscale, as R247 says, although
10_state.md R30 has a macroblock operation write PIC.qscale alone: DEDUCED, log 54. -/
def State.applyDquant (s : State) (d : Int) : State :=
  ((s.setQscale (s.steppedQuant d)).updMb (fun m => { m with dquant := toS 3 d, qscale := s.steppedQuant d }))

/-- DQUANT (R246): `e` is the raise of an exhausted read. -/
def dquantP (e : Raise) : Parse Unit := do
  let i ← getBits e 2
  update (fun s => s.applyDquant (dquantOf i))

/-- The B quantiser delta (R274). -/
def dquantBP (e : Raise) : Parse Unit := do
  let present ← getFlag e
  whenP present (do
    let up ← getBits e 1
    update (fun s => s.applyDquant (4 * (up : Int) - 2)))

/-! ## The intra part, shared by MB_I and by an intra macroblock of a P or S picture (R241 to R249, R264) -/

/-- INTRA_MCBPC with its stuffing (R241); each turn consumes at least one bit, so `fuel` is enough. -/
def intraMcbpc (e : Raise) : (fuel : Nat) → Parse Nat
  | 0 => raise e
  | fuel + 1 => do
    let c ← vlcNumber e (invalid e.tag) .intraMcbpc
    if c = 8 then intraMcbpc e fuel else pure c

/-- The number of turns that a stuffing loop can take at most. -/
def State.turns (s : State) : Nat := s.endPos - s.pos + 1

/-- MB.cbp <- (cbpy << 2) | MB.cbpc (R244). -/
def State.setCbp (s : State) (cbpy : Nat) : State :=
  s.updMb (fun m => { m with cbp := toU 6 (4 * cbpy + m.cbpc.toNat : Nat) })

/-- The field-DCT flag, when `present` (R248). -/
def fieldDct (e : Raise) (present : Bool) : Parse Unit :=
  whenP present (do
    let b ← getFlag e
    putMb (fun m => { m with interlacedDct := b }))

/-- The intra block loop (R249). -/
def intraBlocks : Parse Unit :=
  forEach (fun n => do
    let s ← getState
    blockIntraP n (s.codedBit n)) sixBlocks

/-- The switch of R245. -/
def State.setDcSwitch (s : State) : State :=
  s.updEng (fun g => { g with useIntraDcVlc := decide (s.pic.qscale.toNat < s.pic.intraDcThreshold.toNat) })

/-- From the AC-prediction flag to the blocks (R242 to R249, R264). -/
def intraBody (e : Raise) (hasDquant : Bool) : Parse Unit := do
  let ac ← getFlag e
  putMb (fun m => { m with acPred := ac })
  let y ← vlcNumber e (invalid .mbCbpy) .cbpy
  update (fun s => s.setCbp y)
  update State.setDcSwitch
  whenP hasDquant (dquantP e)
  let s ← getState
  fieldDct e s.seq.interlaced
  intraBlocks

/-! ## The epilogue (R262, R263) -/

/-- The MBTYPEMEM word of MB (20_memory.md R85). -/
def Mb.typeWord (m : Mb) : MbType :=
  { intra := m.intra, skipped := m.skipped, mvType := m.mvType, mcsel := m.mcsel
    interlacedDct := m.interlacedDct, acPred := m.acPred
    fieldSelectFwd0 := m.fieldSelectFwd0, fieldSelectFwd1 := m.fieldSelectFwd1
    fieldSelectBwd0 := m.fieldSelectBwd0, fieldSelectBwd1 := m.fieldSelectBwd1 }

/-- The vector that the frame holds for a field vector: y doubled (R262). -/
def frameVector (v : Mv) : Mv := ⟨v.x, toS 16 (2 * v.y.toInt)⟩

/-- The motion store write (R262). -/
def State.storeMotion (s : State) : State :=
  if s.pic.pictType = .b then s
  else if s.mb.intra then s.writeMvAll (Vec.zero 16)
  else match s.mb.mvType with
    | .mv16x16 => s.writeMvAll s.mb.mvFwd.v0
    | .mv8x8 => s
    | .mvField =>
      (((s.writeMv 0 (frameVector s.mb.mvFwd.v0)).writeMv 1 (frameVector s.mb.mvFwd.v0)).writeMv 2
        (frameVector s.mb.mvFwd.v1)).writeMv 3 (frameVector s.mb.mvFwd.v1)

/-- The macroblock has its own result: a failure that lost it before is forgotten (log 42). -/
def State.noteDone (s : State) : State :=
  s.updEng (fun g => { g with failed := g.failed.filter (fun i => i != s.mbi) })

/-- The epilogue up to the peek (R263): stores and counters. -/
def State.epilogue (s : State) : State :=
  let t := ((s.writeQ s.mb.qscale).storeMotion.writeMbType s.mb.typeWord).noteDone
  t.updSlice (fun l => { l with mbValid := toU 20 (l.mbValid.toNat + 1 : Nat), nextMbi := toU 20 (s.mbi + 1 : Nat) })

/-- The record of a macroblock operation, emitted once the peek has given its result (30_encoding.md R133, log 9). -/
def State.emitMb (s : State) : State := s.emit (.decoded s.slice.mbX s.slice.mbY s.mb)

/-- The end of a macroblock operation that did not raise: RESYNC_PEEK is next (R263). -/
def State.endMb (s : State) : State :=
  (s.epilogue.setFsm .resyncCheck).updEng (fun g => { g with phase := .peek })

/-- The advance to the next macroblock, which publishes a finished row, and the end of the first slice line (R263). -/
def State.advance (s : State) : State :=
  let wraps := decide (s.slice.mbX.toNat + 1 = s.mbW)
  let x := if wraps then 0 else s.slice.mbX.toNat + 1
  let y := if wraps then s.slice.mbY.toNat + 1 else s.slice.mbY.toNat
  let leaves := decide (x = s.slice.resyncMbX.toNat ∧ y = s.slice.resyncMbY.toNat + 1)
  (if wraps then s.publishRow (s.slice.mbY.toNat + 1) else s).updSlice (fun l =>
    { l with
      mbX := toU 10 x, mbY := toU 10 y
      firstSliceLine := if leaves then false else l.firstSliceLine })

/-! ## MB_I (R240, R241) -/

/-- MB_I (R240). -/
def mbIP : Parse Unit := do
  update State.startMb
  let s ← getState
  let c ← intraMcbpc (exhausted .mbIMcbpc) s.turns
  putMb (fun m => { m with cbpc := toU 2 (c % 4 : Nat), intra := true })
  intraBody (exhausted .mbIMcbpc) (c / 4 % 2 == 1)
  update State.endMb

/-! ## Motion vectors (R255 to R260) -/

/-- The range wrap (R258): the signed (5 + fc)-bit value congruent to `v`. -/
def wrapMv (v : Int) (fc : Nat) : Int :=
  let m : Int := 2 ^ (5 + fc)
  if 2 * (v % m) < m then v % m else v % m - m

/-- The magnitude of a differential, refined by `shift` bits (R257). -/
def mvdMagnitude (e : Raise) (code shift : Nat) : Parse Nat := do
  if 0 < shift then do
    let r ← getBits e shift
    pure ((code - 1) * 2 ^ shift + r + 1)
  else pure code

/-- MVD(pred, fc) (R257). -/
def mvdP (pred : Int) (fc : Nat) : Parse Int := do
  let code ← vlcNumber (exhausted .mbMv) (invalid .mbMv) .mv
  if code = 0 then pure pred
  else do
    let neg ← getFlag (exhausted .mbMv)
    let val ← mvdMagnitude (exhausted .mbMv) code (fc - 1)
    pure (wrapMv ((if neg then -(val : Int) else val) + pred) fc)

/-- The two components of a vector, each predicted from `p` (R256, R260). -/
def mvdPair (p : IVec) (fc : Nat) : Parse IVec := do
  let x ← mvdP p.x fc
  let y ← mvdP p.y fc
  pure ⟨x, y⟩

/-- A vector in two 16-bit registers. -/
def IVec.toMv (v : IVec) : Mv := ⟨toS 16 v.x, toS 16 v.y⟩

/-- A stored vector as exact integers. -/
def mvValue (v : Mv) : IVec := ⟨v.x.toInt, v.y.toInt⟩

/-- A candidate of the predictor: (0, 0) outside the picture (R255). -/
def State.candidate (s : State) (x y : Int) : IVec :=
  if x < 0 ∨ y < 0 ∨ (2 * s.mbW : Nat) ≤ x then ⟨0, 0⟩ else mvValue (s.mvAt x.toNat y.toNat)

/-- off (R255). -/
def topRightOffset (n : Fin 4) : Int := if n = 0 then 2 else if n = 1 then 1 else if n = 2 then 1 else -1

/-- The median of three vectors, by component. -/
def midVec (a b c : IVec) : IVec := ⟨mid a.x b.x c.x, mid a.y b.y c.y⟩

/-- PredMV(n) (R255). -/
def State.predMv (s : State) (n : Fin 4) : IVec :=
  let bx : Int := s.blockX (lumaBlock n)
  let bY : Int := s.blockY (lumaBlock n)
  let A := s.candidate (bx - 1) bY
  let B := s.candidate bx (bY - 1)
  let C := s.candidate (bx + topRightOffset n) (bY - 1)
  let atStart := s.slice.mbX == s.slice.resyncMbX
  let beforeStart := s.slice.mbX.toNat + 1 == s.slice.resyncMbX.toNat
  if s.slice.firstSliceLine && n != 3 then
    if n = 0 then
      if atStart then ⟨0, 0⟩
      else if beforeStart then (if s.slice.mbX = 0 then C else midVec A ⟨0, 0⟩ C)
      else A
    else if n = 1 then (if beforeStart then midVec A ⟨0, 0⟩ C else A)
    else midVec (if atStart then ⟨0, 0⟩ else A) B C
  else midVec A B C

/-- The vectors of a direction: 0 forward, 1 backward. -/
inductive Dir where
  | fwd | bwd
deriving DecidableEq, Repr

/-- MB.mv[d][i] <- v. -/
def State.setMv (s : State) (d : Dir) (i : Fin 4) (v : Mv) : State :=
  s.updMb (fun m =>
    match d with
    | .fwd => { m with mvFwd := m.mvFwd.set i v }
    | .bwd => { m with mvBwd := m.mvBwd.set i v })

/-- MB.mv_type <- t. -/
def State.setMvType (s : State) (t : MvType) : State := s.updMb (fun m => { m with mvType := t })

/-- MB.mv_dir |= d. -/
def State.addDir (s : State) (d : BitVec 2) : State := s.updMb (fun m => { m with mvDir := m.mvDir ||| d })

/-- MB.mv_dir <- d. -/
def State.setMvDir (s : State) (d : BitVec 2) : State := s.updMb (fun m => { m with mvDir := d })

/-- The forward range code. -/
def State.fc (s : State) : Nat := s.pic.fCode.toNat
/-- The backward range code. -/
def State.bc (s : State) : Nat := s.pic.bCode.toNat

/-- One vector for the macroblock, by PredMV(0) (R256). -/
def motion16 : Parse Unit := do
  update (fun s => s.setMvType .mv16x16)
  let s ← getState
  let v ← mvdPair (s.predMv 0) s.fc
  update (fun s => s.setMv .fwd 0 v.toMv)

/-- One field vector (R259). -/
def motionField1 (p : IVec) (i : Fin 4) : Parse Unit := do
  let s ← getState
  let v ← mvdPair ⟨p.x, Int.tdiv p.y 2⟩ s.fc
  update (fun s => s.setMv .fwd i v.toMv)

/-- Field motion (R259). -/
def motionField (e : Raise) : Parse Unit := do
  update (fun s => s.setMvType .mvField)
  let f0 ← getFlag e
  let f1 ← getFlag e
  putMb (fun m => { m with fieldSelectFwd0 := f0, fieldSelectFwd1 := f1 })
  let s ← getState
  motionField1 (s.predMv 0) 0
  motionField1 (s.predMv 0) 1

/-- One of four vectors, stored at once (R260). -/
def motion8 (n : Fin 4) : Parse Unit := do
  let s ← getState
  let v ← mvdPair (s.predMv n) s.fc
  update (fun s => (s.setMv .fwd n v.toMv).writeMv n v.toMv)

/-- Four vectors (R260). -/
def motionFour : Parse Unit := do
  update (fun s => s.setMvType .mv8x8)
  forEach motion8 fourBlocks

/-- One vector, or two field vectors of an interlaced sequence (R256). -/
def motionOne (e : Raise) : Parse Unit := do
  let s ← getState
  if s.seq.interlaced then do
    let field ← getFlag e
    if field then motionField e else motion16
  else motion16

/-- The global vector of an mcsel macroblock (R252, R256). -/
def State.globalMotion (s : State) : State := (s.setMvType .mv16x16).setMv .fwd 0 s.amvVec

/-- The motion of a true inter macroblock (R256). -/
def interMotion (e : Raise) (four : Bool) : Parse Unit := do
  update (fun s => s.setMvDir dirForward)
  let s ← getState
  if four then motionFour
  else if s.mb.mcsel then update State.globalMotion
  else motionOne e

/-! ## MB_P (R250 to R254, R261) -/

/-- The inter block loop (R261). -/
def interBlocks : Parse Unit :=
  forEach (fun n => do
    let s ← getState
    if s.codedBit n then blockInterP n else update (fun s => s.setLastIndex n (-1))) sixBlocks

/-- The skip flag and INTER_MCBPC with its stuffing (R251): `none` for a skipped macroblock. -/
def interMcbpc (e : Raise) : (fuel : Nat) → Parse (Option Nat)
  | 0 => raise e
  | fuel + 1 => do
    let skip ← getFlag e
    if skip then pure none
    else do
      let c ← vlcNumber e (invalid e.tag) .interMcbpc
      if c = 20 then interMcbpc e fuel else pure (some c)

/-- A skipped macroblock (R252). -/
def State.skippedMb (s : State) : State :=
  let t := s.updMb (fun m =>
    { m with intra := false, lastIndex := Six.all (-1), cbp := 0, mvDir := dirForward, mvType := .mv16x16 })
  if s.isGmc then (t.setMv .fwd 0 s.amvVec).updMb (fun m => { m with mcsel := true, skipped := false })
  else (t.setMv .fwd 0 (Vec.zero 16)).updMb (fun m => { m with mcsel := false, skipped := true })

/-- The motion-compensation selector (R253). -/
def mcselFlag (e : Raise) (four : Bool) : Parse Unit := do
  let s ← getState
  if s.isGmc && !four then do
    let b ← getFlag e
    putMb (fun m => { m with mcsel := b })
  else putMb (fun m => { m with mcsel := false })

/-- A true inter macroblock (R253 to R256, R261). -/
def interBody (e : Raise) (hasDquant four : Bool) : Parse Unit := do
  mcselFlag e four
  let y ← vlcNumber e (invalid .mbCbpy) .cbpy
  update (fun s => s.setCbp (15 - y))
  whenP hasDquant (dquantP e)
  let s ← getState
  fieldDct e (s.seq.interlaced && (s.mb.cbp != 0 || s.quirk .xvidIlace))
  interMotion e four
  interBlocks

/-- A coded macroblock of a P or S picture, by its mode class (R251, R264). -/
def codedMb (e : Raise) (c : Nat) : Parse Unit := do
  putMb (fun m => { m with cbpc := toU 2 (c % 4 : Nat), intra := c / 4 % 2 == 1 })
  if c / 4 % 2 == 1 then intraBody e (c / 8 % 2 == 1) else interBody e (c / 8 % 2 == 1) (c / 16 % 2 == 1)

/-- MB_P (R250). -/
def mbPP : Parse Unit := do
  update State.startMb
  let s ← getState
  let r ← interMcbpc (exhausted .mbPMcbpc) s.turns
  match r with
  | none => update (fun s => s.skippedMb.endMb)
  | some c => do
    codedMb (exhausted .mbPMcbpc) c
    update State.endMb

/-! ## MB_B (R270 to R277) -/

/-- The raise of an exhausted read in MB_B. -/
def mbBEnd : Raise := exhausted .mbBType

/-- The co-located skip (R272). -/
def State.colocSkip (s : State) : State :=
  ((s.updMb (fun m =>
    { m with
      skipped := true, cbp := 0, lastIndex := Six.all (-1), mvDir := dirForward, mvType := .mv16x16 })).setMv
    .fwd 0 (Vec.zero 16)).setMv .bwd 0 (Vec.zero 16)

/-- What MB_TYPE_B and what follows it decode (R273). -/
structure BMode where
  type : BType
  directSkip : Bool
  field : Bool
deriving DecidableEq, Repr

/-- Whether a type uses the forward list (R275). -/
def typeUsesFwd : BType → Bool
  | .forward => true
  | .interpolate => true
  | .backward => false
  | .direct => false

/-- Whether a type uses the backward list (R275). -/
def typeUsesBwd : BType → Bool
  | .backward => true
  | .interpolate => true
  | .forward => false
  | .direct => false

/-- The forward field selectors (R273). -/
def fieldSelectFwd : Parse Unit := do
  let a ← getFlag mbBEnd
  let b ← getFlag mbBEnd
  putMb (fun m => { m with fieldSelectFwd0 := a, fieldSelectFwd1 := b })

/-- The backward field selectors (R273). -/
def fieldSelectBwd : Parse Unit := do
  let a ← getFlag mbBEnd
  let b ← getFlag mbBEnd
  putMb (fun m => { m with fieldSelectBwd0 := a, fieldSelectBwd1 := b })

/-- The field flag of an explicit macroblock and its selectors (R273). -/
def bFieldFlag (t : BType) : Parse Bool := do
  if t = .direct then pure false
  else do
    let f ← getFlag mbBEnd
    whenP (f && typeUsesFwd t) fieldSelectFwd
    whenP (f && typeUsesBwd t) fieldSelectBwd
    pure f

/-- The interlaced part of the mode (R273). -/
def bInterlaced (t : BType) : Parse Bool := do
  let s ← getState
  if s.seq.interlaced then do
    fieldDct mbBEnd (s.mb.cbp != 0)
    bFieldFlag t
  else pure false

/-- The 6-bit pattern of a B macroblock, absent when modb's second bit is 1 (R273). -/
def bPattern (modb2 : Bool) : Parse Unit := do
  if modb2 then putMb (fun m => { m with cbp := 0 })
  else do
    let c ← getBits mbBEnd 6
    putMb (fun m => { m with cbp := toU 6 c })

/-- MB_TYPE_B (R273). -/
def bTypeP : Parse BType := do
  let r ← vlc mbBEnd .mbTypeB
  match btypeOf r with
  | some t => pure t
  | none => raise (invalid .mbBType)

/-- The mode of a B macroblock after modb's first bit is 0 (R273). -/
def bExplicitMode : Parse BMode := do
  let modb2 ← getFlag mbBEnd
  let t ← bTypeP
  bPattern modb2
  let s ← getState
  whenP (t != .direct && s.mb.cbp != 0) (dquantBP mbBEnd)
  let f ← bInterlaced t
  pure ⟨t, false, f⟩

/-- The mode of a B macroblock (R273). -/
def bMode : Parse BMode := do
  let first ← getFlag mbBEnd
  if first then do
    putMb (fun m => { m with cbp := 0 })
    pure ⟨.direct, true, false⟩
  else bExplicitMode

/-- SLICE.last_mv[d]. -/
def State.lastMv (s : State) : Dir → LastMv
  | .fwd => s.slice.lastMvFwd
  | .bwd => s.slice.lastMvBwd

/-- SLICE.last_mv[d] <- v. -/
def State.setLastMv (s : State) (d : Dir) (v : LastMv) : State :=
  s.updSlice (fun l =>
    match d with
    | .fwd => { l with lastMvFwd := v }
    | .bwd => { l with lastMvBwd := v })

/-- The range code of a direction (R275). -/
def State.rangeOf (s : State) : Dir → Nat
  | .fwd => s.fc
  | .bwd => s.bc

/-- The MB.mv_dir bit of a direction. -/
def dirBit : Dir → BitVec 2
  | .fwd => dirForward
  | .bwd => dirBackward

/-- The explicit vector of a direction (R275). -/
def bVector (d : Dir) : Parse Unit := do
  update (fun s => s.addDir (dirBit d))
  let s ← getState
  let v ← mvdPair (mvValue (s.lastMv d).field0) (s.rangeOf d)
  update (fun s => (s.setMv d 0 v.toMv).setLastMv d ⟨v.toMv, v.toMv⟩)

/-- SLICE.last_mv[d][i]. -/
def LastMv.get (l : LastMv) (second : Bool) : Mv := if second then l.field1 else l.field0

/-- SLICE.last_mv[d][i] <- v. -/
def LastMv.set (l : LastMv) (second : Bool) (v : Mv) : LastMv :=
  if second then { l with field1 := v } else { l with field0 := v }

/-- The vector of one field of a direction (R276). -/
def bFieldVector (d : Dir) (second : Bool) : Parse Unit := do
  let s ← getState
  let p := mvValue ((s.lastMv d).get second)
  let v ← mvdPair ⟨p.x, Int.tdiv p.y 2⟩ (s.rangeOf d)
  update (fun s =>
    (s.setMv d (if second then 1 else 0) v.toMv).setLastMv d
      ((s.lastMv d).set second (IVec.toMv ⟨v.x, 2 * v.y⟩)))

/-- The two field vectors of a direction (R276). -/
def bFieldVectors (d : Dir) : Parse Unit := do
  update (fun s => s.addDir (dirBit d))
  bFieldVector d false
  bFieldVector d true

/-- The vectors of an explicit macroblock (R275, R276). -/
def bExplicit (m : BMode) : Parse Unit := do
  update (fun s => s.setMvType (if m.field then .mvField else .mv16x16))
  whenP (typeUsesFwd m.type) (if m.field then bFieldVectors .fwd else bVector .fwd)
  whenP (typeUsesBwd m.type) (if m.field then bFieldVectors .bwd else bVector .bwd)

/-- The forward component of a direct vector (R277). -/
def directFwd (p tpp tpb dc : Int) : Int := divT (p * tpb) tpp + dc

/-- The backward component of a direct vector (R277). -/
def directBwd (p tpp tpb dc : Int) : Int :=
  if dc ≠ 0 then directFwd p tpp tpb dc - p else divT (p * (tpb - tpp)) tpp

/-- Both vectors of a direct partition from the co-located vector `p` (R277). -/
def State.setDirect (s : State) (i : Fin 4) (p delta : IVec) (tpp tpb : Int) : State :=
  (s.setMv .fwd i (IVec.toMv ⟨directFwd p.x tpp tpb delta.x, directFwd p.y tpp tpb delta.y⟩)).setMv .bwd i
    (IVec.toMv ⟨directBwd p.x tpp tpb delta.x, directBwd p.y tpp tpb delta.y⟩)

/-- one(i) (R277). -/
def State.directOne (s : State) (delta : IVec) (i : Fin 4) : State :=
  s.setDirect i (mvValue (s.colocMv i)) delta s.pic.ppTime.toInt s.pic.pbTime.toInt

/-- A field time shifted by the co-located selector (R276). -/
def State.fieldTime (s : State) (t : BitVec 32) (sel second : Bool) : Int :=
  let k : Int := (if second then 1 else 0) - (if sel then 1 else 0)
  if s.pic.topFieldFirst then t.toInt + k else t.toInt - k

/-- The co-located vector of a field, in field units (R276, R262; log 23). -/
def State.colocField (s : State) (second : Bool) : IVec :=
  let v := mvValue (s.colocMv (if second then 2 else 0))
  ⟨v.x, Int.tdiv v.y 2⟩

/-- One field of field direct mode (R276). -/
def State.directField (s : State) (delta : IVec) (second : Bool) : State :=
  let c := s.colocType s.mbi
  let sel := if second then c.fieldSelectFwd1 else c.fieldSelectFwd0
  s.setDirect (if second then 1 else 0) (s.colocField second) delta
    (s.fieldTime s.pic.ppFieldTime sel second) (s.fieldTime s.pic.pbFieldTime sel second)

/-- All four vectors of each direction equal to the first (R277). -/
def State.spreadMv (s : State) : State :=
  s.updMb (fun m => { m with mvFwd := Quad.all m.mvFwd.v0, mvBwd := Quad.all m.mvBwd.v0 })

/-- The vectors of a direct macroblock (R277). MB.mv_type of a field-direct macroblock is MVFIELD: its vectors are
per field, as an explicit field macroblock's (R276), although R276 and R277 do not set it there: DEDUCED, log 47. -/
def State.direct (s : State) (delta : IVec) : State :=
  let t := s.setMvDir (dirForward ||| dirBackward)
  match (s.colocType s.mbi).mvType with
  | .mv8x8 => fourBlocks.foldl (fun u i => u.directOne delta i) (t.setMvType .mv8x8)
  | .mvField => ((t.setMvType .mvField).directField delta false).directField delta true
  | .mv16x16 => ((t.directOne delta 0).spreadMv).setMvType .mv16x16

/-- A direct macroblock (R277). -/
def bDirect (skip : Bool) : Parse Unit := do
  if skip then update (fun s => s.direct ⟨0, 0⟩)
  else do
    let d ← mvdPair ⟨0, 0⟩ 1
    update (fun s => s.direct d)

/-- The motion of a B macroblock (R275 to R277). -/
def bMotion (m : BMode) : Parse Unit := if m.type = .direct then bDirect m.directSkip else bExplicit m

/-- A B macroblock whose co-located macroblock is not skipped (R273 to R277, R261). -/
def bCoded : Parse Unit := do
  let m ← bMode
  putMb (fun b => { b with direct := m.type == .direct })
  bMotion m
  interBlocks

/-- The body of MB_B (R272, R273). -/
def bBody : Parse Unit := do
  let s ← getState
  if (s.colocType s.mbi).skipped then update State.colocSkip else bCoded

/-- The row start: the predictors of a row begin at zero (R271). -/
def State.rowStart (s : State) : State :=
  if s.slice.mbX = 0 then s.updSlice (fun l => { l with lastMvFwd := LastMv.zero, lastMvBwd := LastMv.zero }) else s

/-- The start of a row waits for that row of COLOC (R271, 90_conflicts.md C11). Inside a row nothing waits (log 57). -/
def State.rowMissing (s : State) : Bool :=
  s.slice.mbX == 0 && decide (s.coloc.rowprog < s.slice.mbY.toNat + 1)

/-- MB_B where it does not wait (R270). -/
def mbBRow : Parse Unit := do
  update State.startMb
  bBody
  update State.endMb

/-- MB_B (R270, R271): at the start of a row it waits for that row of COLOC, MB as it was (log 33). -/
def mbBP : Parse Unit := do
  update State.rowStart
  let s ← getState
  if s.rowMissing then update (fun s => s.setFsm .waitRow) else mbBRow

/-! ## MB_STUDIO (R282) -/

/-- MB_STUDIO (R282): refused by the hardware before any bit is read. -/
def mbStudioP : Parse Unit := do
  update State.startMb
  logBit .studio
  raise ⟨.refusedStudio, .mbStudio⟩

/-! ## The meanings -/

/-- MB_I. -/
def execMbI (s : State) : Host.Outcome State Fault Refusal := inStores s (runAt .macroblock mbIP s)
/-- MB_P. -/
def execMbP (s : State) : Host.Outcome State Fault Refusal := inStores s (runAt .macroblock mbPP s)
/-- MB_B. -/
def execMbB (s : State) : Host.Outcome State Fault Refusal := inStores s (runAt .macroblock mbBP s)
/-- MB_STUDIO. -/
def execMbStudio (s : State) : Host.Outcome State Fault Refusal := completes (runAt .macroblock mbStudioP s)
/-- MVD(pred, fc) run by itself: the component goes to its caller. -/
def execMvd (pred : Int) (fc : Nat) (s : State) : Host.Outcome State Fault Refusal :=
  completes (runFor .macroblock (do
    let v ← mvdP pred fc
    pure [v]) s)
/-- The tag of an exhausted read of DQUANT run by itself: that of the macroblock operation of the picture (log 15). -/
def State.mbTag (s : State) : Tag :=
  match s.pic.pictType with
  | .i => .mbIMcbpc
  | .p => .mbPMcbpc
  | .s => .mbPMcbpc
  | .b => .mbBType
/-- DQUANT run by itself. -/
def execDquant (s : State) : Host.Outcome State Fault Refusal :=
  completes (runAt .macroblock (dquantP (exhausted s.mbTag)) s)

end Sys2Proof.Machine
end

