-- ==== Sys2Proof/Machine/Rows.lean ====
section
/-! DEFINITION. How a header's grammar is run: its rows one after the other, over the fields read so far
(00_scope.md R7, D6; log 10). -/

namespace Sys2Proof.Machine

/-- What is known of a header so far. -/
structure Env (φ : Type) where
  /-- the fields read, the last one first -/
  fields : List (φ × Nat)
  /-- the position to rewind to: the last mark, or where the rows begin -/
  start : Nat

/-- Nothing is read yet of a header whose rows begin at bit `p`. -/
def Env.at {φ : Type} (p : Nat) : Env φ := ⟨[], p⟩

/-- The last value read into `f`; none where it was not read. -/
def Env.find {φ : Type} [DecidableEq φ] (env : Env φ) (f : φ) : Option Nat :=
  (env.fields.find? (fun a => a.1 == f)).map (·.2)

/-- The last value read into `f`, 0 where it was not read. -/
def Env.get {φ : Type} [DecidableEq φ] (env : Env φ) (f : φ) : Nat := (env.find f).getD 0

/-- A flag as a number. -/
def bitOf (b : Bool) : Nat := if b then 1 else 0

/-- The one-bit register that takes the number `v`: a number beyond 0 and 1 does not fit it, and is a free value
(log 3). -/
def flagOf (v : Int) : Bool := toU 1 v == 1

/-- The value of a register a grammar asks for. -/
def State.headerReg (s : State) : HeaderReg → Nat
  | .shape => s.seq.shape.toNat
  | .voVerId => s.seq.voVerId.toNat
  | .volControl => bitOf s.seq.volControl
  | .spriteUsage => s.seq.spriteUsage.toNat
  | .newPred => bitOf s.seq.newPred
  | .interlaced => bitOf s.seq.interlaced
  | .scalability => bitOf s.seq.scalability
  | .enhancementType => bitOf s.seq.enhancementType
  | .lowDelay => bitOf s.seq.lowDelay
  | .pictType => (pictTypeCode s.pic.pictType).toNat
  | .is3iv1 => bitOf (s.quirk .is3iv1)
  | .scalRewind => bitOf s.cfg.scalRewind

/-- Whether a condition of a grammar holds. -/
def condHolds {φ : Type} [DecidableEq φ] (s : State) (env : Env φ) : Cond φ → Bool
  | .read f v => env.find f == some v
  | .reg r v => s.headerReg r == v
  | .not c => !condHolds s env c
  | .and c d => condHolds s env c && condHolds s env d
  | .or c d => condHolds s env c || condHolds s env d

/-- Whether every condition of a row holds. -/
def rowRuns {φ ε : Type} [DecidableEq φ] (s : State) (env : Env φ) (r : Row φ ε) : Bool :=
  r.guard.all (condHolds s env)

/-- SEQ.trash_i, trash_p or trash_b. -/
def State.trashOf (s : State) : Trash → BitVec 8
  | .i => s.seq.trashI
  | .p => s.seq.trashP
  | .b => s.seq.trashB

/-- How many bits a width stands for. -/
def State.widthOf (s : State) : Width → Nat
  | .bits n => n
  | .timeIncrement => s.seq.timeIncrementBits.toNat
  | .newpred plus cap => min (s.seq.timeIncrementBits.toNat + plus) cap
  | .quantPrecision => s.seq.quantPrecision.toNat
  | .trash t => (s.trashOf t).toNat

/-- What the fields and the acts of a header mean, and the raise of a read that is cut short. -/
structure Reader (φ ε : Type) where
  /-- the raise of an exhausted read, with its tag -/
  ends : Tag → Raise
  /-- the tag of the header -/
  family : Tag
  /-- a field and its value are taken -/
  take : φ → Nat → Parse Unit
  /-- an act, over the fields read so far -/
  act : ε → Env φ → Parse Unit

/-- One item run: the fields read after it, or none where the rest is left out. -/
def runItem {φ ε : Type} (g : Reader φ ε) (env : Env φ) : Item φ ε → Parse (Option (Env φ))
  | .field f w => do
    let s ← getState
    let v ← getBits (g.ends g.family) (s.widthOf w)
    g.take f v
    pure (some { env with fields := (f, v) :: env.fields })
  | .put f v => do
    g.take f v
    pure (some env)
  | .skip w => do
    let s ← getState
    skipBits (g.ends g.family) (s.widthOf w)
    pure (some env)
  | .mark => do
    let s ← getState
    pure (some { env with start := s.pos })
  | .marker t => do
    marker (g.ends t)
    pure (some env)
  | .log f => do
    logBit f
    pure (some env)
  | .need n => do
    let s ← getState
    if s.left < n then raise (g.ends g.family) else pure (some env)
  | .act e => do
    g.act e env
    pure (some env)
  | .leave => pure none

/-- The rows of a header over the fields read so far, in order: a row runs where its guard holds. -/
def runRows {φ ε : Type} [DecidableEq φ] (g : Reader φ ε) : List (Row φ ε) → Env φ → Parse Unit
  | [], _ => pure ()
  | r :: rows, env => do
    let s ← getState
    if rowRuns s env r then do
      let next ← runItem g env r.item
      match next with
      | some env' => runRows g rows env'
      | none => pure ()
    else runRows g rows env

/-- The rows of a header that begins at the cursor. -/
def runLayout {φ ε : Type} [DecidableEq φ] (g : Reader φ ε) (l : List (Row φ ε)) : Parse Unit := do
  let s ← getState
  runRows g l (.at s.pos)

end Sys2Proof.Machine
end

