-- ==== Sys2Proof/Machine/Header.lean ====
section
/-! DEFINITION. The header parser: VOS, VO, VOL, the studio VOL, matrices, complexity estimation, extension, GOP,
user data (40_header_vol.md). Which fields a header carries, in which order and how wide, is CFG.GRAMMAR's to say
(Machine/Grammar.lean holds the defaults; log 10); here stands what each field means. -/

namespace Sys2Proof.Machine

/-- SEQ rewritten by `f`. -/
def putSeq (f : Seq → Seq) : Parse Unit := update (fun s => s.updSeq f)

/-! ## VOS (R143) -/

/-- Level 8 of profile 0 is level 0, and the studio profile is detected (R143). -/
def State.detectStudio (s : State) : State :=
  let lv := if s.seq.profile = 0 ∧ s.seq.level = 8 then 0 else s.seq.level
  s.updSeq (fun q =>
    { q with
      level := lv
      studioProfile := decide (s.seq.profile = s.cfg.studioProfileCode ∧ 1 ≤ lv.toNat ∧ lv.toNat ≤ 8) })

/-! ## Matrices (R159 to R161) -/

/-- The two tables of a kind with `v` at scan position `i`. -/
def State.putMatrix (s : State) (k : MatKind) (i : Nat) (v : Byte) : State :=
  let put := putScan s.cfg.idctPerm s.cfg.zigzag i v
  match k with
  | .intra => s.updSeq (fun q =>
      { q with intraMatrix := put q.intraMatrix, chromaIntraMatrix := put q.chromaIntraMatrix })
  | .inter => s.updSeq (fun q =>
      { q with interMatrix := put q.interMatrix, chromaInterMatrix := put q.chromaInterMatrix })

/-- The two tables of a kind with `v` at the `n` scan positions from `i` up. -/
def State.fillMatrix (s : State) (k : MatKind) (v : Byte) (i n : Nat) : State :=
  let fill := fillScan s.cfg.idctPerm s.cfg.zigzag v i n
  match k with
  | .intra => s.updSeq (fun q =>
      { q with intraMatrix := fill q.intraMatrix, chromaIntraMatrix := fill q.chromaIntraMatrix })
  | .inter => s.updSeq (fun q =>
      { q with interMatrix := fill q.interMatrix, chromaInterMatrix := fill q.chromaInterMatrix })

/-- The entries of LOAD_QMATRIX from scan position `i` up, `n` of them left, `last` the last nonzero value (R160). -/
def matrixEntries (k : MatKind) : (n i : Nat) → (last : Byte) → Parse Unit
  | 0, _, _ => pure ()
  | n + 1, i, last => do
    let s ← getState
    if s.left < 8 then raise (truncated .volQmatrix)
    else do
      let v ← getBits (truncated .volQmatrix) 8
      if v = 0 then update (fun s => s.fillMatrix k last i (n + 1))
      else do
        update (fun s => s.putMatrix k i (BitVec.ofNat 8 v))
        matrixEntries k n (i + 1) (BitVec.ofNat 8 v)

/-- LOAD_QMATRIX(kind) (R160). -/
def loadQmatrixP (k : MatKind) : Parse Unit := matrixEntries k 64 0 0

/-- The four default matrices, placed (R159, R161). -/
def State.defaultMatrices (s : State) : State :=
  s.updSeq (fun q =>
    { q with
      intraMatrix := placedMatrix s.cfg s.cfg.defaultIntra
      chromaIntraMatrix := placedMatrix s.cfg s.cfg.defaultIntra
      interMatrix := placedMatrix s.cfg s.cfg.defaultInter
      chromaInterMatrix := placedMatrix s.cfg s.cfg.defaultInter })

/-! ## Complexity estimation (R163, R164) -/

/-- SEQ.trash += n. -/
def State.addTrash (s : State) (t : Trash) (n : Nat) : State :=
  s.updSeq (fun q =>
    match t with
    | .i => { q with trashI := toU 8 (q.trashI.toNat + n) }
    | .p => { q with trashP := toU 8 (q.trashP.toNat + n) }
    | .b => { q with trashB := toU 8 (q.trashB.toNat + n) })

/-- SEQ.trash_i, trash_p, trash_b <- 0. -/
def State.clearTrash (s : State) : State := s.updSeq (fun q => { q with trashI := 0, trashP := 0, trashB := 0 })

/-- The rewind to `pos` (R164). -/
def State.cplxRewind (s : State) (pos : Nat) : State := ((s.setPos pos).clearTrash).log .cplxRewind

/-- A field of CPLX_EST: the subfields add to the counters (R163). -/
def takeCplx : CplxField → Nat → Parse Unit
  | .counter t weight, v => update (fun s => s.addTrash t (weight * v))
  | .disable, _ => pure ()
  | .method, _ => pure ()
  | .shapeOff, _ => pure ()
  | .texture1Off, _ => pure ()
  | .present1, _ => pure ()
  | .texture2Off, _ => pure ()
  | .motionOff, _ => pure ()
  | .present2, _ => pure ()

/-- What CPLX_EST does beside taking fields: the rewind to the position it remembered (R164). -/
def actCplx : CplxAct → Env CplxField → Parse Unit
  | .rewind, env => update (fun s => s.cplxRewind env.start)

/-- CPLX_EST's fields and acts. -/
def cplxReader : Reader CplxField CplxAct where
  ends := truncated
  family := .vol
  take := takeCplx
  act := actCplx

/-- CPLX_EST, VOL step 12 (R163). -/
def cplxEstP : Parse Unit := do
  update State.clearTrash
  let s ← getState
  runLayout cplxReader s.cfg.layout.cplx

/-! ## The fields of VOS, VO, VOL, VOL_STUDIO and GOP -/

/-- The size update of R151: nothing for a zero width or height; SEQ.context_reinit when a known size changes. -/
def State.setSize (s : State) (w h : Nat) : State :=
  if w = 0 ∨ h = 0 then s
  else s.updSeq (fun q =>
    { q with
      contextReinit :=
        q.contextReinit || decide (q.width ≠ 0 ∧ q.height ≠ 0 ∧ (q.width.toNat ≠ w ∨ q.height.toNat ≠ h))
      width := toU 14 w
      height := toU 14 h })

/-- The scalability rewind to `save` (R171). -/
def State.scalRewind (s : State) (save : Nat) : State :=
  (s.updSeq (fun q => { q with scalability := false, enhancementType := false })).setPos save

/-- The time base: SEQ.time_increment_resolution, its check, and the width it gives (R150). -/
def takeResolution (v : Nat) : Parse Unit := do
  putSeq (fun q => { q with timeIncrementResolution := toU 16 v })
  let s ← getState
  let res := s.seq.timeIncrementResolution.toNat
  if res = 0 then raise ⟨.fatalRange, .volFramerate⟩
  else putSeq (fun q => { q with timeIncrementBits := toU 5 (max 1 (bitLength (res - 1)) : Nat) })

/-- The number of warping points and its check (R156, R157). -/
def takeWarpPoints (n : Nat) : Parse Unit :=
  if 3 < n then do
    putSeq (fun q => { q with numSpriteWarpingPoints := 0 })
    raise ⟨.fatalRange, .volWarpPoints⟩
  else putSeq (fun q => { q with numSpriteWarpingPoints := toU 3 n })

/-- SEQ.quant_precision, 3 to 9: another number is taken as 5 (R158). -/
def putPrecision (qp : Nat) : Parse Unit :=
  putSeq (fun q => { q with quantPrecision := toU 4 (if qp < 3 ∨ 9 < qp then 5 else qp : Nat) })

/-- What field `f` of value `v` writes (R143 to R170); a field that only decides others writes nothing. -/
def takeSeq : SeqField → Nat → Parse Unit
  | .profile, v => putSeq (fun q => { q with profile := toU 4 v })
  | .level, v => putSeq (fun q => { q with level := toU 4 v })
  | .objectIdent, _ => pure ()
  | .voVerIdVo, v => putSeq (fun q => { q with voVerIdVo := toU 4 v })
  | .objectType, _ => pure ()
  | .signalType, _ => pure ()
  | .colour, _ => pure ()
  | .layerIdent, _ => pure ()
  | .voVerId, v => putSeq (fun q => { q with voVerId := toU 4 v })
  | .aspect, _ => pure ()
  | .volControl, v => putSeq (fun q => { q with volControl := flagOf v })
  | .chromaFormat, v => putSeq (fun q => { q with chromaFormat := toU 2 v })
  | .lowDelay, v => putSeq (fun q => { q with lowDelay := flagOf v })
  | .vbv, _ => pure ()
  | .shape, v => putSeq (fun q => { q with shape := toU 2 v })
  | .timeResolution, v => takeResolution v
  | .fixedRate, _ => pure ()
  | .fixedIncrement, v => putSeq (fun q => { q with fixedVopTimeIncrement := toU 16 v })
  | .width, _ => pure ()
  | .height, _ => pure ()
  | .interlaced, v => putSeq (fun q => { q with interlaced := flagOf v })
  | .spriteUsage, v => putSeq (fun q => { q with spriteUsage := toU 2 v })
  | .warpPoints, v => takeWarpPoints v
  | .warpAccuracy, v => putSeq (fun q => { q with spriteWarpingAccuracy := toU 2 v })
  | .brightness, v => putSeq (fun q => { q with spriteBrightnessChange := flagOf v })
  | .notEightBit, _ => pure ()
  | .precisionRead, _ => pure ()
  | .bitsPerPixel, _ => pure ()
  | .quantPrecision, v => putPrecision v
  | .bitDepth, v => putSeq (fun q => { q with bitDepth := toU 4 v })
  | .mpegQuant, v => putSeq (fun q => { q with mpegQuant := flagOf v })
  | .loadIntra, _ => pure ()
  | .loadInter, _ => pure ()
  | .quarterSample, v => putSeq (fun q => { q with quarterSample := flagOf v })
  | .resyncDisable, v => putSeq (fun q => { q with resyncMarker := flagOf (1 - v) })
  | .dataPartitioning, v => putSeq (fun q => { q with dataPartitioning := flagOf v })
  | .rvlc, v => putSeq (fun q => { q with rvlc := flagOf v })
  | .newPred, v => putSeq (fun q => { q with newPred := flagOf v })
  | .reducedRes, v => putSeq (fun q => { q with reducedResVop := flagOf v })
  | .scalability, v => putSeq (fun q => { q with scalability := flagOf v })
  | .hn, _ => pure ()
  | .hm, _ => pure ()
  | .vn, _ => pure ()
  | .vm, _ => pure ()
  | .enhancementType, v => putSeq (fun q => { q with enhancementType := flagOf v })
  | .progressive, v => putSeq (fun q => { q with interlaced := flagOf (1 - v) })
  | .rgb, _ => pure ()

/-- What an act of these headers does, over the fields read so far. TIME.t_frame is cleared as R150 and 10_state.md R38
say, although 70_reset_and_hazards.md R403 says that VOL does not touch TIME (log 51). -/
def actSeq : SeqAct → Env SeqField → Parse Unit
  | .detectStudio, _ => update State.detectStudio
  | .clearFieldPeriod, _ => update (fun s => s.updTime (fun t => { t with tFrame := 0 }))
  | .setSize, env => update (fun s => s.setSize (env.get .width) (env.get .height))
  | .clipPrecision, env => putPrecision (env.get .precisionRead)
  | .defaultMatrices, _ => update State.defaultMatrices
  | .loadMatrix k, _ => loadQmatrixP k
  | .scalRewind, env => update (fun s => s.scalRewind env.start)
  | .refuseShape, _ => raise (invalid .volStudioShape)
  | .refuseChroma, _ => raise (invalid .volStudioChroma)

/-- The fields and the acts of a header with the tag `t`. -/
def seqReader (t : Tag) : Reader SeqField SeqAct where
  ends := truncated
  family := t
  take := takeSeq
  act := actSeq

/-! ## The headers -/

/-- VOS (R143). -/
def vosP : Parse Unit := do
  let s ← getState
  runLayout (seqReader .vos) s.cfg.layout.vos
  finishOk .scan

/-- VO (R144). -/
def voP : Parse Unit := do
  let s ← getState
  runLayout (seqReader .vo) s.cfg.layout.vo
  finishOk .scan

/-- A part of VOL: CPLX_EST is one of steps 5 to 12, which a BIN_ONLY shape skips (R151). -/
def volPart : VolPart → Parse Unit
  | .rows l => runLayout (seqReader .vol) l
  | .complexity => do
    let s ← getState
    whenP (s.seq.shape != shapeBinOnly) cplxEstP

/-- VOL (R146): SEQ.valid is 0 from its start and 1 from its end (R168). -/
def volP : Parse Unit := do
  putSeq (fun q => { q with valid := false })
  let s ← getState
  forEach volPart s.cfg.layout.vol
  putSeq (fun q => { q with valid := true })
  finishOk .scan

/-- VOL_STUDIO (R170): it clears SEQ.valid at its start as VOL does (log 35). -/
def volStudioP : Parse Unit := do
  putSeq (fun q => { q with valid := false })
  let s ← getState
  runLayout (seqReader .vol) s.cfg.layout.volStudio
  putSeq (fun q => { q with valid := true })
  finishOk .scan

/-- GOP (R173). -/
def gopP : Parse Unit := do
  let s ← getState
  runLayout (seqReader .gop) s.cfg.layout.gop
  finishOk .scan

/-! ## The extension (R172) -/

/-- One of the four SEQ matrices (R172). -/
inductive MatId where
  | intra | inter | chromaIntra | chromaInter
deriving DecidableEq, Repr

/-- The matrix `m` with `v` at scan position `i` (R172). -/
def State.putMatrixId (s : State) (m : MatId) (i : Nat) (v : Byte) : State :=
  let put := putScan s.cfg.idctPerm s.cfg.zigzag i v
  s.updSeq (fun q =>
    match m with
    | .intra => { q with intraMatrix := put q.intraMatrix }
    | .inter => { q with interMatrix := put q.interMatrix }
    | .chromaIntra => { q with chromaIntraMatrix := put q.chromaIntraMatrix }
    | .chromaInter => { q with chromaInterMatrix := put q.chromaInterMatrix })

/-- A load flag and, when it is set, 64 entries, with no terminator (R172). -/
def extMatrix (m : MatId) : Parse Unit := do
  let load ← getFlag (truncated .vol)
  whenP load (forEach (fun i => do
    let v ← getBits (truncated .vol) 8
    update (fun s => s.putMatrixId m i (BitVec.ofNat 8 v))) (List.range 64))

/-- The extension unit of a studio stream (R172; log 26). -/
def extStudio : Parse Unit := do
  let ident ← getBits (truncated .vol) 4
  whenP (ident == 3) (forEach extMatrix [.intra, .inter, .chromaIntra, .chromaInter])

/-- EXT (R172): ignored unless the stream is a studio stream. -/
def extP : Parse Unit := do
  let s ← getState
  whenP s.seq.studioProfile extStudio
  finishOk .scan

/-! ## User data (R174) -/

/-- The pattern 00 00 01 stands at byte `p`, inside BS (R174). -/
def State.prefixAt (s : State) (p : Nat) : Bool :=
  decide (p + 3 ≤ s.len.toNat) && s.byteAt p == 0 && s.byteAt (p + 1) == 0 && s.byteAt (p + 2) == 1

/-- How many bytes stand from `p` up before the next 00 00 01 pattern, or before the end, `n` bytes away (R174). -/
def State.textLength (s : State) : (n p : Nat) → Nat
  | 0, _ => 0
  | n + 1, p => if s.prefixAt p then 0 else s.textLength n (p + 1) + 1

/-- The `n` bytes of BS from byte `p` up. -/
def State.bytesFrom (s : State) (p : Nat) : Nat → List Byte
  | 0 => []
  | n + 1 => s.byteAt p :: s.bytesFrom (p + 1) n

/-- SEQ.user_data <- the text and a zero terminator; the bytes beyond are as they were (R174; log 28). -/
def State.putUserData (s : State) (text : List Byte) : State :=
  s.updSeq (fun q =>
    { q with
      userData := Cells.writeList 0 0 (text ++ [0]) q.userData
      userDataLen := toU 9 text.length })

/-- The state after the user-data unit at the cursor (R174). -/
def State.takeUserData (s : State) : State :=
  let p := alignUp s.pos / 8
  let n := s.textLength (s.len.toNat - p) p
  (s.putUserData (s.bytesFrom p (min n 255))).setPos (8 * (p + n))

/-- USERDATA (R174). -/
def userdataP : Parse Unit := do
  update State.takeUserData
  finishOk .scan

/-! ## The meanings -/

/-- VOS. -/
def execVos (s : State) : Host.Outcome State Fault Refusal := completes (runAt .headerRun vosP s)
/-- VO. -/
def execVo (s : State) : Host.Outcome State Fault Refusal := completes (runAt .headerRun voP s)
/-- VOL. -/
def execVol (s : State) : Host.Outcome State Fault Refusal := completes (runAt .headerRun volP s)
/-- VOL_STUDIO. -/
def execVolStudio (s : State) : Host.Outcome State Fault Refusal := completes (runAt .headerRun volStudioP s)
/-- LOAD_QMATRIX(kind) run by itself. -/
def execLoadQmatrix (k : MatKind) (s : State) : Host.Outcome State Fault Refusal :=
  completes (runAt .headerRun (loadQmatrixP k) s)
/-- CPLX_EST run by itself. -/
def execCplxEst (s : State) : Host.Outcome State Fault Refusal := completes (runAt .headerRun cplxEstP s)
/-- EXT. -/
def execExt (s : State) : Host.Outcome State Fault Refusal := completes (runAt .headerRun extP s)
/-- GOP. -/
def execGop (s : State) : Host.Outcome State Fault Refusal := completes (runAt .headerRun gopP s)
/-- USERDATA. -/
def execUserdata (s : State) : Host.Outcome State Fault Refusal := completes (runAt .headerRun userdataP s)

end Sys2Proof.Machine
end

