-- ==== Sys2Proof/Machine/Vop.lean ====
section
/-! DEFINITION. The picture header parser: VOP, TIME_INCR, TI_HEAL (41_header_vop.md). Which fields the header carries,
in which order and how wide, is CFG.GRAMMAR's to say (Machine/Grammar.lean holds the defaults; log 10). -/

namespace Sys2Proof.Machine

/-- PIC rewritten by `f`. -/
def putPic (f : Pic → Pic) : Parse Unit := update (fun s => s.updPic f)

/-- P, or S with GMC (R186, R193). -/
def State.hasRounding (s : State) : Bool := s.pic.pictType == .p || s.isGmc

/-! ## TIME_INCR and TI_HEAL (R184 to R187) -/

/-- The unary part: one more than `PIC.time_incr` for each 1 bit, at most `fuel` bits away from the end (R184). -/
def timeUnary : Nat → Parse Unit
  | 0 => raise (truncated .vop)
  | fuel + 1 => do
    let b ← getFlag (truncated .vop)
    if b then do
      putPic (fun p => { p with timeIncr := toU 16 (p.timeIncr.toNat + 1 : Nat) })
      timeUnary fuel
    else pure ()

/-- What an act of TIME_INCR does. -/
def actTime : TimeAct → Parse Unit
  | .unary => do
    let s ← getState
    timeUnary (s.endPos - s.pos + 1)

/-- The acts of TIME_INCR. -/
def timeReader : Reader Empty TimeAct where
  ends := truncated
  family := .vop
  take := fun f _ => nomatch f
  act := fun a _ => actTime a

/-- TIME_INCR (R184): its rows as CFG.GRAMMAR has them, by default the unary run and its marker (log 10). -/
def timeIncrP : Parse Unit := do
  putPic (fun p => { p with timeIncr := 0 })
  let s ← getState
  runLayout timeReader s.cfg.layout.timeIncr

/-- The pattern that a candidate width `n` must meet (R186). -/
def State.healMatches (s : State) (n : Nat) : Bool :=
  if s.hasRounding then s.peek (n + 6) &&& 0x37 == 0x30 else s.peek (n + 5) &&& 0x1F == 0x18

/-- The first matching width from `n` up, `fuel` candidates left; one past the last when none matches (R186). -/
def State.healWidth (s : State) : (fuel n : Nat) → Nat
  | 0, n => n
  | fuel + 1, n => if s.healMatches n then n else s.healWidth fuel (n + 1)

/-- TI_HEAL (R186): it consumes nothing. -/
def State.tiHeal (s : State) : State :=
  (((s.updSeq (fun q => { q with timeIncrementBits := toU 5 (s.healWidth 15 1) })).updPic
    (fun p => { p with tiHealed := true })).log .tiHealed)

/-- The marker after the time-increment field is absent (R185). -/
def State.markerAbsent (s : State) : Bool :=
  let n := s.seq.timeIncrementBits.toNat
  n == 0 || s.peek (n + 1) % 2 == 0

/-! ## Times (R188 to R190) -/

/-- The time of a non-B picture (R188): `base` and `t` are TIME.time_base and PIC.time before the UMP4 correction. -/
def State.nonBTime (s : State) : State :=
  let base := s.time.timeBase.toInt + s.pic.timeIncr.toNat
  let res : Int := s.seq.timeIncrementResolution.toNat
  let t := base * res + s.pic.timeIncrement.toNat
  let late := s.quirk .ump4 && decide (t < s.time.lastNonBTime.toInt)
  let base' := if late then base + 1 else base
  let t' := if late then t + res else t
  let pp : BitVec 32 := BitVec.ofInt 32 (t' - s.time.lastNonBTime.toInt)
  (s.updTime (fun m =>
    { m with
      lastTimeBase := s.time.timeBase, timeBase := toS 32 base', ppTime := pp, lastNonBTime := toS 64 t' })).updPic
    (fun p => { p with time := toS 64 t', ppTime := pp })

/-- The time of a B picture (R189). -/
def State.bTime (s : State) : State :=
  let t := (s.time.lastTimeBase.toInt + s.pic.timeIncr.toNat) * s.seq.timeIncrementResolution.toNat
    + s.pic.timeIncrement.toNat
  s.updPic (fun p =>
    { p with
      time := toS 64 t
      ppTime := s.time.ppTime
      pbTime := toS 32 (s.time.ppTime.toInt - (s.time.lastNonBTime.toInt - t)) })

/-- The inversion check of R189: its three tests alone decide, also after the first non-B picture, where
70_reset_and_hazards.md R406 expects a skip (log 50). -/
def State.bInverted (s : State) : Bool :=
  let pp := s.pic.ppTime.toInt
  let pb := s.pic.pbTime.toInt
  decide (pp ≤ pb) || decide (pp ≤ pp - pb) || decide (pp ≤ 0)

/-- TIME.t_frame as the B picture leaves it (R190). -/
def State.fieldPeriod (s : State) : BitVec 32 :=
  if s.time.tFrame = 0 then (if s.pic.pbTime = 0 then 1 else s.pic.pbTime) else s.time.tFrame

/-- The field times (R190), before their repair. -/
def State.fieldTimes (s : State) : State :=
  let tf := s.fieldPeriod
  let a := roundedDiv (s.time.lastNonBTime.toInt - s.pic.ppTime.toInt) tf.toInt
  (s.updTime (fun m => { m with tFrame := tf })).updPic (fun p =>
    { p with
      ppFieldTime := toS 32 ((roundedDiv s.time.lastNonBTime.toInt tf.toInt - a) * 2)
      pbFieldTime := toS 32 ((roundedDiv s.pic.time.toInt tf.toInt - a) * 2) })

/-- The test on the field times (R190). -/
def State.fieldsInverted (s : State) : Bool :=
  decide (s.pic.ppFieldTime.toInt ≤ s.pic.pbFieldTime.toInt) || decide (s.pic.pbFieldTime.toInt ≤ 1)

/-- A B picture whose times are in the wrong order is skipped (R189, R190). -/
def skipInverted : Parse Unit := do
  logBit .bTiming
  raise ⟨.frameSkipped, .vopBTiming⟩

/-- The repair of the field times, and the skip of an interlaced picture (R190). -/
def repairFields : Parse Unit := do
  putPic (fun p => { p with pbFieldTime := 2, ppFieldTime := 4 })
  let s ← getState
  whenP s.seq.interlaced skipInverted

/-- The times of a B picture (R189, R190). -/
def bTimes : Parse Unit := do
  update State.bTime
  let s ← getState
  whenP s.bInverted skipInverted
  update State.fieldTimes
  let t ← getState
  whenP t.fieldsInverted repairFields

/-- Step 5, the times of the picture (R188 to R190). -/
def vopTimes : Parse Unit := do
  let s ← getState
  if s.pic.pictType = .b then bTimes else update State.nonBTime

/-! ## The other steps -/

/-- The precondition (R181). -/
def vopPrecondition : Parse Unit := do
  let s ← getState
  if s.seq.valid = false ∨ s.seq.width = 0 ∨ s.seq.height = 0 then raise ⟨.fatalNoVol, .vop⟩ else pure ()

/-- The registers a VOP clears at its start (R180). -/
def State.vopStart (s : State) : State :=
  (s.updStatus (fun t => { t with picValid := false })).updPic
    (fun p => { p with tiHealed := false, gmcOverflow := false })

/-- The picture type, and whether its slices are partitioned (R182): a code that does not fit the register is a free
value (log 3). -/
def takePictType (v : Nat) : Parse Unit :=
  update (fun s =>
    let t := pictTypeOf (toU 2 v)
    s.updPic (fun p => { p with pictType := t, partitionedFrame := s.seq.dataPartitioning && t != .b }))

/-- DCTHR (R195); it has no entry for an index of 8 or more, which gives a free value (log 53). -/
def dcThreshold (i : Nat) : BitVec 7 :=
  ([99, 13, 15, 17, 19, 21, 23, 0] : List (BitVec 7)).getD i (Config.dcThresholdBeyond i)

/-- The quantiser (R197). -/
def takeQuant (q : Nat) : Parse Unit :=
  if q = 0 then raise ⟨.fatalRange, .vopQscale⟩ else update (fun s => s.setQscale (toU 9 q))

/-- The forward range code, 1..7 (R198, 10_state.md R31). -/
def takeFcode (f : Nat) : Parse Unit :=
  if f = 0 ∨ 7 < f then do
    putPic (fun p => { p with fCode := 1 })
    raise ⟨.fatalRange, .vopFcode⟩
  else putPic (fun p => { p with fCode := toU 3 f })

/-- The backward range code, 1..7 (R198, 10_state.md R31). -/
def takeBcode (b : Nat) : Parse Unit :=
  if b = 0 ∨ 7 < b then do
    putPic (fun p => { p with bCode := 1 })
    raise ⟨.fatalRange, .vopBcode⟩
  else putPic (fun p => { p with bCode := toU 3 b })

/-- What field `f` of value `v` writes (R182 to R198). -/
def takeVop : VopField → Nat → Parse Unit
  | .type, v => takePictType v
  | .timeIncrement, v => putPic (fun p => { p with timeIncrement := toU 16 v })
  | .vopCoded, v => putPic (fun p => { p with vopCoded := flagOf v })
  | .roundingType, v => putPic (fun p => { p with noRounding := flagOf v })
  | .alphaPresent, _ => pure ()
  | .dcThreshold, v => putPic (fun p => { p with intraDcThreshold := dcThreshold v })
  | .topField, v => putPic (fun p => { p with topFieldFirst := flagOf v })
  | .alternateScan, v => putPic (fun p => { p with alternateScan := flagOf v })
  | .quant, v => takeQuant v
  | .fCode, v => takeFcode v
  | .bCode, v => takeBcode v

/-- The newpred fields (R193; 45_resync.md R337), read in a header with the tag `family`, an exhausted read raising
`ends`. -/
def newpredReader (ends : Tag → Raise) (family : Tag) : Reader NewpredField Empty where
  ends := ends
  family := family
  take := fun _ _ => pure ()
  act := fun e _ => nomatch e

/-- The newpred fields (R193; 45_resync.md R337). -/
def newpredFields (ends : Tag → Raise) (family : Tag) : Parse Unit := do
  let s ← getState
  runLayout (newpredReader ends family) s.cfg.layout.newpred

/-- Step 3, the marker probe and TI_HEAL (R185, R186). -/
def probeMarker : Parse Unit := do
  let s ← getState
  whenP s.markerAbsent (update State.tiHeal)

/-- What an act of VOP does. -/
def actVop : VopAct → Env VopField → Parse Unit
  | .repairLowDelay, _ => update (fun s => s.updSeq (fun q => { q with lowDelay := false }))
  | .timeIncr, _ => timeIncrP
  | .probe, _ => probeMarker
  | .times, _ => vopTimes
  | .notCoded, _ => raise ⟨.frameSkipped, .vopNotCoded⟩
  | .newpred, _ => newpredFields truncated .vop
  | .sprite, _ => do
    spriteTrajP
    gmcResolveP
  | .zeroSprite, _ => putPic (fun p =>
    { p with
      spriteOffsetLuma := IVec.zero, spriteOffsetChroma := IVec.zero
      spriteDeltaX := IVec.zero, spriteDeltaY := IVec.zero })

/-- The fields and the acts of VOP. -/
def vopReader : Reader VopField VopAct where
  ends := truncated
  family := .vop
  take := takeVop
  act := actVop

/-- The stores and the slice registers at the start of a picture (R199, 70_reset_and_hazards.md R402): every slice
register at its reset value but SLICE.first_slice_line, which R199 sets (log 49). -/
def State.clearPicture (s : State) : State :=
  (s.updStores (fun _ => Stores.initial)).updSlice (fun _ => { Slice.reset with firstSliceLine := true })

/-- The fields of PIC that the header of this picture did not carry, at their reset values: PIC is written whole for
each picture (10_state.md R30): DESIGN CHOICE, log 48. -/
def State.clearUncarried (s : State) : State :=
  let isB := s.pic.pictType == .b
  let warped := s.pic.pictType == .s && (s.seq.spriteUsage == spriteStatic || s.seq.spriteUsage == spriteGmc)
  let textured := s.seq.shape != shapeBinOnly
  s.updPic (fun p =>
    { p with
      pbTime := if isB then p.pbTime else 0
      ppFieldTime := if isB then p.ppFieldTime else 0
      pbFieldTime := if isB then p.pbFieldTime else 0
      spriteTraj := if warped then p.spriteTraj else Quad.all (Vec.zero 16)
      spriteOffsetLuma := if warped then p.spriteOffsetLuma else IVec.zero
      spriteOffsetChroma := if warped then p.spriteOffsetChroma else IVec.zero
      spriteDeltaX := if warped then p.spriteDeltaX else IVec.zero
      spriteDeltaY := if warped then p.spriteDeltaY else IVec.zero
      spriteShiftLuma := if warped then p.spriteShiftLuma else 0
      spriteShiftChroma := if warped then p.spriteShiftChroma else 0
      realSpriteWarpingPoints := if warped then p.realSpriteWarpingPoints else 0
      qscale := if textured then p.qscale else 0
      chromaQscale := if textured then p.chromaQscale else 0
      intraDcThreshold := if textured then p.intraDcThreshold else 0
      topFieldFirst := textured && p.topFieldFirst
      alternateScan := textured && p.alternateScan })

/-- Step 14, the picture start (R199). -/
def State.pictureStart (s : State) : State :=
  s.clearPicture.clearUncarried.updEng (fun e => { e with failed := [] })

/-- VOP (R180 to R200). The picture start, step 14, is the end of the header (70_reset_and_hazards.md R402): a header
that ends before its last field leaves the stores as they were (60_exceptions.md R384; log 46). -/
def vopP : Parse Unit := do
  update State.vopStart
  vopPrecondition
  let s ← getState
  forEach (fun l => runLayout vopReader l) s.cfg.layout.vop
  update State.pictureStart
  update (fun s => s.updStatus (fun t => { t with picValid := true }))
  finishOk .sliceStart

/-! ## The meanings -/

/-- VOP. -/
def execVop (s : State) : Host.Outcome State Fault Refusal := completes (runAt .vopHeader vopP s)
/-- TIME_INCR run by itself. -/
def execTimeIncr (s : State) : Host.Outcome State Fault Refusal := completes (runAt .vopHeader timeIncrP s)
/-- TI_HEAL run by itself. -/
def execTiHeal (s : State) : Host.Outcome State Fault Refusal :=
  completes (runAt .vopHeader (update State.tiHeal) s)

end Sys2Proof.Machine
end

