-- ==== Sys2Proof/Machine/Resync.lean ====
section
/-! DEFINITION. The resync unit: marker geometry, the peek, the packet header, the slice start, the recovery
(45_resync.md R331 to R339, R349 to R351). -/

namespace Sys2Proof.Machine

/-! ## Marker geometry (R332, R333) -/

/-- MbNumBits (R332). -/
def State.mbNumBits (s : State) : Nat := max 1 (bitLength (s.mbTotal - 1))

/-- PrefixLen (R333). -/
def State.prefixLen (s : State) : Nat :=
  let r := s.cfg.resync
  match s.pic.pictType with
  | .i => r.zerosI
  | .p => s.fc + r.zerosBase
  | .s => s.fc + r.zerosBase
  | .b => max (max s.fc s.bc) r.leastCodeB + r.zerosBase

/-! ## RESYNC_PEEK (R334 to R336) -/

/-- T of R334. -/
def State.stuffingT (s : State) : Nat := if s.pic.pictType = .i then 1 else 2

/-- A stuffing macroblock stands at the cursor (R334). -/
def State.stuffingHere (s : State) : Bool :=
  s.pic.pictType != .b && !s.pic.partitionedFrame && decide (s.peek 16 ≤ 0xFF)
    && s.peek 16 / 2 ^ (8 - s.stuffingT) == 1

/-- The stuffing macroblocks are skipped (R334); each turn consumes bits, so `fuel` is enough. -/
def skipStuffing : (fuel : Nat) → Parse Unit
  | 0 => pure ()
  | fuel + 1 => do
    let s ← getState
    if s.stuffingHere then do
      skipBits (exhausted .resyncMbnum) (8 + s.stuffingT)
      skipStuffing fuel
    else pure ()

/-- How many 0 bits stand from `p` up, at most `cap` (R335). -/
def State.zeroRun (s : State) : (cap p : Nat) → Nat
  | 0, _ => 0
  | cap + 1, p => if s.bitAt p = 0 then s.zeroRun cap (p + 1) + 1 else 0

/-- The stuffing that fills the byte at the cursor (R331). -/
def State.stuffingBits (s : State) : Nat := s.cfg.resync.stuffing.getD (s.pos % 8) 0

/-- Inside the last byte of BS: whether the bits that remain are the stuffing pattern (R335, R336). -/
def State.lastByteIsStuffing (s : State) : Bool :=
  let k := s.pos % 8
  (s.peek 16 / 256) ||| (2 ^ k - 1) == (s.stuffingBits * 2 ^ k) ||| (2 ^ k - 1)

/-- The stuffing, then zeros up to 16 bits (R335). -/
def State.stuffingThenZeros (s : State) : Bool := s.peek 16 == s.stuffingBits * 2 ^ (8 + s.pos % 8)

/-- The answer where the stuffing and a zero run stand (R335). The word of COLOC that a B picture's test reads may stand in
a row that is not published, or in none (the last macroblock's): R335 names no wait, and State.colocType answers a free
value (log 57). DEDUCED, log 44. -/
def markerAnswer : Parse Boundary := do
  let s ← getState
  let p := alignUp (s.pos + 1)
  let len := s.zeroRun 32 p
  let num := s.memRead (p + len + 1) s.mbNumBits
  if len < s.prefixLen then pure .ok
  else if s.ctrl.strict ∧ (num = 0 ∨ s.mbTotal < num ∨ num < s.mbi + 1) then raise (invalid .resyncMbnum)
  else if s.pic.pictType = .b ∧ s.mbi + 1 < num ∧ (s.colocType (s.mbi + 1)).skipped then pure .ok
  else pure .sliceEnd

/-- The answer of the peek after the stuffing macroblocks (R335). -/
def boundaryAnswer : Parse Boundary := do
  let s ← getState
  if s.endPos ≤ s.pos + 8 then pure (if s.lastByteIsStuffing then .sliceEnd else .ok)
  else if s.stuffingThenZeros then markerAnswer
  else pure .ok

/-- RESYNC_PEEK (R335). -/
def resyncPeekP : Parse Boundary := do
  let s ← getState
  if s.quirk .noPadding && !s.seq.resyncMarker then pure .ok
  else do
    skipStuffing s.turns
    boundaryAnswer

/-- The result code of an answer. -/
def boundaryResult : Boundary → ResultCode
  | .ok => .ok
  | .sliceEnd => .sliceEnd
  | .sliceNoend => .sliceNoend

/-- The answer `r` is the macroblock operation's result; the tests of R349 are next (60_exceptions.md R371). -/
def State.answer (s : State) (r : Boundary) : State :=
  ((s.post (boundaryResult r)).setFsm .resyncCheck).updEng (fun g => { g with phase := .decide r })

/-- RESYNC_PEEK as the operation of state RESYNC_CHECK: the peek, then the record and the advance (43_macroblock.md
R263). -/
def peekStep : Parse Unit := do
  let r ← resyncPeekP
  update (fun s => s.emitMb.advance.answer r)

/-! ## VIDEO_PACKET_HEADER (R337, R338) -/

/-- The raise of an exhausted read in a packet header. -/
def packetEnd : Raise := exhausted .vpExt

/-- The unary prefix: 0 bits up to the first 1, at most 32 (R337). -/
def packetPrefix : (fuel len : Nat) → Parse Nat
  | 0, len => pure len
  | fuel + 1, len => do
    let b ← getFlag packetEnd
    if b then pure len else packetPrefix fuel (len + 1)

/-- The unary modulo time base of the extension (R338). -/
def moduloBase : (fuel : Nat) → Parse Unit
  | 0 => raise packetEnd
  | fuel + 1 => do
    let b ← getFlag packetEnd
    if b then moduloBase fuel else pure ()

/-- A range code of the extension: 0 is logged (R338). -/
def extRange : Parse Unit := do
  let f ← getBits packetEnd 3
  whenP (f == 0) (logBit .marker)

/-- The header extension (R338). -/
def packetExtension : Parse Unit := do
  let s ← getState
  moduloBase s.turns
  marker packetEnd
  skipBits packetEnd s.seq.timeIncrementBits.toNat
  marker packetEnd
  skipBits packetEnd 2
  skipBits packetEnd 3
  whenP s.isGmc packetTrajP
  whenP (s.pic.pictType != .i) extRange
  whenP (s.pic.pictType == .b) extRange

/-- The quantiser of a packet (R337). -/
def packetQuant : Parse Unit := do
  let s ← getState
  let q ← getBits packetEnd s.seq.quantPrecision.toNat
  whenP (q != 0) (update (fun s => s.setQscale (toU 9 q)))

/-- The macroblock number and its checks (R337). -/
def packetNumber : Parse Nat := do
  let s ← getState
  let num ← getBits packetEnd s.mbNumBits
  if num = 0 ∨ s.mbTotal ≤ num then raise (invalid .vpMbnum)
  else if num < s.slice.nextMbi.toNat then raise (invalid .vpBackward)
  else pure num

/-- The space and the prefix of a packet header (R337). -/
def packetLead : Parse Unit := do
  let s ← getState
  if s.left < 20 then raise (invalid .vpSpace)
  else do
    let len ← packetPrefix 32 0
    if len = s.prefixLen then pure () else raise (invalid .vpPrefix)

/-- The extension flag, when it stands here (R337). -/
def packetExtFlag (here : Bool) : Parse Bool := if here then getFlag packetEnd else pure false

/-- VIDEO_PACKET_HEADER (R337): the macroblock number. -/
def packetHeaderP : Parse Nat := do
  packetLead
  let s ← getState
  let early ← packetExtFlag (s.seq.shape != shapeRect)
  let num ← packetNumber
  packetQuant
  let late ← packetExtFlag (s.seq.shape == shapeRect)
  whenP (early || late) packetExtension
  whenP s.seq.newPred (newpredFields exhausted .vpExt)
  update (fun s => s.updSlice (fun l => { l with mbX := toU 10 (num % s.mbW : Nat), mbY := toU 10 (num / s.mbW : Nat) }))
  pure num

/-- An accepted header: SLICE_START is next; in the recovery search the macroblocks never decoded are counted
(R350). -/
def State.acceptPacket (s : State) (searching : Bool) (num : Nat) : State :=
  let t := if searching then s.updSlice (fun l => { l with mbErr := toU 20 (l.mbErr.toNat + (num - l.nextMbi.toNat) : Nat) })
    else s
  ((t.post .ok).setFsm .sliceStart).updEng (fun g => { g with phase := .peek })

/-- A header refused in the recovery search: the search goes on at the next byte (R350; log 17). -/
def State.searchOn (s : State) (entry : Nat) : State := s.setPos (entry + 8)

/-- VIDEO_PACKET_HEADER where it runs: a raise restores BITPOS to its value at entry (R337); in the recovery search
an INVALID_DATA is caught (R350). -/
def State.runPacket (s : State) : State :=
  let searching := decide (s.eng.phase = .search)
  match packetHeaderP s with
  | .ok num t => t.acceptPacket searching num
  | .error r t =>
    if searching ∧ r.code = .invalidData then t.searchOn s.pos
    else (t.takeRaise .packet r).setPos s.pos

/-! ## SLICE_START (R339) -/

/-- An ACMEM plane with the words of `count` block positions from `start` up at 0; positions below 0 are skipped. -/
def clearAc (start : Int) (count : Nat) (m : Cells (BitVec 16)) : Cells (BitVec 16) :=
  Cells.clear 0 (16 * (max 0 start).toNat) (16 * (start + count - max 0 start).toNat) m

/-- The clear of ACMEM around the start of a packet (R339). -/
def State.clearAround (s : State) : State :=
  let w : Int := s.mbW
  let x : Int := s.slice.mbX.toNat
  let y : Int := s.slice.mbY.toNat
  s.updStores (fun t =>
    { t with
      acLuma := clearAc ((2 * y - 1) * (2 * w) + 2 * x - 1) (2 * s.mbW + 1) t.acLuma
      acCb := clearAc ((y - 1) * w + x - 1) (s.mbW + 1) t.acCb
      acCr := clearAc ((y - 1) * w + x - 1) (s.mbW + 1) t.acCr })

/-- The slice was entered from a packet header: its first macroblock is not the first of the picture (R337, R339;
log 29). -/
def State.fromPacket (s : State) : Bool := !(s.slice.mbX == 0 && s.slice.mbY == 0)

/-- SLICE_START (R339). -/
def State.sliceStart (s : State) : State :=
  let t := s.updSlice (fun l =>
    { l with
      resyncMbX := l.mbX, resyncMbY := l.mbY, firstSliceLine := true, lastResyncPos := toU 32 s.bitpos, mbValid := 0
      lastMvFwd := LastMv.zero, lastMvBwd := LastMv.zero })
  let u := if s.fromPacket then t.clearAround else t
  u.setFsm (if s.pic.partitionedFrame then .partA else .mb)

/-! ## RESYNC_CHECK without an operation (R349 to R351) -/

/-- Every macroblock of the picture is accounted for (R351). -/
def State.pictureDone (s : State) : Bool := s.slice.nextMbi.toNat == s.mbTotal

/-- The end of the picture (R351). ROWPROG[self] stays as it is: where the last macroblock of the last row was lost
that row is not published, and no rule says whether it is: DESIGN CHOICE, log 45. -/
def State.endPicture (s : State) : State :=
  (s.post (if s.slice.mbErr = 0 then .ok else .okWithErrors)).setFsm .done

/-- The next act of RESYNC_CHECK is `p`. -/
def State.setPhase (s : State) (p : Phase) : State := s.updEng (fun g => { g with phase := p })

/-- The stuffing is skipped and the packet header is next (R349). -/
def toHeader : Parse Unit := do
  skipBits (exhausted .vpExt) 1
  update (fun s => s.align.setPhase .header)

/-- The tests of R349 on the macroblock operation's answer. -/
def State.decideBoundary (s : State) (r : Boundary) : State :=
  if s.pictureDone then s.endPicture
  else match r with
    | .ok => s.setFsm .mb
    | .sliceEnd => runAt .packet toHeader s
    | .sliceNoend => s.setPhase .recover

/-- The start of the recovery (R350, R351). -/
def State.startRecovery (s : State) : State :=
  if s.pictureDone then s.endPicture
  else (s.setPos (alignUp s.slice.lastResyncPos.toNat)).setPhase .search

/-- One turn of the recovery search that runs no packet header (R350); `none` where a header is tried. The search only
moves forward, so it ends (70_reset_and_hazards.md R420). -/
def State.searchTurn (s : State) : Option State :=
  if 27 < s.left then (if s.peek 16 = 0 then none else some (s.setPos (s.pos + 8)))
  else some (s.takeRaise .resync ⟨.fatalNoResync, .resyncSearch⟩)

/-! ## The meanings -/

/-- RESYNC_PEEK. -/
def execResyncPeek (s : State) : Host.Outcome State Fault Refusal := completes (runAt .macroblock peekStep s)
/-- VIDEO_PACKET_HEADER. -/
def execVideoPacketHeader (s : State) : Host.Outcome State Fault Refusal := completes s.runPacket

end Sys2Proof.Machine
end

