-- ==== Sys2Proof/Machine/Partition.lean ====
section
/-! DEFINITION. Data partitions: the two passes and the replay of the records (45_resync.md R340 to R348). -/

namespace Sys2Proof.Machine

/-- The raise of an exhausted read in partition A. -/
def partAEnd : Raise := exhausted .partAMcbpc
/-- The raise of an exhausted read in partition B. -/
def partBEnd : Raise := exhausted .partBCbpy

/-- The position of the current macroblock in the slice. -/
def State.partIndex (s : State) : Nat := s.mbi - s.resyncMbi

/-- The record of the current macroblock rewritten by `f`. -/
def State.updPart (s : State) (f : PartRec → PartRec) : State := s.writePart s.partIndex (f s.partHere)

/-- The record of the current macroblock rewritten by `f`, in a parse. -/
def putPart (f : PartRec → PartRec) : Parse Unit := update (fun s => s.updPart f)

/-- rec.qscale <- PIC.qscale ; QMEM[mbi] <- PIC.qscale (R341, R347). -/
def State.recordQuant (s : State) : State :=
  (s.updPart (fun r => { r with qscale := s.pic.qscale })).writeQ s.pic.qscale

/-- One block's DC: differential, prediction, direction (R341, R347); a raise inside DC_DIFF carries `t`. -/
def partDc (t : Tag) (n : Fin 6) : Parse Unit := do
  let diff ← withTag t (dcDiffP n)
  putPart (fun r => { r with dcDiff := r.dcDiff.set n (toS 16 diff) })
  let _ ← predDcP n diff
  update (fun s => s.updPart (fun r => { r with dir := r.dir.set n (s.mb.predDir.get n) }))

/-- The DC of the six blocks (R341, R347). -/
def partDcs (t : Tag) : Parse Unit := forEach (partDc t) sixBlocks

/-! ## Walking the slice (R340) -/

/-- The slice registers at the first macroblock of the slice (R340, R347). -/
def State.toSliceStart (s : State) : State :=
  s.updSlice (fun l => { l with mbX := l.resyncMbX, mbY := l.resyncMbY, firstSliceLine := true })

/-- The slice registers at the next macroblock in raster order (R340). -/
def State.nextInSlice (s : State) : State :=
  let wraps := decide (s.slice.mbX.toNat + 1 = s.mbW)
  let x := if wraps then 0 else s.slice.mbX.toNat + 1
  let y := if wraps then s.slice.mbY.toNat + 1 else s.slice.mbY.toNat
  let leaves := decide (x = s.slice.resyncMbX.toNat ∧ y = s.slice.resyncMbY.toNat + 1)
  s.updSlice (fun l =>
    { l with
      mbX := toU 10 x, mbY := toU 10 y
      firstSliceLine := if leaves then false else l.firstSliceLine })

/-! ## Partition A (R340 to R345) -/

/-- The mode class of a macroblock of an I partition; `none` at the marker (R341). -/
def partModeI : (fuel : Nat) → Parse (Option Nat)
  | 0 => raise partAEnd
  | fuel + 1 => do
    let s ← getState
    if s.peek s.cfg.resync.dcBits = s.cfg.resync.dcMarker then pure none
    else do
      let c ← vlcNumber partAEnd (invalid .partAMcbpc) .intraMcbpc
      if c = 8 then partModeI fuel else pure (some c)

/-- What partition A decodes of one macroblock of an I picture after its mode class (R341). -/
def partBodyI (c : Nat) : Parse Unit := do
  putPart (fun _ => { PartRec.zero with cbpc := toU 2 (c % 4 : Nat), intra := true })
  whenP (c / 4 % 2 == 1) (dquantP partAEnd)
  update State.recordQuant
  partDcs .partADc

/-- The step of PARTITION_A_I: whether a macroblock was decoded (R341). -/
def partStepI : Parse Bool := do
  let s ← getState
  let r ← partModeI s.turns
  match r with
  | none => pure false
  | some c => do
    partBodyI c
    pure true

/-- What stands first for a macroblock of a P or S partition (R342). -/
inductive PartMode where
  | marker
  | skip
  | coded (c : Nat)
deriving DecidableEq, Repr

/-- The skip flag and the mode class of a macroblock of a P or S partition (R342). -/
def partModeP : (fuel : Nat) → Parse PartMode
  | 0 => raise partAEnd
  | fuel + 1 => do
    let s ← getState
    if s.peek s.cfg.resync.motionBits = s.cfg.resync.motionMarker then pure .marker
    else do
      let skip ← getFlag partAEnd
      if skip then pure .skip
      else do
        let c ← vlcNumber partAEnd (invalid .partAMcbpc) .interMcbpc
        if c = 20 then partModeP fuel else pure (.coded c)

/-- MVMEM[all four blocks] <- v, in the record too (R342; log 40). -/
def State.partVector (s : State) (v : Mv) : State := (s.updPart (fun r => { r with mv := Quad.all v })).writeMvAll v

/-- A macroblock that is not coded (R342). -/
def State.partSkip (s : State) : State :=
  (s.updPart (fun _ => { PartRec.zero with skipped := true, mcsel := s.isGmc })).partVector
    (if s.isGmc then s.amvVec else Vec.zero 16)

/-- rec.mcsel (R342, 43_macroblock.md R253). -/
def partMcsel (four : Bool) : Parse Unit := do
  let s ← getState
  whenP (s.isGmc && !four) (do
    let b ← getFlag partAEnd
    putPart (fun r => { r with mcsel := b }))

/-- One vector (R342). -/
def partMotion16 : Parse Unit := do
  let s ← getState
  let v ← withTag .partAMv (mvdPair (s.predMv 0) s.fc)
  update (fun s => s.partVector v.toMv)

/-- One of four vectors (R342). -/
def partMotion8 (n : Fin 4) : Parse Unit := do
  let s ← getState
  let v ← withTag .partAMv (mvdPair (s.predMv n) s.fc)
  update (fun s => (s.updPart (fun r => { r with mv := r.mv.set n v.toMv })).writeMv n v.toMv)

/-- The motion of an inter macroblock (R342). -/
def partMotion (four : Bool) : Parse Unit := do
  let s ← getState
  putPart (fun r => { r with mvType := if four then .mv8x8 else .mv16x16 })
  if four then forEach partMotion8 fourBlocks
  else if s.partHere.mcsel then update (fun s => s.partVector s.amvVec)
  else partMotion16

/-- What partition A decodes of a coded macroblock of a P or S picture (R342). -/
def partBodyP (c : Nat) : Parse Unit := do
  putPart (fun _ =>
    { PartRec.zero with cbpc := toU 2 (c % 4 : Nat), hasDquant := c / 8 % 2 == 1, intra := c / 4 % 2 == 1 })
  if c / 4 % 2 == 1 then update (fun s => s.partVector (Vec.zero 16))
  else do
    partMcsel (c / 16 % 2 == 1)
    partMotion (c / 16 % 2 == 1)

/-- The step of PARTITION_A_P: whether a macroblock was decoded (R342). -/
def partStepP : Parse Bool := do
  let s ← getState
  let m ← partModeP s.turns
  match m with
  | .marker => pure false
  | .skip => do
    update State.partSkip
    pure true
  | .coded c => do
    partBodyP c
    pure true

/-- The first pass: macroblocks from the current one to the end of the picture or to the marker, at most `fuel`;
how many were decoded (R340). -/
def partALoop (step : Parse Bool) : (fuel count : Nat) → Parse Nat
  | 0, count => pure count
  | fuel + 1, count => do
    let more ← step
    if more then do
      update State.nextInSlice
      partALoop step fuel (count + 1)
    else pure count

/-- The range of the partition (R343). -/
def partRange (count : Nat) : Parse Unit := do
  let s ← getState
  if count = 0 ∨ s.mbTotal < s.resyncMbi + count then raise (invalid .partCount) else pure ()

/-- Stuffing before the marker: codes of `n` bits with the value 1 (R344). -/
def partStuffing (n : Nat) : (fuel : Nat) → Parse Unit
  | 0 => pure ()
  | fuel + 1 => do
    let s ← getState
    if s.peek n = 1 then do
      skipBits partAEnd n
      partStuffing n fuel
    else pure ()

/-- The partition marker, `n` bits (R345). -/
def partMarker (n value : Nat) : Parse Unit := do
  let v ← getBits partAEnd n
  if v = value then pure () else raise (invalid .partMarker)

/-- PARTITION_A (R340, R343 to R345), its marker by CFG.GRAMMAR.resync (30_encoding.md R107). -/
def partitionA (step : Parse Bool) (stuffing : Nat) (markerBits markerValue : ResyncPatterns → Nat) : Parse Unit := do
  update State.toSliceStart
  let s ← getState
  let count ← partALoop step (s.mbTotal - s.resyncMbi) 0
  partRange count
  let t ← getState
  partStuffing stuffing t.turns
  partMarker (markerBits s.cfg.resync) (markerValue s.cfg.resync)
  update (fun u => (u.updSlice (fun l => { l with mbNumLeft := toU 20 count })).updPic
    (fun p => { p with qscale := s.pic.qscale }))
  finishOk .partB

/-- PARTITION_A_I. -/
def partitionAIP : Parse Unit := partitionA partStepI 9 ResyncPatterns.dcBits ResyncPatterns.dcMarker

/-- PARTITION_A_P. -/
def partitionAPP : Parse Unit := partitionA partStepP 10 ResyncPatterns.motionBits ResyncPatterns.motionMarker

/-! ## Partition B (R346, R347) -/

/-- CBPY in partition B. -/
def partCbpy : Parse Nat := vlcNumber partBEnd (invalid .partBCbpy) .cbpy

/-- The AC-prediction flag of a record. -/
def partAcPred : Parse Unit := do
  let ac ← getFlag partBEnd
  putPart (fun r => { r with acPred := ac })

/-- rec.cbp <- (cbpy << 2) | rec.cbpc. -/
def State.partCbp (s : State) (cbpy : Nat) : State :=
  s.updPart (fun r => { r with cbp := toU 6 (4 * cbpy + r.cbpc.toNat : Nat) })

/-- The step of PARTITION_B_I (R346). -/
def partBStepI : Parse Unit := do
  partAcPred
  let y ← partCbpy
  update (fun s => s.partCbp y)

/-- The quantiser delta of a record that has one (R347). -/
def partDquant : Parse Unit := do
  let s ← getState
  whenP s.partHere.hasDquant (dquantP partBEnd)

/-- An intra record of PARTITION_B_P (R347). -/
def partBIntra : Parse Unit := do
  partAcPred
  let y ← partCbpy
  partDquant
  update State.recordQuant
  partDcs .partBDc
  update (fun s => s.partCbp y)

/-- An inter record of PARTITION_B_P that is coded (R347). -/
def partBInter : Parse Unit := do
  let y ← partCbpy
  partDquant
  update (fun s => s.recordQuant.partCbp (15 - y))

/-- The step of PARTITION_B_P (R347). -/
def partBStepP : Parse Unit := do
  let s ← getState
  if s.partHere.intra then partBIntra
  else if s.partHere.skipped then update (fun s => s.recordQuant.updPart (fun r => { r with cbp := 0 }))
  else partBInter

/-- The second pass over `n` records (R346, R347). -/
def partBLoop (step : Parse Unit) : (n : Nat) → Parse Unit
  | 0 => pure ()
  | n + 1 => do
    step
    update State.nextInSlice
    partBLoop step n

/-- PARTITION_B (R346, R347). BITPOS goes on from where the pass before left it: 20_memory.md R79 names a BITPOS set at
the start of this pass and of the replay of the records, and no rule gives its value; DEDUCED, log 52. -/
def partitionB (step : Parse Unit) : Parse Unit := do
  update State.toSliceStart
  let s ← getState
  partBLoop step s.slice.mbNumLeft.toNat
  update (fun u => u.toSliceStart.updPic (fun p => { p with qscale := s.pic.qscale }))
  finishOk .mb

/-- PARTITION_B_I. -/
def partitionBIP : Parse Unit := partitionB partBStepI

/-- PARTITION_B_P. -/
def partitionBPP : Parse Unit := partitionB partBStepP

/-! ## MB_PARTITIONED (R348) -/

/-- MB from the record of the current macroblock (R348): the switch of R245 is read before the quantiser changes. -/
def State.loadPart (s : State) : State :=
  let r := s.partHere
  ((s.setDcSwitch.updPic (fun p => { p with qscale := r.qscale })).updMb (fun m =>
    { m with
      qscale := r.qscale, intra := r.intra, skipped := r.skipped, mcsel := r.mcsel, mvType := r.mvType
      acPred := r.acPred, cbp := r.cbp, mvDir := dirForward
      mvFwd := ⟨s.mvOfBlock 0, s.mvOfBlock 1, s.mvOfBlock 2, s.mvOfBlock 3⟩ }))

/-- A skipped record (R348, 43_macroblock.md R252). -/
def State.partSkipped (s : State) : State :=
  s.updMb (fun m => { m with lastIndex := Six.all (-1), skipped := !s.isGmc, mcsel := s.isGmc })

/-- The texture of one block (R348). -/
def partBlock (n : Fin 6) : Parse Unit := do
  let s ← getState
  if s.mb.intra then blockIntraP n (s.codedBit n)
  else if s.codedBit n then blockInterP n
  else update (fun s => s.setLastIndex n (-1))

/-- The texture of a macroblock (R348). -/
def partTexture : Parse Unit := do
  let s ← getState
  if s.partHere.skipped then update State.partSkipped
  else withTag .mbPartTexture (forEach partBlock sixBlocks)

/-- The result of MB_PARTITIONED from its peek (R348). -/
def State.partResult (s : State) (r : Boundary) : Boundary :=
  if s.slice.mbNumLeft = 0 then (if r = .sliceEnd then .sliceEnd else .sliceNoend)
  else if r = .sliceEnd ∧ (s.partAt (s.partIndex + 1)).cbp ≠ 0 then .sliceEnd
  else .ok

/-- MB_PARTITIONED (R348). -/
def mbPartitionedP : Parse Unit := do
  update State.startMb
  update State.loadPart
  partTexture
  update (fun s => s.updSlice (fun l => { l with mbNumLeft := toU 20 (l.mbNumLeft.toNat - 1 : Nat) }))
  let r ← resyncPeekP
  update (fun s => s.epilogue.emitMb.advance.answer (s.partResult r))

/-! ## The meanings -/

/-- PARTITION_A_I. -/
def execPartitionAI (s : State) : Host.Outcome State Fault Refusal := inStores s (runAt .partA partitionAIP s)
/-- PARTITION_A_P. -/
def execPartitionAP (s : State) : Host.Outcome State Fault Refusal := inStores s (runAt .partA partitionAPP s)
/-- PARTITION_B_I. -/
def execPartitionBI (s : State) : Host.Outcome State Fault Refusal := inStores s (runAt .partB partitionBIP s)
/-- PARTITION_B_P. -/
def execPartitionBP (s : State) : Host.Outcome State Fault Refusal := inStores s (runAt .partB partitionBPP s)
/-- MB_PARTITIONED. -/
def execMbPartitioned (s : State) : Host.Outcome State Fault Refusal :=
  inStores s (runAt .macroblock mbPartitionedP s)

end Sys2Proof.Machine
end

