-- ==== Sys2Proof/Machine/StartCode.lean ====
section
/-! DEFINITION. Start codes: the classes' effects and the scanner (30_encoding.md R101, R102, 40_header_vol.md R141,
R142, R145). -/

namespace Sys2Proof.Machine

/-- The end of a header run at a VOP start code (40_header_vol.md R142, 30_encoding.md R110): OK_AT_VOP under
CMD = SCAN_HEADERS. -/
def State.reachVop (s : State) : State :=
  if s.ctrl.cmd = 1 then (s.post .okAtVop).setFsm .done else s.setFsm .hdrVop

/-- What a start code of class `k` does after it is consumed (30_encoding.md R102). -/
def startCodeEffect : ScClass → Parse Unit
  | .voObj => update (fun s => s.setFsm .scan)
  | .vol => update (fun s => s.setFsm (if s.seq.studioProfile then .hdrVolStudio else .hdrVol))
  | .reserved => update (fun s => s.setFsm .scan)
  | .vos => update (fun s => s.setFsm .hdrVos)
  | .vosEnd => update (fun s => s.setFsm .scan)
  | .user => update (fun s => s.setFsm .hdrUser)
  | .gop => update (fun s => s.setFsm .hdrGop)
  | .sessionErr => update (fun s => s.setFsm .scan)
  | .visobj => update (fun s => s.setFsm .hdrVo)
  | .vop => update State.reachVop
  | .slice => update (fun s => s.setFsm .scan)
  | .ext => extP
  | .other => update (fun s => s.setFsm .scan)

/-- No start code is left (R141): BITPOS at the end, END_OF_DATA(SCAN). -/
def noStartCode : Parse Unit := do
  update (fun s => s.setPos s.endPos)
  raise ⟨.endOfData, .scan⟩

/-- The byte of the aligned cursor (R141). -/
def State.scanByte (s : State) : Nat := alignUp s.pos / 8

/-- A start code of class `k` stands at the aligned cursor: it is consumed, and has its effect. -/
def takeStartCode (k : ScClass) : Parse Unit := do
  let s ← getState
  if s.len.toNat < s.scanByte + 4 then noStartCode
  else do
    update (fun s => s.setPos (8 * (s.scanByte + 4)))
    startCodeEffect k

/-- The first byte from `p` up, at most `n` bytes away, where a start code with its suffix stands (R141). -/
def State.findStartCode (s : State) : (n p : Nat) → Option Nat
  | 0, _ => none
  | n + 1, p =>
    if s.len.toNat < p + 4 then none
    else if s.prefixAt p then some p
    else s.findStartCode n (p + 1)

/-- SCAN (R141): the suffix is classified by CFG.GRAMMAR.sc_class. -/
def scanP : Parse Unit := do
  let s ← getState
  match s.findStartCode (s.len.toNat - s.scanByte) s.scanByte with
  | some p => do
    update (fun s => s.setPos (8 * (p + 4)))
    startCodeEffect (classOf s.cfg.scClass (s.byteAt (p + 3)))
  | none => noStartCode

/-! ## The meanings -/

/-- SC_VO_OBJ: no operation; the scan goes on (30_encoding.md R112). -/
def execScVoObj (_ : Byte) (s : State) : Host.Outcome State Fault Refusal :=
  completes (runAt .headerRun (takeStartCode .voObj) s)
/-- SC_VOL: HDR_VOL, or HDR_VOL_STUDIO in a studio stream (40_header_vol.md R145). -/
def execScVol (_ : Byte) (s : State) : Host.Outcome State Fault Refusal :=
  completes (runAt .headerRun (takeStartCode .vol) s)
/-- SC_RESERVED: no operation (30_encoding.md R112). -/
def execScReserved (_ : Byte) (s : State) : Host.Outcome State Fault Refusal :=
  completes (runAt .headerRun (takeStartCode .reserved) s)
/-- SC_VOS: HDR_VOS. -/
def execScVos (s : State) : Host.Outcome State Fault Refusal := completes (runAt .headerRun (takeStartCode .vos) s)
/-- SC_VOS_END: no operation (30_encoding.md R112). -/
def execScVosEnd (s : State) : Host.Outcome State Fault Refusal := completes (runAt .headerRun (takeStartCode .vosEnd) s)
/-- SC_USER: HDR_USER. -/
def execScUser (s : State) : Host.Outcome State Fault Refusal := completes (runAt .headerRun (takeStartCode .user) s)
/-- SC_GOP: HDR_GOP. -/
def execScGop (s : State) : Host.Outcome State Fault Refusal := completes (runAt .headerRun (takeStartCode .gop) s)
/-- SC_SESSION_ERR: no operation (30_encoding.md R112). -/
def execScSessionErr (s : State) : Host.Outcome State Fault Refusal :=
  completes (runAt .headerRun (takeStartCode .sessionErr) s)
/-- SC_VISOBJ: HDR_VO. -/
def execScVisobj (s : State) : Host.Outcome State Fault Refusal := completes (runAt .headerRun (takeStartCode .visobj) s)
/-- SC_VOP: the end of the header run (30_encoding.md R110). -/
def execScVop (s : State) : Host.Outcome State Fault Refusal := completes (runAt .headerRun (takeStartCode .vop) s)
/-- SC_SLICE: no operation (30_encoding.md R102). -/
def execScSlice (s : State) : Host.Outcome State Fault Refusal := completes (runAt .headerRun (takeStartCode .slice) s)
/-- SC_EXT: EXT runs in place (30_encoding.md R102). -/
def execScExt (s : State) : Host.Outcome State Fault Refusal := completes (runAt .headerRun (takeStartCode .ext) s)
/-- SC_OTHER: no operation (30_encoding.md R112). -/
def execScOther (_ : Byte) (s : State) : Host.Outcome State Fault Refusal :=
  completes (runAt .headerRun (takeStartCode .other) s)
/-- SCAN. -/
def execScan (s : State) : Host.Outcome State Fault Refusal := completes (runAt .headerRun scanP s)

end Sys2Proof.Machine
end

