-- ==== Sys2Proof/Machine/Fetch.lean ====
section
/-! DEFINITION. What the machine runs next: the moves of FSM that run no operation, and the selection of an
operation with the bits that decide it (30_encoding.md R110, R111). -/

namespace Sys2Proof.Machine

/-- WAIT_ROW: the macroblock goes on when its row of COLOC is published (30_encoding.md R110). This is the one wait of a
command, and it has no bound (70_reset_and_hazards.md R412, R420). -/
def State.leaveWait (s : State) : State :=
  if s.coloc.rowprog < s.slice.mbY.toNat + 1 then s else s.setFsm .mb

/-- A move of FSM that runs no operation (30_encoding.md R110); `none` where an operation is selected. -/
def engineMove (s : State) : Option State :=
  match s.fsm with
  | .done => some s.acknowledge
  | .error => some s.acknowledge
  | .sliceStart => some s.sliceStart
  | .waitRow => some s.leaveWait
  | .resyncCheck =>
    match s.eng.phase with
    | .peek => none
    | .decide r => some (s.decideBoundary r)
    | .header => none
    | .recover => some s.startRecovery
    | .search => s.searchTurn
  | .idle => none
  | .scan => none
  | .hdrVos => none
  | .hdrVo => none
  | .hdrVol => none
  | .hdrVolStudio => none
  | .hdrGop => none
  | .hdrUser => none
  | .hdrVop => none
  | .partA => none
  | .partB => none
  | .mb => none

/-- The byte of the command register. -/
def State.commandByte (s : State) : Byte := BitVec.ofNat 8 s.ctrl.cmd.toNat

/-- A start code with its suffix stands at the aligned cursor. -/
def State.startCodeHere (s : State) : Bool := decide (s.scanByte + 4 ≤ s.len.toNat) && s.prefixAt s.scanByte

/-- The selection of the next operation, and its bits (30_encoding.md R111). -/
def fetch (s : State) : Selector × List Byte :=
  match s.fsm with
  | .idle => (.command, [s.commandByte])
  | .scan =>
    if s.startCodeHere then (.startCode s.cfg.scClass, s.bytesFrom s.scanByte 4)
    else (.state .scan s.seq.studioProfile s.pic.partitionedFrame s.pic.pictType, [])
  | .resyncCheck => (if s.eng.phase = .peek then .boundary else .packet, [])
  | f => (.state f s.seq.studioProfile s.pic.partitionedFrame s.pic.pictType, [])

end Sys2Proof.Machine
end

