-- ==== Sys2Proof/Machine/Dispatch.lean ====
section
/-! DEFINITION. The dispatch: one arm for each constructor of Instr, one direct call of its meaning. -/

namespace Sys2Proof.Machine

def exec (i : Instr) (s : State) : Host.Outcome State Fault Refusal :=
  match i with
  | .scVoObj c => Sys2Proof.Machine.execScVoObj c s
  | .scVol c => Sys2Proof.Machine.execScVol c s
  | .scReserved c => Sys2Proof.Machine.execScReserved c s
  | .scVos => Sys2Proof.Machine.execScVos s
  | .scVosEnd => Sys2Proof.Machine.execScVosEnd s
  | .scUser => Sys2Proof.Machine.execScUser s
  | .scGop => Sys2Proof.Machine.execScGop s
  | .scSessionErr => Sys2Proof.Machine.execScSessionErr s
  | .scVisobj => Sys2Proof.Machine.execScVisobj s
  | .scVop => Sys2Proof.Machine.execScVop s
  | .scSlice => Sys2Proof.Machine.execScSlice s
  | .scExt => Sys2Proof.Machine.execScExt s
  | .scOther c => Sys2Proof.Machine.execScOther c s
  | .scan => Sys2Proof.Machine.execScan s
  | .vos => Sys2Proof.Machine.execVos s
  | .vo => Sys2Proof.Machine.execVo s
  | .vol => Sys2Proof.Machine.execVol s
  | .volStudio => Sys2Proof.Machine.execVolStudio s
  | .loadQmatrix kind => Sys2Proof.Machine.execLoadQmatrix kind s
  | .cplxEst => Sys2Proof.Machine.execCplxEst s
  | .extUnit => Sys2Proof.Machine.execExt s
  | .gop => Sys2Proof.Machine.execGop s
  | .userdata => Sys2Proof.Machine.execUserdata s
  | .vop => Sys2Proof.Machine.execVop s
  | .timeIncr => Sys2Proof.Machine.execTimeIncr s
  | .tiHeal => Sys2Proof.Machine.execTiHeal s
  | .spriteTraj => Sys2Proof.Machine.execSpriteTraj s
  | .gmcResolve => Sys2Proof.Machine.execGmcResolve s
  | .getAmv n => Sys2Proof.Machine.execGetAmv n s
  | .mbI => Sys2Proof.Machine.execMbI s
  | .mbP => Sys2Proof.Machine.execMbP s
  | .mbB => Sys2Proof.Machine.execMbB s
  | .mbStudio => Sys2Proof.Machine.execMbStudio s
  | .mvd pred fc => Sys2Proof.Machine.execMvd pred fc s
  | .dquant => Sys2Proof.Machine.execDquant s
  | .blockIntra n coded => Sys2Proof.Machine.execBlockIntra n coded s
  | .blockInter n => Sys2Proof.Machine.execBlockInter n s
  | .coefDirect last run level => Sys2Proof.Machine.execCoefDirect last run level s
  | .coefEsc1 t => Sys2Proof.Machine.execCoefEsc1 t s
  | .coefEsc2 t => Sys2Proof.Machine.execCoefEsc2 t s
  | .coefEsc3 => Sys2Proof.Machine.execCoefEsc3 s
  | .predDc n diff => Sys2Proof.Machine.execPredDc n diff s
  | .predAc n => Sys2Proof.Machine.execPredAc n s
  | .resyncPeek => Sys2Proof.Machine.execResyncPeek s
  | .videoPacketHeader => Sys2Proof.Machine.execVideoPacketHeader s
  | .partitionAI => Sys2Proof.Machine.execPartitionAI s
  | .partitionAP => Sys2Proof.Machine.execPartitionAP s
  | .partitionBI => Sys2Proof.Machine.execPartitionBI s
  | .partitionBP => Sys2Proof.Machine.execPartitionBP s
  | .mbPartitioned => Sys2Proof.Machine.execMbPartitioned s
  | .quirkResolve => Sys2Proof.Machine.execQuirkResolve s
  | .cmdNop => Sys2Proof.Machine.execCmdNop s
  | .cmdScanHeaders => Sys2Proof.Machine.execCmdScanHeaders s
  | .cmdDecodePicture => Sys2Proof.Machine.execCmdDecodePicture s
  | .cmdSetpos => Sys2Proof.Machine.execCmdSetpos s
  | .cmdResolveQuirks => Sys2Proof.Machine.execCmdResolveQuirks s
  | .cmdClrlog => Sys2Proof.Machine.execCmdClrlog s
  | .cmdReserved6 => Sys2Proof.Machine.execCmdReserved6 s
  | .cmdReserved7 => Sys2Proof.Machine.execCmdReserved7 s
  | .cmdReserved8 => Sys2Proof.Machine.execCmdReserved8 s
  | .cmdReserved9 => Sys2Proof.Machine.execCmdReserved9 s
  | .cmdReserved10 => Sys2Proof.Machine.execCmdReserved10 s
  | .cmdReserved11 => Sys2Proof.Machine.execCmdReserved11 s
  | .cmdReserved12 => Sys2Proof.Machine.execCmdReserved12 s
  | .cmdReserved13 => Sys2Proof.Machine.execCmdReserved13 s
  | .cmdReserved14 => Sys2Proof.Machine.execCmdReserved14 s
  | .cmdReserved15 => Sys2Proof.Machine.execCmdReserved15 s

end Sys2Proof.Machine
end

