-- ==== Sys2Proof/Machine/HostPort.lean ====
section
/-! DEFINITION. What the outside world can do to the machine between steps: host writes, records taken, the reset
input, a peer's publication, the hand-over of SEQ and TIME (10_state.md R59, 30_encoding.md R132 to R134,
60_exceptions.md R388, 70_reset_and_hazards.md R400, R401, R411, R416; log 32). No step calls these. -/

namespace Sys2Proof.Machine

/-- A host write. -/
inductive HostWrite where
  /-- CTRL.CMD -/
  | cmd (v : BitVec 4)
  /-- CTRL.STRICT -/
  | strict (v : Bool)
  /-- CTRL.QUIRK; its reserved bits ignore the write (93_implementation_defined.md U3) -/
  | quirk (v : BitVec 32)
  /-- CTRL.CODEC_TAG -/
  | codecTag (v : BitVec 32)
  /-- CTRL.POS -/
  | pos (v : BitVec 32)
  /-- CTRL.ACK -/
  | ack (v : Bool)
  /-- bytes of BS from an address up -/
  | bytes (addr : Nat) (vs : List Byte)
  /-- LEN -/
  | len (v : BitVec 32)
  /-- the prediction stores, ROWPROG[self] among them (10_state.md R59, R60; log 43) -/
  | stores (t : Stores)
  /-- CFG, checked as it is loaded (44_residual.md R325, 70_reset_and_hazards.md R404) -/
  | cfg (c : Cfg)
deriving DecidableEq, Repr

/-- A host write taken while the block is not busy. A write of the stores replaces ROWPROG[self] too: 10_state.md R60
counts it among the stores that R59 lets the host write, although 20_memory.md R95 gives the counter one writer, its
owner; DEDUCED, log 43. A write of LEN is taken even where it leaves BITPOS beyond the end, against R21, which names no
such write: BITPOS stays and every read from there is exhausted; DESIGN CHOICE, log 55. -/
def State.takeWrite (s : State) : HostWrite → State
  | .cmd v => s.updCtrl (fun c => { c with cmd := v })
  | .strict v => s.updCtrl (fun c => { c with strict := v })
  | .quirk v => s.updCtrl (fun c => { c with quirk := v &&& quirkMask })
  | .codecTag v => s.updCtrl (fun c => { c with codecTag := v })
  | .pos v => s.updCtrl (fun c => { c with pos := v })
  | .ack v => s.updCtrl (fun c => { c with ack := v })
  | .bytes addr vs => { s with bs := Memory.writeBytes s.bs addr vs }
  | .len v => { s with len := v }
  | .stores t => { s with stores := t }
  | .cfg c => if cfgOk c then { s with cfg := c } else s

/-- A host write; while STATUS.BUSY = 1 it has no effect (10_state.md R59, 70_reset_and_hazards.md R416). -/
def State.hostWrite (s : State) (w : HostWrite) : State := if s.busy then s else s.takeWrite w

/-- The records emitted so far, and the port emptied (30_encoding.md R133). -/
def State.takeRecords (s : State) : List PortRecord × State := (s.port, { s with port := [] })

/-- The reset input, at any time (70_reset_and_hazards.md R400, R401). -/
def State.resetInput (s : State) : State := State.resetUnder s.cfg s.coloc

/-- MVMEM with the four words of macroblock `i` at their picture-start value, in a picture `w` macroblocks wide. -/
def clearMotion (w i : Nat) (m : Cells Mv) : Cells Mv :=
  let first := 2 * (i / w) * (2 * w) + 2 * (i % w)
  Cells.clear (Vec.zero 16) (first + 2 * w) 2 (Cells.clear (Vec.zero 16) first 2 m)

/-- What this instance publishes of MVMEM: the words of a macroblock that a failure lost are zero vectors
(70_reset_and_hazards.md R413, 93_implementation_defined.md U17; log 42). -/
def State.publishedMv (s : State) : Cells Mv :=
  s.eng.failed.foldl (fun m i => clearMotion s.mbW i m) s.stores.mvmem

/-- What this instance publishes of MBTYPEMEM: the word of a macroblock that a failure lost is zero
(70_reset_and_hazards.md R413, 93_implementation_defined.md U17; log 42). -/
def State.publishedType (s : State) : Cells MbType :=
  s.eng.failed.foldl (fun m i => Cells.write MbType.zero i MbType.zero m) s.stores.mbtype

/-- A peer's publication: COLOC and ROWPROG[ref] as the peer's instance shows them (20_memory.md R86, R87). -/
def State.observePeer (s peer : State) : State :=
  { s with coloc := ⟨peer.publishedMv, peer.publishedType, peer.stores.rowprog⟩ }

/-- The hand-over of SEQ and TIME from the instance that parsed the previous access unit's VOP header
(70_reset_and_hazards.md R411). -/
def State.handOver (s fromInstance : State) : State := { s with seq := fromInstance.seq, time := fromInstance.time }

end Sys2Proof.Machine
end

