-- ==== Sys2Proof/Machine/Step.lean ====
section
/-! DEFINITION. One step of the machine, and the placing of one instruction where the next step fetches it. -/

namespace Sys2Proof.Machine

/-- The selected operation, decoded and run; a selection that no row of 30_encoding.md R111 answers is refused
(log 21). -/
def runSelected (s : State) : Host.Outcome State Fault Refusal :=
  match decode (fetch s).1 (fetch s).2 with
  | .ok i => exec i s
  | .error e => .refused (.undecodable e)

/-- One step: a move of FSM that runs no operation, or the selected operation (30_encoding.md R110). The steps are the
operations of 70_reset_and_hazards.md R420, without a count of time; log 6. -/
def step (s : State) : Host.Outcome State Fault Refusal :=
  match engineMove s with
  | some t => .next t
  | none => runSelected s

/-- The instruction of an opcode-table word, placed where step fetches its next instruction (log 8): a start code of
32 bits at the aligned cursor in FSM = SCAN of a header run, a command in CTRL.CMD in FSM = IDLE. -/
def State.withFetchWord (s : State) (nbits w : Nat) : State :=
  if nbits = 32 then
    { s with
      bs := Memory.writeBytes s.bs s.scanByte (bytesOfWord32 w)
      len := BitVec.ofNat 32 (max s.len.toNat (s.scanByte + 4))
      fsm := .scan
      ctrl := { s.ctrl with cmd := 1 } }
  else { s with fsm := .idle, ctrl := { s.ctrl with cmd := BitVec.ofNat 4 w } }

end Sys2Proof.Machine
end

