-- ==== Sys2Proof/Safety.lean ====
section
/-! DEFINITION. The terms the statements use: the invariant of every run, the legal moves of FSM, what a statement says
of the bits at a position, and which registers an instruction of each family leaves alone. -/

namespace Sys2Proof.Machine

/-! ## The invariant -/

/-- SEQ holds legal values: 0 to 3 sprite points (10_state.md R26), a time-increment width of at most 16 and a
quantiser precision of 3 to 9 (R24), four matrices of 64 entries (R24), a text of at most 255 bytes (R28). -/
def Seq.legal (q : Seq) : Bool :=
  decide (q.numSpriteWarpingPoints.toNat ≤ 3) && decide (q.timeIncrementBits.toNat ≤ 16)
    && decide (3 ≤ q.quantPrecision.toNat) && decide (q.quantPrecision.toNat ≤ 9)
    && decide (q.intraMatrix.length = 64) && decide (q.interMatrix.length = 64)
    && decide (q.chromaIntraMatrix.length = 64) && decide (q.chromaInterMatrix.length = 64)
    && decide (q.userDataLen.toNat ≤ 255) && Cells.wf 0 q.userData

/-- PIC holds legal values: no range code is 0 (10_state.md R31, R36), 0 to 3 effective sprite points (R35). -/
def Pic.legal (p : Pic) : Bool :=
  decide (p.fCode ≠ 0) && decide (p.bCode ≠ 0) && decide (p.realSpriteWarpingPoints.toNat ≤ 3)

/-- The six coefficient blocks of MB are in canonical form. -/
def Mb.wf (m : Mb) : Bool :=
  Cells.wf 0 m.block.b0 && Cells.wf 0 m.block.b1 && Cells.wf 0 m.block.b2
    && Cells.wf 0 m.block.b3 && Cells.wf 0 m.block.b4 && Cells.wf 0 m.block.b5

/-- The prediction stores are in canonical form. -/
def Stores.wf (t : Stores) : Bool :=
  Cells.wf dcUnlisted t.dcLuma && Cells.wf dcUnlisted t.dcCb && Cells.wf dcUnlisted t.dcCr
    && Cells.wf 0 t.acLuma && Cells.wf 0 t.acCb && Cells.wf 0 t.acCr && Cells.wf 0 t.qmem
    && Cells.wf (Vec.zero 16) t.mvmem && Cells.wf MbType.zero t.mbtype && Cells.wf PartRec.zero t.partmem

/-- The launch premise that the cursor, and the 32 bits of STATUS.ERRPOS, can hold 8*LEN (70_reset_and_hazards.md R407,
10_state.md R21). -/
def State.lenFits (s : State) : Bool := decide (8 * s.len.toNat < 2 ^ s.cfg.cursorBits ∧ 8 * s.len.toNat < 4294967296)

/-- The invariant of every run: BS and the stores in canonical form, the cursor and the last slice start inside BS
(10_state.md R21), legal SEQ and PIC, the reserved bits of CTRL.QUIRK and STATUS.LOG zero (R58,
93_implementation_defined.md U3), under the launch premise on LEN. -/
def State.inv (s : State) : Bool :=
  Memory.wf s.bs && s.lenFits && decide (s.pos ≤ s.endPos) && decide (s.slice.lastResyncPos.toNat ≤ s.endPos)
    && s.seq.legal && s.pic.legal && s.mb.wf && s.stores.wf
    && decide (s.ctrl.quirk &&& quirkMask = s.ctrl.quirk) && decide (s.status.log &&& 0xFFFF = s.status.log)

/-! ## The moves of FSM -/

/-- The states a step may leave `f` for (30_encoding.md R110): a start code in SCAN may run EXT in place, whose
truncation is fatal; IDLE, WAIT_ROW, DONE and ERROR may wait; RESYNC_CHECK takes several steps. -/
def nextStates : Fsm → List Fsm
  | .idle => [.idle, .scan, .hdrVop, .done]
  | .scan => [.scan, .hdrVos, .hdrVo, .hdrVol, .hdrVolStudio, .hdrGop, .hdrUser, .hdrVop, .done, .error]
  | .hdrVos => [.scan, .error]
  | .hdrVo => [.scan, .error]
  | .hdrVol => [.scan, .error]
  | .hdrVolStudio => [.scan, .error]
  | .hdrGop => [.scan, .error]
  | .hdrUser => [.scan, .error]
  | .hdrVop => [.sliceStart, .done, .error]
  | .sliceStart => [.partA, .mb]
  | .partA => [.partB, .resyncCheck, .error]
  | .partB => [.mb, .resyncCheck, .error]
  | .mb => [.waitRow, .resyncCheck, .error]
  | .resyncCheck => [.resyncCheck, .mb, .sliceStart, .done, .error]
  | .waitRow => [.waitRow, .mb]
  | .done => [.done, .idle]
  | .error => [.error, .idle]

/-! ## What stands in the bitstream -/

/-- Table `tb` reads its code word `row` at bit `p` (20_memory.md R77). -/
def State.readsRow (s : State) (tb : VlcTable) (p : Nat) (row : VlcRow) : Bool :=
  (s.cfg.table tb).find? (s.setPos p).matchesRow == some row

/-- The bit after the symbols of `l`, each read from its table, one after the other from bit `p` on; `none` where one
of them does not stand there. -/
def State.readsNumbers (s : State) : List (VlcTable × Nat) → Nat → Option Nat
  | [], p => some p
  | (tb, n) :: rest, p =>
    match (s.cfg.table tb).find? (s.setPos p).matchesRow with
    | some row => if numberOf tb (some row.sym) = some n then s.readsNumbers rest (p + row.len) else none
    | none => none

/-- The motion-vector component that stands at bit `p`, predicted from `pred` under the range code `fc`, and the bit
after it (43_macroblock.md R257, R258); `none` where none stands there whole. -/
def State.readsMvd (s : State) (pred : Int) (fc p : Nat) : Option (Int × Nat) :=
  match (s.cfg.table .mv).find? (s.setPos p).matchesRow with
  | some row =>
    let q := p + row.len
    match numberOf .mv (some row.sym) with
    | some 0 => some (pred, q)
    | some (c + 1) =>
      let size : Int := c * 2 ^ (fc - 1) + s.memRead (q + 1) (fc - 1) + 1
      if q + fc ≤ s.endPos then some (wrapMv (pred + if s.bitAt q = 1 then -size else size) fc, q + fc) else none
    | none => none
  | none => none

/-- The vector that stands at bit `p`, its components predicted from those of `pred`, and the bit after it. -/
def State.readsMv (s : State) (pred : IVec) (fc p : Nat) : Option (IVec × Nat) :=
  match s.readsMvd pred.x fc p with
  | some (x, q) => (s.readsMvd pred.y fc q).map (fun r => (⟨x, r.1⟩, r.2))
  | none => none

/-- The `n` bits from bit `p` up stand inside BS and have the value `v`. -/
def State.bitsAre (s : State) (p n v : Nat) : Bool := decide (p + n ≤ s.endPos) && decide (s.memRead p n = v)

/-- `s` with the cursor at bit `p`. -/
def State.atBit (s : State) (p : Nat) : State := { s with bitpos := p }

/-- The bits at the cursor are no code word of table `tb` and no beginning of one that BS cuts off: the symbol INVALID
(20_memory.md R77). -/
def State.readsInvalid (s : State) (tb : VlcTable) : Bool :=
  (s.cfg.table tb).all (fun row => !s.matchesRow row && !s.runsOutIn row)

/-! ## Frames -/

/-- Nothing but BITPOS, FSM, STATUS, SEQ and TIME.t_frame differs: what a header operation may write (10_state.md R23,
40_header_vol.md R150). -/
def sameButHeader (s t : State) : Prop :=
  t.len = s.len ∧ t.bs = s.bs ∧ t.pic = s.pic ∧ t.time = { s.time with tFrame := t.time.tFrame } ∧ t.slice = s.slice
    ∧ t.mb = s.mb ∧ t.ctrl = s.ctrl ∧ t.stores = s.stores ∧ t.coloc = s.coloc ∧ t.cfg = s.cfg ∧ t.port = s.port
    ∧ t.eng = s.eng

/-- Nothing but the registers of a picture's decode differs: BS, LEN, SEQ, TIME, CTRL, COLOC and CFG are as they were
(60_exceptions.md R386, 20_memory.md R86). -/
def sameButPicture (s t : State) : Prop :=
  t.len = s.len ∧ t.bs = s.bs ∧ t.seq = s.seq ∧ t.time = s.time ∧ t.ctrl = s.ctrl ∧ t.coloc = s.coloc ∧ t.cfg = s.cfg

/-- Every word of every prediction store reads as before, but for the words of the macroblock at SLICE.mb_x, SLICE.mb_y
of `s`: its blocks in DCMEM and ACMEM, its luma blocks in MVMEM, its own word in QMEM and MBTYPEMEM (20_memory.md R81
to R85). -/
def ownSlotsOnly (s t : State) : Prop :=
  (∀ n : Fin 6, ∀ a, (∀ k : Fin 6, (k.val < 4 ↔ n.val < 4) → a ≠ s.blockPos k) →
      Cells.read dcUnlisted (t.stores.dcPlane n) a = Cells.read dcUnlisted (s.stores.dcPlane n) a)
    ∧ (∀ n : Fin 6, ∀ a, (∀ k : Fin 6, (k.val < 4 ↔ n.val < 4) → a / 16 ≠ s.blockPos k) →
      Cells.read 0 (t.stores.acPlane n) a = Cells.read 0 (s.stores.acPlane n) a)
    ∧ (∀ a, (∀ k : Fin 4, a ≠ s.blockPos (lumaBlock k)) →
      Cells.read (Vec.zero 16) t.stores.mvmem a = Cells.read (Vec.zero 16) s.stores.mvmem a)
    ∧ (∀ a, a ≠ s.mbi → Cells.read 0 t.stores.qmem a = Cells.read 0 s.stores.qmem a)
    ∧ (∀ a, a ≠ s.mbi → Cells.read MbType.zero t.stores.mbtype a = Cells.read MbType.zero s.stores.mbtype a)
    ∧ t.stores.partmem = s.stores.partmem

end Sys2Proof.Machine
end

