-- ==== Sys2Proof/Certificates/Slice0/Obligations.lean ====
section
/-! DEFINITION. The statements for the provers. Each is about the machine in the state it names, reachable or not;
none is about a program. -/

open Sys2Proof Sys2Proof.Machine

/-- Decode and encode agree on every well-formed instruction (30_encoding.md R102, R108, R111, R130). -/
def Obligations.DecodeEncodeRoundTrip : Prop :=
  ∀ i : Instr, i.wellFormed = true → decode (encode i).1 (encode i).2 = .ok i

/-- Words written out from the encodings of 30_encoding.md R101, R102 and R130 decode to the instructions they stand
for. -/
def Obligations.TableWordsDecode : Prop :=
  decodeTableWord 32 0x00000100 = some (.scVoObj 0x00) ∧ decodeTableWord 32 0x0000011F = some (.scVoObj 0x1F)
    ∧ decodeTableWord 32 0x00000120 = some (.scVol 0x20) ∧ decodeTableWord 32 0x0000012F = some (.scVol 0x2F)
    ∧ decodeTableWord 32 0x00000130 = some (.scReserved 0x30) ∧ decodeTableWord 32 0x000001AF = some (.scReserved 0xAF)
    ∧ decodeTableWord 32 0x000001B0 = some .scVos ∧ decodeTableWord 32 0x000001B1 = some .scVosEnd
    ∧ decodeTableWord 32 0x000001B2 = some .scUser ∧ decodeTableWord 32 0x000001B3 = some .scGop
    ∧ decodeTableWord 32 0x000001B4 = some .scSessionErr ∧ decodeTableWord 32 0x000001B5 = some .scVisobj
    ∧ decodeTableWord 32 0x000001B6 = some .scVop ∧ decodeTableWord 32 0x000001B7 = some .scSlice
    ∧ decodeTableWord 32 0x000001B8 = some .scExt ∧ decodeTableWord 32 0x000001B9 = some (.scOther 0xB9)
    ∧ decodeTableWord 32 0x000001FF = some (.scOther 0xFF) ∧ decodeTableWord 32 0x00000200 = none
    ∧ decodeTableWord 8 0 = some .cmdNop ∧ decodeTableWord 8 1 = some .cmdScanHeaders
    ∧ decodeTableWord 8 2 = some .cmdDecodePicture ∧ decodeTableWord 8 3 = some .cmdSetpos
    ∧ decodeTableWord 8 4 = some .cmdResolveQuirks ∧ decodeTableWord 8 5 = some .cmdClrlog
    ∧ decodeTableWord 8 6 = some .cmdReserved6 ∧ decodeTableWord 8 15 = some .cmdReserved15
    ∧ decodeTableWord 8 16 = none

/-- A step is the move of FSM where FSM makes one, and otherwise runs the decoded instruction (30_encoding.md R110,
R111). Nothing is added around exec: an operation moves the cursor itself. -/
def Obligations.StepRunsDecoded : Prop :=
  ∀ s : State,
    (∀ i, engineMove s = none → decode (fetch s).1 (fetch s).2 = .ok i → i.wellFormed = true → step s = exec i s)
      ∧ ∀ t, engineMove s = some t → step s = .next t

/-- In SCAN the four bytes at the aligned cursor, and in IDLE the command register, decide what a step runs; the
suffix is classed by CFG.GRAMMAR.sc_class (30_encoding.md R101, R102, R110, R130). -/
def Obligations.StepInScanAndIdle : Prop :=
  ∀ s : State,
    (∀ c : Byte, s.fsm = .scan → s.scanByte + 4 ≤ s.len.toNat → s.byteAt s.scanByte = 0 →
        s.byteAt (s.scanByte + 1) = 0 → s.byteAt (s.scanByte + 2) = 1 → s.byteAt (s.scanByte + 3) = c →
        step s = exec (startCodeClass s.cfg.scClass c) s)
      ∧ (s.fsm = .idle → step s = exec (commandOf s.ctrl.cmd) s)

/-- Every step keeps the invariant of Safety.lean, from every state, reachable or not, and never moves the cursor
backward but for SETPOS and the start of a recovery search (10_state.md R21, 45_resync.md R350,
70_reset_and_hazards.md R420). -/
def Obligations.StepKeepsInvariantAndGoesForward : Prop :=
  ∀ s t : State, s.inv = true → step s = .next t →
    t.inv = true
      ∧ (s.bitpos ≤ t.bitpos ∨ (s.fsm = .idle ∧ s.ctrl.cmd = 3) ∨ (s.fsm = .resyncCheck ∧ s.eng.phase = .recover))

/-- The state after reset meets the invariant (70_reset_and_hazards.md R400). That LEN is 0 there is the model's
choice: log 2. -/
def Obligations.ResetMeetsInvariant : Prop :=
  State.reset.inv = true ∧ ∀ s : State, s.resetInput.inv = true

/-- FSM moves only along the transitions of 30_encoding.md R110 and 60_exceptions.md R371, from every state. -/
def Obligations.FsmMovesAreLegal : Prop :=
  ∀ s t : State, step s = .next t → t.fsm ∈ nextStates s.fsm

/-- The frame of every instruction over the host's and the peers' state (20_memory.md R70, R86; 10_state.md R55, R61).
-/
def Obligations.BitstreamIsReadOnly : Prop :=
  ∀ (i : Instr) (s t : State), exec i s = .next t →
    (∀ a, Memory.read t.bs a = Memory.read s.bs a) ∧ t.bs = s.bs ∧ t.len = s.len ∧ t.coloc = s.coloc
      ∧ (i ≠ .quirkResolve → i ≠ .cmdResolveQuirks → t.ctrl = s.ctrl ∧ t.cfg = s.cfg)

/-- What the reset input leaves, from any state: every register with a reset value, SEQ whole (70_reset_and_hazards.md
R400, R401; 10_state.md R24, R25, R28, R29; 40_header_vol.md R144, R160). BS, LEN, which the spec leaves unspecified,
are not stated; that the bytes of the text buffer read 0 is the model's choice: log 28. -/
def Obligations.ResetLeavesTheSpecsValues : Prop :=
  ∀ s : State, let t := s.resetInput
    let perm := s.cfg.idctPermInit
    t.bitpos = 0 ∧ t.fsm = .idle ∧ t.busy = false ∧ t.pic = Pic.reset ∧ t.time = ⟨0, 0, 0, 0, 0⟩
      ∧ t.slice = Slice.reset ∧ t.mb = Mb.reset ∧ t.ctrl = ⟨0, false, 0, 0, 0, false⟩
      ∧ t.status = ⟨.none, .none, 0, false, 0⟩ ∧ t.stores = Stores.initial ∧ t.coloc = s.coloc
      ∧ t.cfg = { s.cfg with idctPerm := perm }
      ∧ t.seq =
        { shape := 0, chromaFormat := 1, bitDepth := 8, timeIncrementBits := 0, quantPrecision := 5
          spriteUsage := 0, numSpriteWarpingPoints := 0, spriteWarpingAccuracy := 0
          intraMatrix := t.seq.intraMatrix, interMatrix := t.seq.interMatrix
          chromaIntraMatrix := t.seq.intraMatrix, chromaInterMatrix := t.seq.interMatrix
          scalability := false, enhancementType := false, resyncMarker := false, dataPartitioning := false
          rvlc := false, studioProfile := false, width := 0, height := 0, contextReinit := false
          timeIncrementResolution := 0, fixedVopTimeIncrement := 1, profile := 0, level := 0
          reducedResVop := false, interlaced := false, mpegQuant := false, quarterSample := false
          voVerId := 1, voVerIdVo := 1, lowDelay := false, spriteBrightnessChange := false, newPred := false
          volControl := false, valid := false, trashI := 0, trashP := 0, trashB := 0
          userData := [], userDataLen := 0
          divxVersion := -1, divxBuild := -1, xvidBuild := -1, lavcBuild := -1 }
      ∧ (isPerm64 perm = true → isPerm64 s.cfg.zigzag = true → s.cfg.defaultIntra.length = 64 →
        s.cfg.defaultInter.length = 64 → ∀ i, i < 64 →
        t.seq.intraMatrix.getD (permAt perm (permAt s.cfg.zigzag i)) 0 = s.cfg.defaultIntra.getD i 0
          ∧ t.seq.interMatrix.getD (permAt perm (permAt s.cfg.zigzag i)) 0 = s.cfg.defaultInter.getD i 0)
      ∧ (∀ i, Cells.read 0 t.seq.userData i = 0)
      ∧ t.pic.fCode = 1 ∧ t.pic.bCode = 1 ∧ t.mb.lastIndex = Six.all (-1) ∧ (∀ n : Fin 6, ∀ a,
        Cells.read dcUnlisted (t.stores.dcPlane n) a = 1024 ∧ Cells.read 0 (t.stores.acPlane n) a = 0)

/-- The no-operation start codes, for every suffix of their class: the whole next state (30_encoding.md R112). -/
def Obligations.NoOpStartCodesScanOn : Prop :=
  ∀ s : State, s.lenFits = true → s.scanByte + 4 ≤ s.len.toNat →
    let t : State := { s.atBit (8 * (s.scanByte + 4)) with fsm := .scan }
    (∀ c : Byte, c.toNat ≤ 0x1F → exec (.scVoObj c) s = .next t)
      ∧ (∀ c : Byte, 0x30 ≤ c.toNat → c.toNat ≤ 0xAF → exec (.scReserved c) s = .next t)
      ∧ (∀ c : Byte, 0xB9 ≤ c.toNat → exec (.scOther c) s = .next t)
      ∧ exec .scVosEnd s = .next t ∧ exec .scSessionErr s = .next t

/-- The start codes that select a header: the whole next state (30_encoding.md R102, R110; 40_header_vol.md R142,
R145). -/
def Obligations.HeaderStartCodesSelectTheirHeader : Prop :=
  ∀ s : State, s.lenFits = true → s.scanByte + 4 ≤ s.len.toNat →
    let t : State := s.atBit (8 * (s.scanByte + 4))
    (∀ c : Byte, 0x20 ≤ c.toNat → c.toNat ≤ 0x2F →
        exec (.scVol c) s = .next { t with fsm := if s.seq.studioProfile then .hdrVolStudio else .hdrVol })
      ∧ exec .scVos s = .next { t with fsm := .hdrVos }
      ∧ exec .scUser s = .next { t with fsm := .hdrUser }
      ∧ exec .scGop s = .next { t with fsm := .hdrGop }
      ∧ exec .scVisobj s = .next { t with fsm := .hdrVo }
      ∧ exec .scSlice s = .next { t with fsm := .scan }
      ∧ exec .scVop s = .next
          (if s.ctrl.cmd = 1 then { t with fsm := .done, status := { s.status with result := .okAtVop } }
           else { t with fsm := .hdrVop })

/-- EXT and its start code: the whole next state of four forms (40_header_vol.md R172, 30_encoding.md R102). That
flags and entries alternate, that EXT ends OK with FSM = SCAN and skips the other ids is log 26; that a start code
runs EXT in place is log 39. -/
def Obligations.ExtLoadsMatricesInAStudioStream : Prop :=
  ∀ s : State, s.lenFits = true →
    let done (t : State) : State := { t with fsm := .scan, status := { s.status with result := .ok } }
    (s.seq.studioProfile = false → exec .extUnit s = .next (done s))
      ∧ (s.seq.studioProfile = true → s.pos + 4 ≤ s.endPos → s.memRead s.pos 4 ≠ 3 →
        exec .extUnit s = .next (done (s.atBit (s.pos + 4))))
      ∧ (s.seq.studioProfile = true → s.bitsAre s.pos 8 0x30 = true →
        exec .extUnit s = .next (done (s.atBit (s.pos + 8))))
      ∧ (∀ vs : List Byte, s.seq.studioProfile = true → vs.length = 64 → s.bitsAre s.pos 5 7 = true →
        (∀ k, k < 64 → s.memRead (s.pos + 5 + 8 * k) 8 = (vs.getD k 0).toNat) →
        s.bitsAre (s.pos + 517) 3 0 = true →
        exec .extUnit s = .next (done { s.atBit (s.pos + 520) with
          seq := { s.seq with intraMatrix := putScanList s.cfg.idctPerm s.cfg.zigzag 0 vs s.seq.intraMatrix } }))
      ∧ (s.scanByte + 4 ≤ s.len.toNat → exec .scExt s = exec .extUnit (s.atBit (8 * (s.scanByte + 4))))
      ∧ (s.scanByte + 4 ≤ s.len.toNat → s.seq.studioProfile = false →
        exec .scExt s = .next (done (s.atBit (8 * (s.scanByte + 4)))))

/-- SCAN: the first start code from the aligned cursor, or the end of the data (40_header_vol.md R141), its suffix
classed by CFG.GRAMMAR.sc_class. -/
def Obligations.ScanFindsTheFirstStartCode : Prop :=
  ∀ s : State, s.lenFits = true →
    (∀ p, s.scanByte ≤ p → p + 4 ≤ s.len.toNat → s.prefixAt p = true →
        (∀ q, s.scanByte ≤ q → q < p → s.prefixAt q = false) →
        exec .scan s = exec (startCodeClass s.cfg.scClass (s.byteAt (p + 3))) (s.atBit (8 * p))
          ∧ ∃ t, exec .scan s = .next t)
      ∧ ((∀ p, s.scanByte ≤ p → p + 4 ≤ s.len.toNat → s.prefixAt p = false) →
        exec .scan s = .next { s.atBit s.endPos with
          fsm := .done
          status := { s.status with result := .endOfData, tag := .scan, errpos := BitVec.ofNat 32 s.endPos } })

/-- VOS: the whole next state (40_header_vol.md R143). Said of the default layout of CFG.GRAMMAR. -/
def Obligations.VosTellsAStudioStream : Prop :=
  ∀ s : State, s.lenFits = true → s.cfg.layout = Config.layout →
    (s.pos + 8 ≤ s.endPos →
      let profile := s.memRead s.pos 4
      let level := if profile = 0 ∧ s.memRead (s.pos + 4) 4 = 8 then 0 else s.memRead (s.pos + 4) 4
      exec .vos s = .next { s.atBit (s.pos + 8) with
        fsm := .scan
        status := { s.status with result := .ok }
        seq := { s.seq with
          profile := BitVec.ofNat 4 profile
          level := BitVec.ofNat 4 level
          studioProfile := decide (profile = s.cfg.studioProfileCode.toNat ∧ 1 ≤ level ∧ level ≤ 8) } })
      ∧ (s.endPos < s.pos + 8 → ∃ t, exec .vos s = .next t ∧ t.fsm = .error ∧ t.status.result = .fatalTruncated
        ∧ t.status.tag = .vos ∧ t.seq = { s.seq with
          profile := if s.pos + 4 ≤ s.endPos then BitVec.ofNat 4 (s.memRead s.pos 4) else s.seq.profile })

/-- VO in every form: the whole next state (40_header_vol.md R144). Said of the default layout of CFG.GRAMMAR. -/
def Obligations.VoConsumesItsFields : Prop :=
  ∀ s : State, s.lenFits = true → s.cfg.layout = Config.layout →
    let a := s.pos + (if s.bitAt s.pos = 1 then 8 else 1)
    let video := s.memRead a 4 = 1 ∨ s.memRead a 4 = 2
    let stop := a + 4 + (if video then (if s.bitAt (a + 4) = 1 then (if s.bitAt (a + 9) = 1 then 30 else 6) else 1)
      else 0)
    stop ≤ s.endPos →
    exec .vo s = .next { s.atBit stop with
      fsm := .scan
      status := { s.status with result := .ok }
      seq := { s.seq with
        voVerIdVo := if s.bitAt s.pos = 1 then BitVec.ofNat 4 (s.memRead (s.pos + 1) 4) else s.seq.voVerIdVo } }

/-- GOP, with its marker bit set, tolerated, and refused (40_header_vol.md R173, 30_encoding.md R103). Said of the
default layout of CFG.GRAMMAR. -/
def Obligations.GopConsumesTwentyBits : Prop :=
  ∀ s : State, s.lenFits = true → s.cfg.layout = Config.layout → s.pos + 20 ≤ s.endPos →
    (s.bitAt (s.pos + 11) = 1 → exec .gop s = .next
        { s.atBit (s.pos + 20) with fsm := .scan, status := { s.status with result := .ok } })
      ∧ (s.bitAt (s.pos + 11) = 0 → s.ctrl.strict = false → exec .gop s = .next
        { s.atBit (s.pos + 20) with
          fsm := .scan, status := { s.status with result := .ok, log := s.status.log ||| 1 } })
      ∧ (s.bitAt (s.pos + 11) = 0 → s.ctrl.strict = true → ∃ t, exec .gop s = .next t ∧ t.fsm = .scan
        ∧ t.status.result = .invalidData ∧ t.status.tag = .gop ∧ t.status.log = s.status.log ∧ t.seq = s.seq)

/-- USERDATA: the buffer byte by byte, and the rest of the next state (40_header_vol.md R174). That the bytes beyond
the terminator stay as they were is the model's choice: log 28. -/
def Obligations.UserdataCopiesTheText : Prop :=
  ∀ (s : State) (n : Nat), s.lenFits = true → Cells.wf 0 s.seq.userData = true → s.scanByte + n ≤ s.len.toNat →
    (∀ q, s.scanByte ≤ q → q < s.scanByte + n → s.prefixAt q = false) →
    (s.prefixAt (s.scanByte + n) = true ∨ s.scanByte + n = s.len.toNat) →
    ∃ t, exec .userdata s = .next t
      ∧ t = { s.atBit (8 * (s.scanByte + n)) with
          fsm := .scan
          status := { s.status with result := .ok }
          seq := { s.seq with userData := t.seq.userData, userDataLen := BitVec.ofNat 9 (min n 255) } }
      ∧ (∀ k, k < min n 255 → Cells.read 0 t.seq.userData k = s.byteAt (s.scanByte + k))
      ∧ Cells.read 0 t.seq.userData (min n 255) = 0
      ∧ ∀ k, min n 255 < k → Cells.read 0 t.seq.userData k = Cells.read 0 s.seq.userData k

/-- VOL on its shortest rectangular form, any size, resolution, interlace and resync flag: the whole next state
(40_header_vol.md R146 to R168). That TIME.t_frame is 0 is the model's choice between R150 and 70_reset_and_hazards.md
R403: log 51. Said of the default layout of CFG.GRAMMAR. -/
def Obligations.VolWritesAndValidatesSeq : Prop :=
  ∀ s : State, s.lenFits = true → s.cfg.layout = Config.layout →
    let p := s.pos
    let res := s.memRead (p + 18) 16
    let w := s.memRead (p + 37) 13
    let h := s.memRead (p + 51) 13
    p + 74 ≤ s.endPos → s.memRead (p + 10) 4 ≠ 15 → res ≠ 0 → w ≠ 0 → h ≠ 0 →
    s.bitAt (p + 9) = 0 → s.memRead (p + 14) 3 = 0 → s.bitAt (p + 17) = 1 → s.memRead (p + 34) 3 = 5 →
    s.bitAt (p + 50) = 1 → s.bitAt (p + 64) = 1 → s.memRead (p + 67) 4 = 1 → s.memRead (p + 72) 2 = 0 →
    exec .vol s = .next { s.atBit (p + 74) with
      fsm := .scan
      status := { s.status with result := .ok }
      time := { s.time with tFrame := 0 }
      seq := { s.seq with
        voVerId := 1, volControl := false, chromaFormat := 1, shape := 0
        timeIncrementResolution := BitVec.ofNat 16 res
        timeIncrementBits := BitVec.ofNat 5 (max 1 (bitLength (res - 1)))
        fixedVopTimeIncrement := 1
        contextReinit := s.seq.contextReinit || decide (s.seq.width ≠ 0 ∧ s.seq.height ≠ 0
          ∧ (s.seq.width.toNat ≠ w ∨ s.seq.height.toNat ≠ h))
        width := BitVec.ofNat 14 w, height := BitVec.ofNat 14 h
        interlaced := s.bitAt (p + 65) == 1
        spriteUsage := 0, quantPrecision := 5, bitDepth := 8, mpegQuant := false, quarterSample := false
        trashI := 0, trashP := 0, trashB := 0
        resyncMarker := s.bitAt (p + 71) == 0
        dataPartitioning := false, rvlc := false, newPred := false, reducedResVop := false, scalability := false
        valid := true } }

/-- SEQ.valid after a VOL header, in every form and from every state (40_header_vol.md R168, R170; 10_state.md R25;
60_exceptions.md R385). That a refused VOL_STUDIO leaves it 0 too is log 35. -/
def Obligations.VolIsValidOnlyAfterOk : Prop :=
  ∀ (i : Instr) (s t : State), i = .vol ∨ i = .volStudio → exec i s = .next t →
    (t.seq.valid = true ↔ t.fsm = .scan ∧ t.status.result = .ok)
      ∧ (t.fsm = .error → t.status.result.isFatal = true ∧ t.status.picValid = false)

/-- VOL_STUDIO on its form without an extended aspect ratio: the whole next state (40_header_vol.md R170). That a
refused shape leaves SEQ.valid 0 is log 35. Said of the default layout of CFG.GRAMMAR. -/
def Obligations.VolStudioWritesAndValidatesSeq : Prop :=
  ∀ s : State, s.lenFits = true → s.cfg.layout = Config.layout →
    let p := s.pos
    let cf := s.memRead (p + 21) 2
    let w := s.memRead (p + 28) 14
    let h := s.memRead (p + 43) 14
    (p + 147 ≤ s.endPos → s.memRead (p + 13) 2 = 0 → 2 ≤ cf → ¬(s.bitAt (p + 20) = 1 ∧ cf = 2) →
      w ≠ 0 → h ≠ 0 → s.memRead (p + 58) 4 ≠ 15 →
      s.bitAt (p + 27) = 1 → s.bitAt (p + 42) = 1 → s.bitAt (p + 57) = 1 → s.bitAt (p + 81) = 1 →
      s.bitAt (p + 97) = 1 → s.bitAt (p + 113) = 1 → s.bitAt (p + 128) = 1 → s.bitAt (p + 144) = 1 →
      exec .volStudio s = .next { s.atBit (p + 147) with
        fsm := .scan
        status := { s.status with result := .ok, log := s.status.log ||| 0x800 }
        seq := { s.seq with
          shape := 0, interlaced := !(s.bitAt (p + 19) == 1), chromaFormat := BitVec.ofNat 2 cf
          bitDepth := BitVec.ofNat 4 (s.memRead (p + 23) 4)
          contextReinit := s.seq.contextReinit || decide (s.seq.width ≠ 0 ∧ s.seq.height ≠ 0
            ∧ (s.seq.width.toNat ≠ w ∨ s.seq.height.toNat ≠ h))
          width := BitVec.ofNat 14 w, height := BitVec.ofNat 14 h
          lowDelay := s.bitAt (p + 145) == 1, mpegQuant := s.bitAt (p + 146) == 1, valid := true } })
      ∧ (p + 20 ≤ s.endPos → s.memRead (p + 13) 2 ≠ 0 → ∃ t, exec .volStudio s = .next t ∧ t.fsm = .scan
        ∧ t.status.result = .invalidData ∧ t.status.tag = .volStudioShape ∧ t.seq.valid = false)

/-- LOAD_QMATRIX of either kind, for every run of values (40_header_vol.md R160). -/
def Obligations.LoadQmatrixReplicatesTheLast : Prop :=
  ∀ (kind : MatKind) (vs : List Byte) (s : State), s.lenFits = true → vs.length ≤ 64 →
    s.pos + 8 * vs.length ≤ s.endPos →
    (∀ k, k < vs.length → s.memRead (s.pos + 8 * k) 8 = (vs.getD k 0).toNat ∧ vs.getD k 0 ≠ 0) →
    let stop := s.pos + 8 * vs.length
    let load (m : List Byte) : List Byte := fillScan s.cfg.idctPerm s.cfg.zigzag (vs.getLastD 0) vs.length
      (64 - vs.length) (putScanList s.cfg.idctPerm s.cfg.zigzag 0 vs m)
    let seq (f : List Byte → List Byte) : Seq := match kind with
      | .intra => { s.seq with
          intraMatrix := f s.seq.intraMatrix, chromaIntraMatrix := f s.seq.chromaIntraMatrix }
      | .inter => { s.seq with
          interMatrix := f s.seq.interMatrix, chromaInterMatrix := f s.seq.chromaInterMatrix }
    (vs.length = 64 → exec (.loadQmatrix kind) s = .next { s.atBit stop with seq := seq load })
      ∧ (vs.length < 64 → s.bitsAre stop 8 0 = true →
        exec (.loadQmatrix kind) s = .next { s.atBit (stop + 8) with seq := seq load })
      ∧ (vs.length < 64 → s.endPos < stop + 8 → ∃ t, exec (.loadQmatrix kind) s = .next t ∧ t.fsm = .error
        ∧ t.status.result = .fatalTruncated ∧ t.status.tag = .volQmatrix
        ∧ t.seq = seq (putScanList s.cfg.idctPerm s.cfg.zigzag 0 vs))

/-- CPLX_EST: disabled, the texture flags, the rewind, and an unknown method (40_header_vol.md R163, R164). Said of
the default layout of CFG.GRAMMAR. -/
def Obligations.CplxEstCountsOrRewinds : Prop :=
  ∀ s : State, s.lenFits = true → s.cfg.layout = Config.layout →
    let p := s.pos
    let seq (i q : Nat) : Seq := { s.seq with trashI := BitVec.ofNat 8 i, trashP := BitVec.ofNat 8 q, trashB := 0 }
    (s.bitsAre p 1 1 = true → exec .cplxEst s = .next { s.atBit (p + 1) with seq := seq 0 0 })
      ∧ (s.bitsAre p 5 2 = true → s.bitsAre (p + 9) 4 0xF = true →
        exec .cplxEst s = .next { s.atBit (p + 13) with
          seq := seq (8 * (s.bitAt (p + 5) + s.bitAt (p + 8))) (8 * (s.bitAt (p + 6) + s.bitAt (p + 7))) })
      ∧ (s.bitsAre p 2 0 = true → s.bitsAre (p + 3) 3 6 = true →
        exec .cplxEst s = .next { s.atBit (p + 1) with
          seq := seq 0 0, status := { s.status with log := s.status.log ||| 0x200 } })
      ∧ (s.bitsAre p 2 1 = true → p + 3 ≤ s.endPos →
        exec .cplxEst s = .next { s.atBit (p + 3) with
          seq := seq 0 0, status := { s.status with log := s.status.log ||| 0x8000 } })

/-- The frame of the header operations, in every form (10_state.md R23; 40_header_vol.md R142; 60_exceptions.md R371).
-/
def Obligations.HeaderLeavesThePictureAlone : Prop :=
  ∀ (i : Instr) (s t : State),
    (i = .vos ∨ i = .vo ∨ i = .vol ∨ i = .volStudio ∨ (∃ k, i = .loadQmatrix k) ∨ i = .cplxEst ∨ i = .extUnit ∨ i = .gop
      ∨ i = .userdata ∨ i = .scan ∨ (∃ k c, i = startCodeClass k c)) →
    exec i s = .next t → sameButHeader s t

/-- TIME_INCR on every run of ones that fits its register (41_header_vop.md R184). Said of the default rows of
CFG.GRAMMAR. -/
def Obligations.TimeIncrCountsOnes : Prop :=
  ∀ (s : State) (k : Nat), s.lenFits = true → s.cfg.layout.timeIncr = Config.timeIncrRows → k < 65536 → s.pos + k ≤ s.endPos →
    (∀ j, j < k → s.bitAt (s.pos + j) = 1) →
    let t : State := { s.atBit (s.pos + k + 2) with pic := { s.pic with timeIncr := BitVec.ofNat 16 k } }
    (s.bitsAre (s.pos + k) 2 1 = true → exec .timeIncr s = .next t)
      ∧ (s.bitsAre (s.pos + k) 2 0 = true → s.ctrl.strict = false →
        exec .timeIncr s = .next { t with status := { s.status with log := s.status.log ||| 1 } })
      ∧ (s.bitsAre (s.pos + k) 2 0 = true → s.ctrl.strict = true → ∃ u, exec .timeIncr s = .next u
        ∧ u.fsm = .error ∧ u.status.result = .invalidData ∧ u.status.tag = .vopBeforeTimeInc)
      ∧ (s.pos + k = s.endPos → ∃ u, exec .timeIncr s = .next u ∧ u.fsm = .error
        ∧ u.status.result = .fatalTruncated ∧ u.status.tag = .vop)

/-- TI_HEAL: the least matching width, and the whole next state (41_header_vop.md R186). -/
def Obligations.TiHealTakesTheFirstWidth : Prop :=
  ∀ (s : State) (n : Nat),
    let fits (k : Nat) : Prop :=
      if s.pic.pictType = .p ∨ (s.pic.pictType = .s ∧ s.seq.spriteUsage = 2) then
        s.memRead s.pos (k + 6) &&& 0x37 = 0x30
      else s.memRead s.pos (k + 5) &&& 0x1F = 0x18
    1 ≤ n → (∀ k, 1 ≤ k → k < n → ¬fits k) → (n = 16 ∨ (n < 16 ∧ fits n)) →
    exec .tiHeal s = .next { s with
      seq := { s.seq with timeIncrementBits := BitVec.ofNat 5 n }
      pic := { s.pic with tiHealed := true }
      status := { s.status with log := s.status.log ||| 0x10 } }

/-- VOP on a coded I picture: the whole next state (41_header_vop.md R180 to R200). That PIC's registers which the
header does not carry take their reset values is log 48, that SLICE.first_slice_line is 1 log 49. Said of the default
layout of CFG.GRAMMAR. -/
def Obligations.VopStartsAnIntraPicture : Prop :=
  ∀ s : State, s.lenFits = true → s.cfg.layout = Config.layout →
    let p := s.pos
    let n := s.seq.timeIncrementBits.toNat
    let v := s.memRead (p + 4) n
    let q := s.memRead (p + 9 + n) s.seq.quantPrecision.toNat
    let time : Int := s.time.timeBase.toInt * s.seq.timeIncrementResolution.toNat + v
    s.seq.valid = true → s.seq.width ≠ 0 → s.seq.height ≠ 0 → s.seq.newPred = false → s.seq.shape = 0 →
    s.seq.trashI = 0 → s.seq.interlaced = false → s.seq.scalability = false → s.quirk .is3iv1 = false →
    s.quirk .ump4 = false → 1 ≤ n → n ≤ 16 → s.seq.quantPrecision.toNat ≤ 9 →
    s.bitsAre p 4 1 = true → s.bitsAre (p + 4 + n) 2 3 = true →
    p + 9 + n + s.seq.quantPrecision.toNat ≤ s.endPos → q ≠ 0 →
    exec .vop s = .next { s.atBit (p + 9 + n + s.seq.quantPrecision.toNat) with
      fsm := .sliceStart
      status := { s.status with result := .ok, picValid := true }
      stores := Stores.initial
      eng := { s.eng with failed := [] }
      time := { s.time with
        lastTimeBase := s.time.timeBase
        ppTime := BitVec.ofInt 32 (time - s.time.lastNonBTime.toInt)
        lastNonBTime := BitVec.ofInt 64 time }
      slice :=
        { mbX := 0, mbY := 0, resyncMbX := 0, resyncMbY := 0, firstSliceLine := true, mbNumLeft := 0, mbValid := 0
          mbErr := 0, lastResyncPos := 0, nextMbi := 0, lastMvFwd := ⟨⟨0, 0⟩, ⟨0, 0⟩⟩, lastMvBwd := ⟨⟨0, 0⟩, ⟨0, 0⟩⟩ }
      pic :=
        { pictType := .i, partitionedFrame := s.seq.dataPartitioning, timeIncr := 0, timeIncrement := BitVec.ofNat 16 v
          time := BitVec.ofInt 64 time, ppTime := BitVec.ofInt 32 (time - s.time.lastNonBTime.toInt)
          pbTime := 0, ppFieldTime := 0, pbFieldTime := 0
          vopCoded := true, noRounding := false, tiHealed := false, gmcOverflow := false
          intraDcThreshold := ([99, 13, 15, 17, 19, 21, 23, 0] : List (BitVec 7)).getD (s.memRead (p + 6 + n) 3) 0
          topFieldFirst := false, alternateScan := false
          qscale := BitVec.ofNat 9 q, chromaQscale := BitVec.ofNat 9 q, fCode := 1, bCode := 1
          spriteTraj := ⟨⟨0, 0⟩, ⟨0, 0⟩, ⟨0, 0⟩, ⟨0, 0⟩⟩
          spriteOffsetLuma := ⟨0, 0⟩, spriteOffsetChroma := ⟨0, 0⟩, spriteDeltaX := ⟨0, 0⟩, spriteDeltaY := ⟨0, 0⟩
          spriteShiftLuma := 0, spriteShiftChroma := 0, realSpriteWarpingPoints := 0 } }

/-- VOP on a picture that is skipped (41_header_vop.md R189, R192; 60_exceptions.md R371, R384). That STATUS.ERRPOS
stands after the vop_coded bit is log 41; that the three tests of R189 alone decide is log 50. Said of the default
layout of CFG.GRAMMAR. -/
def Obligations.VopSkipsTheFrame : Prop :=
  ∀ s : State, s.lenFits = true → s.cfg.layout = Config.layout →
    let p := s.pos
    let n := s.seq.timeIncrementBits.toNat
    let v := s.memRead (p + 4) n
    s.seq.valid = true → s.seq.width ≠ 0 → s.seq.height ≠ 0 → s.quirk .is3iv1 = false → 1 ≤ n → n ≤ 16 →
    s.bitsAre (p + 2) 2 1 = true →
    (s.memRead p 2 ≠ 2 → s.bitsAre (p + 4 + n) 2 2 = true → ∃ t, exec .vop s = .next t ∧ t.fsm = .done
        ∧ t.status = ⟨.frameSkipped, .vopNotCoded, BitVec.ofNat 32 (p + 6 + n), false, s.status.log ||| 0x80⟩
        ∧ t.pic.vopCoded = false ∧ t.seq = s.seq ∧ t.slice = s.slice ∧ t.mb = s.mb ∧ t.stores = s.stores)
      ∧ (s.memRead p 2 = 2 → s.bitsAre (p + 4 + n) 1 1 = true →
        let pp := s.time.ppTime.toInt
        let pb := pp - (s.time.lastNonBTime.toInt
          - (s.time.lastTimeBase.toInt * s.seq.timeIncrementResolution.toNat + v))
        pb < 2147483648 → -2147483648 ≤ pb → (pp ≤ pb ∨ pp ≤ pp - pb ∨ pp ≤ 0) →
        ∃ t, exec .vop s = .next t ∧ t.fsm = .done
          ∧ t.status = ⟨.frameSkipped, .vopBTiming, BitVec.ofNat 32 (p + 4 + n), false, s.status.log ||| 0x100⟩
          ∧ t.pic.pictType = .b ∧ t.time = s.time ∧ t.seq = { s.seq with lowDelay := t.seq.lowDelay }
          ∧ t.slice = s.slice ∧ t.mb = s.mb ∧ t.stores = s.stores)

/-- VOP without a valid sequence: no bit is read (41_header_vop.md R181). Here and below `toU 32 s.pos` is the cursor as
the 32 bits of STATUS.ERRPOS or SLICE.last_resync_pos take it: a cursor that they cannot hold is log 3. -/
def Obligations.VopWithoutVolIsFatal : Prop :=
  ∀ s : State, s.seq.valid = false ∨ s.seq.width = 0 ∨ s.seq.height = 0 →
    ∃ rows, exec .vop s = .next { s with
      fsm := .error
      status := { s.status with result := .fatalNoVol, tag := .vop, errpos := toU 32 s.pos, picValid := false }
      pic := { s.pic with tiHealed := false, gmcOverflow := false }
      stores := { s.stores with rowprog := rows } }

/-- The frame of VOP in every form (41_header_vop.md R180 to R200; 60_exceptions.md R384); TIME of a B picture rests on
the order of the steps, and is said of the default layout. That the picture start comes after the last field of the
header is log 46. -/
def Obligations.VopLeavesTheRestAlone : Prop :=
  ∀ s t : State, exec .vop s = .next t →
    t.mb = s.mb ∧ t.ctrl = s.ctrl ∧ t.cfg = s.cfg ∧ t.coloc = s.coloc ∧ t.bs = s.bs ∧ t.len = s.len ∧ t.port = s.port
      ∧ t.seq = { s.seq with timeIncrementBits := t.seq.timeIncrementBits, lowDelay := t.seq.lowDelay }
      ∧ (t.pic.tiHealed = false → t.seq.timeIncrementBits = s.seq.timeIncrementBits)
      ∧ (t.fsm = .sliceStart ↔ t.status.picValid = true)
      ∧ (t.fsm = .sliceStart → t.stores = Stores.initial)
      ∧ (t.fsm = .done → t.status.result = .frameSkipped ∧ t.stores = s.stores ∧ t.slice = s.slice)
      ∧ (t.fsm = .error → t.stores = { s.stores with rowprog := t.stores.rowprog } ∧ t.slice = s.slice)
      ∧ (s.cfg.layout = Config.layout → t.pic.pictType = .b → t.time = { s.time with tFrame := t.time.tFrame })

/-- SPRITE_TRAJ with no point, with one point, and with an invalid length (42_gmc.md R212; 20_memory.md R76). Said of a
point as the default CFG.GRAMMAR has it. -/
def Obligations.SpriteTrajReadsOnePoint : Prop :=
  ∀ s : State, s.lenFits = true → s.cfg.layout.traj = Config.trajItems →
    (s.seq.numSpriteWarpingPoints = 0 →
        exec .spriteTraj s = .next { s with pic := { s.pic with spriteTraj := ⟨⟨0, 0⟩, ⟨0, 0⟩, ⟨0, 0⟩, ⟨0, 0⟩⟩ } })
      ∧ (∀ lx a ly b, s.seq.numSpriteWarpingPoints = 1 → s.divx413 = false →
        s.readsNumbers [(.spriteTraj, lx)] s.pos = some a → s.bitsAre (a + lx) 1 1 = true →
        s.readsNumbers [(.spriteTraj, ly)] (a + lx + 1) = some b → s.bitsAre (b + ly) 1 1 = true →
        let folded (v n : Nat) : Int := if n = 0 then 0 else if 2 ^ n ≤ 2 * v then v else (v : Int) - (2 ^ n - 1)
        exec .spriteTraj s = .next { s.atBit (b + ly + 1) with
          pic := { s.pic with
            spriteTraj := ⟨⟨BitVec.ofInt 16 (folded (s.memRead a lx) lx), BitVec.ofInt 16 (folded (s.memRead b ly) ly)⟩,
              ⟨0, 0⟩, ⟨0, 0⟩, ⟨0, 0⟩⟩ } })
      ∧ (s.seq.numSpriteWarpingPoints = 1 → s.readsInvalid .spriteTraj = true →
        ∃ t, exec .spriteTraj s = .next t ∧ t.fsm = .error ∧ t.status.result = .invalidData ∧ t.status.tag = .gmcVlc)

/-- GMC_RESOLVE in every case: no point, one, two and three points, the collapse to a pure scaling, the normalisation
and the overflow guard, under the default CFG.GMC.virtual, case2, case3 and CFG.INT_BITS (42_gmc.md R211 to R228). -/
def Obligations.GmcResolveLeavesATranslation : Prop :=
  ∀ s : State, s.cfg.intBits = 32 →
    let acc := s.seq.spriteWarpingAccuracy.toNat
    let a : Int := 2 * 2 ^ acc
    let r : Int := 8 / 2 ^ acc
    let w : Int := s.seq.width.toNat
    let h : Int := s.seq.height.toNat
    let put (k : Warp) (points : BitVec 3) (log : BitVec 32) : State := { s with
      status := { s.status with log := log }
      pic := { s.pic with
        spriteOffsetLuma := k.luma, spriteOffsetChroma := k.chroma, spriteDeltaX := k.rowX, spriteDeltaY := k.rowY
        spriteShiftLuma := BitVec.ofNat 6 k.sh0, spriteShiftChroma := BitVec.ofNat 6 k.sh1
        realSpriteWarpingPoints := points } }
    let ref (corner disp : Int) : Int :=
      if s.seq.divxVersion = 500 ∧ s.seq.divxBuild = 413 then a * corner + disp
      else if s.cfg.gmcRef = .src then a * (corner + disp) else a / 2 * (2 * corner + disp)
    let d (v : Vec 16) : IVec := ⟨v.x.toInt, v.y.toInt⟩
    let d0 := d s.pic.spriteTraj.v0
    let d1 := d s.pic.spriteTraj.v1
    let d2 := d s.pic.spriteTraj.v2
    let ref0 : IVec := ⟨ref 0 d0.x, ref 0 d0.y⟩
    let ref1 : IVec := ⟨ref w (d0.x + d1.x), ref 0 (d0.y + d1.y)⟩
    let ref2 : IVec := ⟨ref 0 (d0.x + d2.x), ref h (d0.y + d2.y)⟩
    let logIf (b : Prop) [Decidable b] (m : BitVec 32) : BitVec 32 := if b then s.status.log ||| m else s.status.log
    let halved (v : Int) : Int := v / 2 + (if v % 2 = 1 ∧ v / 2 % 2 = 0 then 1 else 0)
    let rounded (v n : Int) : Int := if 0 ≤ v then (v + n / 2) / n else -((-v + n / 2) / n)
    let resolved (k : Warp) : Prop :=
      let scaling := k.rowX = ⟨a * 2 ^ k.sh0, 0⟩ ∧ k.rowY = ⟨0, a * 2 ^ k.sh0⟩
      let c : Warp := ⟨⟨k.luma.x / 2 ^ k.sh0, k.luma.y / 2 ^ k.sh0⟩, ⟨k.chroma.x / 2 ^ k.sh1, k.chroma.y / 2 ^ k.sh1⟩,
        ⟨a, 0⟩, ⟨0, a⟩, 0, 0⟩
      let fy : Int := 2 ^ (16 - k.sh0)
      let fc : Int := 2 ^ (16 - k.sh1)
      let m : Warp := ⟨⟨k.luma.x * fy, k.luma.y * fy⟩, ⟨k.chroma.x * fc, k.chroma.y * fc⟩,
        ⟨k.rowX.x * fy, k.rowX.y * fy⟩, ⟨k.rowY.x * fy, k.rowY.y * fy⟩, 16, 16⟩
      let top : Int := 2147483647
      let early := 16 < k.sh0 ∨ 16 < k.sh1
        ∨ (∃ v ∈ [k.luma.x, k.luma.y, k.rowX.x, k.rowX.y, k.rowY.x, k.rowY.y], top / fy ≤ (v.natAbs : Int))
        ∨ ∃ v ∈ [k.chroma.x, k.chroma.y], top / fc ≤ (v.natAbs : Int)
      let late (o : Int) (row : IVec) : Prop :=
        let e := row.x - a * 65536
        let f := row.y - a * 65536
        ∃ v ∈ [o + row.x * (w + 16), o + row.y * (h + 16), o + row.x * (w + 16) + row.y * (h + 16), row.x * (w + 16),
          row.y * (h + 16), e, f, o + e * (w + 16), o + f * (h + 16), o + e * (w + 16) + f * (h + 16)],
          top ≤ (v.natAbs : Int)
      let overflows := early ∨ late m.luma.x m.rowX ∨ late m.luma.y m.rowY
      (scaling → (∀ v ∈ [c.luma.x, c.luma.y, c.chroma.x, c.chroma.y], -2147483648 ≤ v ∧ v ≤ 2147483647) →
          exec .gmcResolve s = .next (put c 1 (logIf (c.luma = ⟨0, 0⟩ ∧ c.chroma = ⟨0, 0⟩) 0x40)))
        ∧ (¬scaling → ¬overflows → exec .gmcResolve s = .next (put m s.seq.numSpriteWarpingPoints s.status.log))
        ∧ (¬scaling → overflows → exec .gmcResolve s = .next
          { put ⟨⟨0, 0⟩, ⟨0, 0⟩, ⟨0, 0⟩, ⟨0, 0⟩, 0, 0⟩ 0 (s.status.log ||| 0x20) with
            pic := { s.pic with
              spriteOffsetLuma := ⟨0, 0⟩, spriteOffsetChroma := ⟨0, 0⟩, spriteDeltaX := ⟨0, 0⟩, spriteDeltaY := ⟨0, 0⟩
              spriteShiftLuma := 0, spriteShiftChroma := 0, realSpriteWarpingPoints := 0, gmcOverflow := true } })
    (s.seq.width ≠ 0 → s.seq.height ≠ 0 → s.seq.numSpriteWarpingPoints = 0 →
        exec .gmcResolve s = .next (put ⟨⟨0, 0⟩, ⟨0, 0⟩, ⟨a, 0⟩, ⟨0, a⟩, 0, 0⟩ 1 (s.status.log ||| 0x40)))
      ∧ (s.seq.width ≠ 0 → s.seq.height ≠ 0 → s.seq.numSpriteWarpingPoints = 1 →
        exec .gmcResolve s = .next (put ⟨ref0, ⟨halved ref0.x, halved ref0.y⟩, ⟨a, 0⟩, ⟨0, a⟩, 0, 0⟩ 1
          (logIf (ref0 = ⟨0, 0⟩) 0x40)))
      ∧ (∀ al be : Nat, s.seq.width ≠ 0 → s.seq.height ≠ 0 → s.cfg.gmcVirtual = .standard →
        1 ≤ al → w ≤ 2 ^ al → (al = 1 ∨ 2 ^ (al - 1) < w) → h ≤ 2 ^ be → (be = 0 ∨ 2 ^ (be - 1) < h) →
        let w2 : Int := 2 ^ al
        let h2 : Int := 2 ^ be
        let v0 : IVec := ⟨16 * w2 + rounded ((w - w2) * (r * ref0.x) + w2 * (r * ref1.x - 16 * w)) w,
          rounded ((w - w2) * (r * ref0.y) + w2 * (r * ref1.y)) w⟩
        let v1 : IVec := ⟨rounded ((h - h2) * (r * ref0.x) + h2 * (r * ref2.x)) h,
          16 * h2 + rounded ((h - h2) * (r * ref0.y) + h2 * (r * ref2.y - 16 * h)) h⟩
        (s.seq.numSpriteWarpingPoints = 2 → s.cfg.gmcCase2 = .standard →
            let sh := al + 3 - acc
            let A := v0.x - r * ref0.x
            let D := r * ref0.y - v0.y
            resolved ⟨⟨ref0.x * 2 ^ sh + 2 ^ (sh - 1), ref0.y * 2 ^ sh + 2 ^ (sh - 1)⟩,
              ⟨A + D + 2 * w2 * r * ref0.x - 16 * w2 + 2 ^ (sh + 1),
                A - D + 2 * w2 * r * ref0.y - 16 * w2 + 2 ^ (sh + 1)⟩,
              ⟨A, D⟩, ⟨-D, A⟩, sh, sh + 2⟩)
          ∧ (s.seq.numSpriteWarpingPoints = 3 → s.cfg.gmcCase3 = .standard →
            let sh := max al be + 3 - acc
            let w3 : Int := 2 ^ (al - min al be)
            let h3 : Int := 2 ^ (be - min al be)
            let Ax := v0.x - r * ref0.x
            let Bx := v1.x - r * ref0.x
            let Ay := v0.y - r * ref0.y
            let By := v1.y - r * ref0.y
            resolved ⟨⟨ref0.x * 2 ^ sh + 2 ^ (sh - 1), ref0.y * 2 ^ sh + 2 ^ (sh - 1)⟩,
              ⟨Ax * h3 + Bx * w3 + 2 * w2 * h3 * r * ref0.x - 16 * w2 * h3 + 2 ^ (sh + 1),
                Ay * h3 + By * w3 + 2 * w2 * h3 * r * ref0.y - 16 * w2 * h3 + 2 ^ (sh + 1)⟩,
              ⟨Ax * h3, Bx * w3⟩, ⟨Ay * h3, By * w3⟩, sh, sh + 2⟩))
      ∧ (s.seq.width = 0 ∨ s.seq.height = 0 → ∃ t, exec .gmcResolve s = .next t ∧ t.fsm = .error
        ∧ t.status.result = .fatalGmc ∧ t.status.tag = .gmcSize ∧ t.pic = s.pic)

/-- GET_AMV for every state, by the sum and the clamp of 42_gmc.md R232. The asymmetric bounds [-len, len - 1] are
that rule's own reading of its quoted magnitude (92_eei_decisions.md D27); the value is handed back in the model's own
field (log 6). -/
def Obligations.GetAmvClampsTheFieldAverage : Prop :=
  ∀ (n : Comp) (s : State),
    let acc := s.seq.spriteWarpingAccuracy.toNat
    let qs := s.seq.quarterSample.toNat
    let shift := s.pic.spriteShiftLuma.toNat
    let roundShift (v : Int) (k : Nat) : Int := if k = 0 then v else (v + 2 ^ (k - 1)) / 2 ^ k
    let offset : Int := (if n = .x then s.pic.spriteOffsetLuma.x else s.pic.spriteOffsetLuma.y)
    let row : IVec := if n = .x then s.pic.spriteDeltaX else s.pic.spriteDeltaY
    let dx : Int := row.x - (if n = .x then 2 ^ (shift + acc + 1) else 0)
    let dy : Int := row.y - (if n = .x then 0 else 2 ^ (shift + acc + 1))
    let v0 : Int := offset + dx * s.slice.mbX.toNat * 16 + dy * s.slice.mbY.toNat * 16
    let sum : Int :=
      if s.pic.realSpriteWarpingPoints = 1 then
        (if s.seq.divxVersion = 500 ∧ s.seq.divxBuild = 413 ∧ qs ≤ acc then Int.tdiv offset (2 ^ (acc - qs))
         else roundShift (offset * 2 ^ qs) acc)
      else roundShift (∑ y ∈ Finset.range 16, ∑ x ∈ Finset.range 16, (v0 + dy * y + dx * x) / 2 ^ shift) (acc + 8 - qs)
    let len : Int := 2 ^ (s.pic.fCode.toNat + 4)
    exec (.getAmv n) s = .next { s with
      eng := { s.eng with ret := [if s.pic.gmcOverflow then 0 else max (-len) (min sum (len - 1))] } }

/-- DQUANT: the whole next state (43_macroblock.md R246, R247; 30_encoding.md R109). -/
def Obligations.DquantStepsTheQuantiser : Prop :=
  ∀ s : State, s.lenFits = true → 3 ≤ s.seq.quantPrecision.toNat → s.seq.quantPrecision.toNat ≤ 9 →
    let d : Int := ([-1, -2, 1, 2] : List Int).getD (s.memRead s.pos 2) 0
    let q := BitVec.ofInt 9 (max 1 (min (s.pic.qscale.toNat + d) (2 ^ s.seq.quantPrecision.toNat - 1)))
    (s.pos + 2 ≤ s.endPos → exec .dquant s = .next { s.atBit (s.pos + 2) with
        pic := { s.pic with qscale := q, chromaQscale := q }
        mb := { s.mb with qscale := q, dquant := BitVec.ofInt 3 d } })
      ∧ (s.endPos < s.pos + 2 → ∃ t, exec .dquant s = .next t ∧ t.fsm = .error ∧ t.status.result = .fatalExhausted
        ∧ t.pic = s.pic ∧ t.mb = s.mb)

/-- MVD for every code, sign, refinement and prediction (43_macroblock.md R257, R258). -/
def Obligations.MvdAddsAndWraps : Prop :=
  ∀ (s : State) (pred : Int) (fc : Nat), s.lenFits = true → 1 ≤ fc → fc ≤ 7 →
    (∀ p, s.readsNumbers [(.mv, 0)] s.pos = some p →
        exec (.mvd pred fc) s = .next { s.atBit p with eng := { s.eng with ret := [pred] } })
      ∧ (∀ c p, 1 ≤ c → s.readsNumbers [(.mv, c)] s.pos = some p → p + fc ≤ s.endPos →
        let size : Int := (c - 1) * 2 ^ (fc - 1) + s.memRead (p + 1) (fc - 1) + 1
        let raw : Int := pred + (if s.bitAt p = 1 then -size else size)
        ∃ v : Int, -(2 ^ (4 + fc)) ≤ v ∧ v < 2 ^ (4 + fc) ∧ v % 2 ^ (5 + fc) = raw % 2 ^ (5 + fc)
          ∧ exec (.mvd pred fc) s = .next { s.atBit (p + fc) with eng := { s.eng with ret := [v] } })
      ∧ (s.readsInvalid .mv = true → ∃ t, exec (.mvd pred fc) s = .next t ∧ t.fsm = .resyncCheck
        ∧ t.status.result = .invalidData ∧ t.status.tag = .mbMv ∧ t.bitpos = s.bitpos)

/-- MB_I on a macroblock with no coded block (43_macroblock.md R240 to R249, R262, R263). Its record is emitted after
the peek: log 9. -/
def Obligations.IntraMacroblockCompletes : Prop :=
  ∀ (s : State) (p q : Nat), s.lenFits = true → s.fitsStores = true → s.stores.wf = true → s.ctrl.strict = false →
    s.pic.pictType = .i → s.seq.interlaced = false → s.pic.intraDcThreshold = 0 →
    s.slice.mbValid.toNat + 1 < 1048576 → s.mbi + 1 < 1048576 →
    s.readsNumbers [(.intraMcbpc, 0)] s.pos = some p → p + 1 ≤ s.endPos →
    s.readsNumbers [(.cbpy, 0)] (p + 1) = some q →
    let ac := s.bitAt p == 1
    ∃ t, exec .mbI s = .next t ∧ t.bitpos = q ∧ t.fsm = .resyncCheck ∧ t.eng.phase = .peek
      ∧ t.status = s.status ∧ t.pic = s.pic
      ∧ t.mb.intra = true ∧ t.mb.skipped = false ∧ t.mb.cbp = 0 ∧ t.mb.acPred = ac ∧ t.mb.qscale = s.pic.qscale
      ∧ t.mb.lastIndex = Six.all (if ac then 63 else 0)
      ∧ t.port = s.port
      ∧ t.slice = { s.slice with
          mbValid := BitVec.ofNat 20 (s.slice.mbValid.toNat + 1), nextMbi := BitVec.ofNat 20 (s.mbi + 1) }
      ∧ Cells.read 0 t.stores.qmem s.mbi = s.pic.qscale
      ∧ (Cells.read MbType.zero t.stores.mbtype s.mbi).intra = true
      ∧ ∀ k : Fin 4, Cells.read (Vec.zero 16) t.stores.mvmem (s.blockPos (lumaBlock k)) = ⟨0, 0⟩

/-- MB_P: a skipped macroblock as a whole next state, a plain inter macroblock, and the predictor PredMV of every luma
block: candidates, slice masks, median (43_macroblock.md R252, R255, R256, R262, R263). The record is emitted after
the peek: log 9; a macroblock with its own result is no longer lost: log 42. -/
def Obligations.SkippedMacroblockMoves : Prop :=
  ∀ s : State,
    let clean : Mb := { Mb.reset with qscale := s.pic.qscale, mvDir := 2 }
    let ended (t : State) (v : Mv) (m : Mb) : State := { t with
      fsm := .resyncCheck
      mb := m
      slice := { s.slice with
        mbValid := BitVec.ofNat 20 (s.slice.mbValid.toNat + 1), nextMbi := BitVec.ofNat 20 (s.mbi + 1) }
      stores := { s.stores with
        qmem := Cells.write 0 s.mbi s.pic.qscale s.stores.qmem
        mvmem := (s.writeMvAll v).stores.mvmem
        mbtype := Cells.write MbType.zero s.mbi m.typeWord s.stores.mbtype }
      eng := { s.eng with phase := .peek, failed := s.eng.failed.filter (fun i => i != s.mbi) } }
    let gmc := decide (s.pic.pictType = .s ∧ s.seq.spriteUsage = 2)
    let cand (x y : Int) : IVec :=
      if 0 ≤ x ∧ 0 ≤ y ∧ x < 2 * (s.mbW : Int) then
        let v := Cells.read (Vec.zero 16) s.stores.mvmem (y.toNat * (2 * s.mbW) + x.toNat)
        ⟨v.x.toInt, v.y.toInt⟩
      else ⟨0, 0⟩
    let middle (a b c : Int) : Int := a + b + c - max a (max b c) - min a (min b c)
    let median (a b c : IVec) : IVec := ⟨middle a.x b.x c.x, middle a.y b.y c.y⟩
    (s.lenFits = true → s.fitsStores = true → s.pic.pictType = .p ∨ s.pic.pictType = .s →
      s.slice.mbValid.toNat + 1 < 1048576 → s.mbi + 1 < 1048576 →
      (s.bitsAre s.pos 1 1 = true →
          let v : Mv := if gmc then s.amvVec else ⟨0, 0⟩
          exec .mbP s = .next (ended (s.atBit (s.pos + 1)) v
            { clean with mvFwd := ⟨v, ⟨0, 0⟩, ⟨0, 0⟩, ⟨0, 0⟩⟩, mcsel := gmc, skipped := !gmc }))
        ∧ (∀ p, gmc = false → s.seq.interlaced = false → s.bitsAre s.pos 1 0 = true →
          s.readsNumbers [(.interMcbpc, 0), (.cbpy, 15), (.mv, 0), (.mv, 0)] (s.pos + 1) = some p →
          let v : Mv := (s.predMv 0).toMv
          exec .mbP s = .next (ended (s.atBit p) v { clean with mvFwd := ⟨v, ⟨0, 0⟩, ⟨0, 0⟩, ⟨0, 0⟩⟩ })))
      ∧ ∀ n : Fin 4,
        let bx : Int := 2 * s.slice.mbX.toNat + (n.val % 2 : Nat)
        let bY : Int := 2 * s.slice.mbY.toNat + (n.val / 2 : Nat)
        let A := cand (bx - 1) bY
        let B := cand bx (bY - 1)
        let C := cand (bx + ([2, 1, 1, -1] : List Int).getD n.val 0) (bY - 1)
        let first := s.slice.mbX = s.slice.resyncMbX
        let before := s.slice.mbX.toNat + 1 = s.slice.resyncMbX.toNat
        s.predMv n =
          if s.slice.firstSliceLine = true ∧ n = 0 ∧ first then ⟨0, 0⟩
          else if s.slice.firstSliceLine = true ∧ n = 0 ∧ before ∧ s.slice.mbX = 0 then C
          else if s.slice.firstSliceLine = true ∧ (n = 0 ∨ n = 1) ∧ before then median A ⟨0, 0⟩ C
          else if s.slice.firstSliceLine = true ∧ (n = 0 ∨ n = 1) then A
          else if s.slice.firstSliceLine = true ∧ n = 2 ∧ first then median ⟨0, 0⟩ B C
          else median A B C

/-- MB_B as whole next states: the wait, the co-located skip, the direct mode skipped and not, over a co-located
macroblock of each kind, the explicit and field vectors with no coded block, and a coded macroblock with a quantiser
delta (43_macroblock.md R271 to R277; 90_conflicts.md C11). That the wait leaves MB as it was is log 33, that what
a macroblock inside a row reads of COLOC is a free value where its row is not published log 57, the co-located
vector of a field log 23, that a field-direct macroblock is MVFIELD log 47, that the record is emitted
after the peek log 9, and that a macroblock with its own result is no longer lost log 42. -/
def Obligations.MbBWaitsSkipsOrMovesDirectly : Prop :=
  ∀ s : State, s.lenFits = true → s.fitsStores = true → s.pic.pictType = .b →
    s.slice.mbValid.toNat + 1 < 1048576 → s.mbi + 1 < 1048576 →
    let rowBegins := s.slice.mbX = 0
    let missing := rowBegins ∧ s.coloc.rowprog < s.slice.mbY.toNat + 1
    let slice : Slice := if rowBegins then
        { s.slice with lastMvFwd := ⟨⟨0, 0⟩, ⟨0, 0⟩⟩, lastMvBwd := ⟨⟨0, 0⟩, ⟨0, 0⟩⟩ } else s.slice
    let other := s.colocType s.mbi
    let clean : Mb := { Mb.reset with qscale := s.pic.qscale }
    let ended (t : State) (l : Slice) (m : Mb) : State := { t with
      fsm := .resyncCheck
      mb := m
      slice := { l with
        mbValid := BitVec.ofNat 20 (s.slice.mbValid.toNat + 1), nextMbi := BitVec.ofNat 20 (s.mbi + 1) }
      stores := { s.stores with
        qmem := Cells.write 0 s.mbi s.pic.qscale s.stores.qmem
        mbtype := Cells.write MbType.zero s.mbi m.typeWord s.stores.mbtype }
      eng := { s.eng with phase := .peek, failed := s.eng.failed.filter (fun i => i != s.mbi) } }
    let oneDirect (p d : IVec) (pp pb : Int) : Mv × Mv :=
      let fwd (p d : Int) : Int := Int.tdiv (p * pb) pp + d
      let bwd (p d : Int) : Int := if d = 0 then Int.tdiv (p * (pb - pp)) pp else fwd p d - p
      (⟨toS 16 (fwd p.x d.x), toS 16 (fwd p.y d.y)⟩, ⟨toS 16 (bwd p.x d.x), toS 16 (bwd p.y d.y)⟩)
    let there (n : Fin 4) : IVec :=
      let v := s.colocMv n
      ⟨v.x.toInt, v.y.toInt⟩
    let pp := s.pic.ppTime.toInt
    let pb := s.pic.pbTime.toInt
    let block (d : IVec) (n : Fin 4) : Mv × Mv := oneDirect (there n) d pp pb
    let shifted (t : BitVec 32) (i : Bool) : Int :=
      let sel := if i then other.fieldSelectFwd1 else other.fieldSelectFwd0
      let k : Int := (if i then 1 else 0) - (if sel then 1 else 0)
      if s.pic.topFieldFirst then t.toInt + k else t.toInt - k
    let field (d : IVec) (i : Bool) : Mv × Mv :=
      let v := there (if i then 2 else 0)
      oneDirect ⟨v.x, Int.tdiv v.y 2⟩ d (shifted s.pic.ppFieldTime i) (shifted s.pic.pbFieldTime i)
    let direct (d : IVec) : Mb :=
      let m : Mb := { clean with direct := true, mvDir := 3, mvType := other.mvType }
      match other.mvType with
      | .mv16x16 => { m with mvFwd := Quad.all (block d 0).1, mvBwd := Quad.all (block d 0).2 }
      | .mv8x8 => { m with
          mvFwd := ⟨(block d 0).1, (block d 1).1, (block d 2).1, (block d 3).1⟩
          mvBwd := ⟨(block d 0).2, (block d 1).2, (block d 2).2, (block d 3).2⟩ }
      | .mvField => { m with
          mvFwd := ⟨(field d false).1, (field d true).1, ⟨0, 0⟩, ⟨0, 0⟩⟩
          mvBwd := ⟨(field d false).2, (field d true).2, ⟨0, 0⟩, ⟨0, 0⟩⟩ }
    let timed := if other.mvType = .mvField then
        shifted s.pic.ppFieldTime false ≠ 0 ∧ shifted s.pic.ppFieldTime true ≠ 0 else pp ≠ 0
    let reg (v : IVec) : Mv := ⟨BitVec.ofInt 16 v.x, BitVec.ofInt 16 v.y⟩
    let value (v : Mv) : IVec := ⟨v.x.toInt, v.y.toInt⟩
    let half (v : Mv) : IVec := ⟨v.x.toInt, Int.tdiv v.y.toInt 2⟩
    let doubled (v : IVec) : Mv := ⟨BitVec.ofInt 16 v.x, BitVec.ofInt 16 (2 * v.y)⟩
    let fc := s.pic.fCode.toNat
    let bc := s.pic.bCode.toNat
    (missing → exec .mbB s = .next { s with slice := slice, fsm := .waitRow })
      ∧ (s.fsm = .waitRow → step s =
        .next (if s.slice.mbY.toNat + 1 ≤ s.coloc.rowprog then { s with fsm := .mb } else s))
      ∧ (s.mbi < s.mbTotal → s.mbi / s.mbW + 1 ≤ s.coloc.rowprog →
        other = Cells.read MbType.zero s.coloc.mbtype s.mbi
          ∧ ∀ n : Fin 4, s.colocMv n = Cells.read (Vec.zero 16) s.coloc.mvmem (s.blockPos (lumaBlock n)))
      ∧ (¬missing → other.skipped = true →
        exec .mbB s = .next (ended s slice { clean with skipped := true, mvDir := 2 }))
      ∧ (¬missing → other.skipped = false → s.bitsAre s.pos 1 1 = true → timed →
        exec .mbB s = .next (ended (s.atBit (s.pos + 1)) slice (direct ⟨0, 0⟩)))
      ∧ (∀ (row : VlcRow) (ty : BType), ¬missing → other.skipped = false → s.bitsAre s.pos 2 1 = true →
        s.readsRow .mbTypeB (s.pos + 2) row = true → row.sym = .btype ty →
        let p := s.pos + 2 + row.len
        let isFwd := ty = .forward ∨ ty = .interpolate
        let isBwd := ty = .backward ∨ ty = .interpolate
        let dir : BitVec 2 := (if isFwd then 2 else 0) + (if isBwd then 1 else 0)
        (∀ d q, ty = .direct → s.readsMv ⟨0, 0⟩ 1 p = some (d, q) → timed →
            exec .mbB s = .next (ended (s.atBit q) slice (direct d)))
          ∧ (∀ f b q r, ty ≠ .direct → fc ≠ 0 → bc ≠ 0 →
            (s.seq.interlaced = true → s.bitsAre p 1 0 = true) →
            let first := if s.seq.interlaced then p + 1 else p
            (if isFwd then s.readsMv (value slice.lastMvFwd.field0) fc first = some (f, q) else q = first) →
            (if isBwd then s.readsMv (value slice.lastMvBwd.field0) bc q = some (b, r) else r = q) →
            exec .mbB s = .next (ended (s.atBit r)
              { slice with
                lastMvFwd := if isFwd then ⟨reg f, reg f⟩ else slice.lastMvFwd
                lastMvBwd := if isBwd then ⟨reg b, reg b⟩ else slice.lastMvBwd }
              { clean with
                mvDir := dir
                mvFwd := if isFwd then ⟨reg f, ⟨0, 0⟩, ⟨0, 0⟩, ⟨0, 0⟩⟩ else clean.mvFwd
                mvBwd := if isBwd then ⟨reg b, ⟨0, 0⟩, ⟨0, 0⟩, ⟨0, 0⟩⟩ else clean.mvBwd }))
          ∧ (∀ f f' b b' q q' r r', ty ≠ .direct → fc ≠ 0 → bc ≠ 0 → s.seq.interlaced = true →
            s.bitsAre p 1 1 = true →
            let selB := if isFwd then p + 3 else p + 1
            let first := if isBwd then selB + 2 else selB
            first ≤ s.endPos →
            (if isFwd then s.readsMv (half slice.lastMvFwd.field0) fc first = some (f, q)
                ∧ s.readsMv (half slice.lastMvFwd.field1) fc q = some (f', q') else q' = first) →
            (if isBwd then s.readsMv (half slice.lastMvBwd.field0) bc q' = some (b, r)
                ∧ s.readsMv (half slice.lastMvBwd.field1) bc r = some (b', r') else r' = q') →
            exec .mbB s = .next (ended (s.atBit r')
              { slice with
                lastMvFwd := if isFwd then ⟨doubled f, doubled f'⟩ else slice.lastMvFwd
                lastMvBwd := if isBwd then ⟨doubled b, doubled b'⟩ else slice.lastMvBwd }
              { clean with
                mvType := .mvField, mvDir := dir
                fieldSelectFwd0 := decide isFwd && s.bitAt (p + 1) == 1
                fieldSelectFwd1 := decide isFwd && s.bitAt (p + 2) == 1
                fieldSelectBwd0 := decide isBwd && s.bitAt selB == 1
                fieldSelectBwd1 := decide isBwd && s.bitAt (selB + 1) == 1
                mvFwd := if isFwd then ⟨reg f, reg f', ⟨0, 0⟩, ⟨0, 0⟩⟩ else clean.mvFwd
                mvBwd := if isBwd then ⟨reg b, reg b', ⟨0, 0⟩, ⟨0, 0⟩⟩ else clean.mvBwd })))
      ∧ (∀ (row row' : VlcRow) (f : IVec) (q run level : Nat), ¬missing → other.skipped = false →
        s.seq.interlaced = false → (s.seq.rvlc && s.pic.partitionedFrame) = false → fc ≠ 0 →
        3 ≤ s.seq.quantPrecision.toNat → s.seq.quantPrecision.toNat ≤ 9 → s.bitsAre s.pos 2 0 = true →
        s.readsRow .mbTypeB (s.pos + 2) row = true → row.sym = .btype .forward →
        let p := s.pos + 2 + row.len
        s.bitsAre p 7 3 = true → p + 8 ≤ s.endPos → s.readsMv (value slice.lastMvFwd.field0) fc (p + 8) = some (f, q) →
        s.readsRow .rlInter q row' = true → row'.sym = .rl true run level → run ≤ 63 → 1 ≤ level →
        q + row'.len + 1 ≤ s.endPos →
        let d : Int := if s.bitAt (p + 7) = 1 then 2 else -2
        let qs : Int := max 1 (min (s.pic.qscale.toNat + d) (2 ^ s.seq.quantPrecision.toNat - 1))
        let size : Int := if s.seq.mpegQuant then level else level * (2 * qs) + (if qs % 2 = 1 then qs else qs - 1)
        let scan := if s.pic.alternateScan then s.cfg.altV else s.cfg.zigzag
        ∃ t, exec .mbB s = .next t ∧ t.bitpos = q + row'.len + 1 ∧ t.fsm = .resyncCheck
          ∧ t.mb.cbp = 1 ∧ t.mb.dquant = BitVec.ofInt 3 d ∧ t.mb.qscale = BitVec.ofInt 9 qs ∧ t.mb.mvDir = 2
          ∧ t.pic = { s.pic with qscale := BitVec.ofInt 9 qs, chromaQscale := BitVec.ofInt 9 qs }
          ∧ t.mb.mvFwd.v0 = reg f ∧ t.mb.lastIndex = (Six.all (-1)).set 5 (BitVec.ofNat 7 run)
          ∧ Cells.read 0 (t.mb.block.get 5) (scan.getD run 0)
            = toS 16 (if s.bitAt (q + row'.len) = 1 then -size else size)
          ∧ Cells.read 0 t.stores.qmem s.mbi = BitVec.ofInt 9 qs)

/-- MB_STUDIO: the whole next state, and where it is selected (43_macroblock.md R280, R282; 60_exceptions.md R386).
That the macroblocks left over are remembered as lost is log 42. -/
def Obligations.StudioMacroblockIsRefused : Prop :=
  ∀ s : State,
    let lost := if s.pic.partitionedFrame then max 1 s.slice.mbNumLeft.toNat else 1
    exec .mbStudio s = .next { s with
        fsm := .error
        mb := { Mb.reset with qscale := s.pic.qscale }
        status := ⟨.refusedStudio, .mbStudio, toU 32 s.pos, false, s.status.log ||| 0x800⟩
        stores := { s.stores with rowprog := s.mbH }
        eng := { s.eng with failed := s.eng.failed ++ List.range' s.mbi lost } }
      ∧ (s.fsm = .mb → s.seq.studioProfile = true → step s = exec .mbStudio s)

/-- The frame of the macroblock layer: only the words of the current macroblock's own slots are written (20_memory.md
R81 to R85; 43_macroblock.md R263, R283). -/
def Obligations.MacroblockWritesItsOwnSlots : Prop :=
  ∀ (i : Instr) (s t : State),
    (i = .mbI ∨ i = .mbP ∨ i = .mbB ∨ i = .mbStudio ∨ i = .dquant ∨ i = .coefEsc3 ∨ (∃ p f, i = .mvd p f)
      ∨ (∃ n c, i = .blockIntra n c) ∨ (∃ n, i = .blockInter n) ∨ (∃ l r v, i = .coefDirect l r v)
      ∨ (∃ k, i = .coefEsc1 k) ∨ (∃ k, i = .coefEsc2 k) ∨ (∃ n d, i = .predDc n d) ∨ (∃ n, i = .predAc n)) →
    s.stores.wf = true → exec i s = .next t →
    sameButPicture s t ∧ ownSlotsOnly s t
      ∧ t.pic = { s.pic with qscale := t.pic.qscale, chromaQscale := t.pic.chromaQscale }
      ∧ t.slice = { s.slice with
          mbValid := t.slice.mbValid, mbErr := t.slice.mbErr, nextMbi := t.slice.nextMbi
          lastMvFwd := t.slice.lastMvFwd, lastMvBwd := t.slice.lastMvBwd }

/-- COEF_DIRECT and COEF_ESC3 (44_residual.md R297, R300, R301); the values are handed back in the model's own field
(log 6). -/
def Obligations.DirectAndRawCoefficients : Prop :=
  ∀ s : State, s.lenFits = true →
    let p := s.pos
    let asInt (b : Bool) : Int := if b then 1 else 0
    let signed12 (v : Nat) : Int := if v < 2048 then v else (v : Int) - 4096
    (∀ (last : Bool) (run level : Nat), 1 ≤ level → p + 1 ≤ s.endPos →
        exec (.coefDirect last run level) s = .next { s.atBit (p + 1) with
          eng := { s.eng with
            ret := [asInt last, run, if s.bitAt p = 1 then -(level : Int) else level] } })
      ∧ (s.quirk .is3iv1 = true → p + 19 ≤ s.endPos → exec .coefEsc3 s = .next { s.atBit (p + 19) with
          eng := { s.eng with ret := [s.bitAt p, s.memRead (p + 1) 6, signed12 (s.memRead (p + 7) 12)] } })
      ∧ (s.quirk .is3iv1 = false → p + 21 ≤ s.endPos → (s.ctrl.strict = true → s.bitAt (p + 7) = 1) →
        (s.ctrl.strict = true → s.bitAt (p + 20) = 1) → exec .coefEsc3 s = .next { s.atBit (p + 21) with
          status := { s.status with
            log := if s.bitAt (p + 7) = 1 ∧ s.bitAt (p + 20) = 1 then s.status.log else s.status.log ||| 1 }
          eng := { s.eng with ret := [s.bitAt p, s.memRead (p + 1) 6, signed12 (s.memRead (p + 8) 12)] } })
      ∧ (s.quirk .is3iv1 = false → p + 21 ≤ s.endPos → s.ctrl.strict = true →
        (s.bitAt (p + 7) = 0 ∨ s.bitAt (p + 20) = 0) → ∃ t, exec .coefEsc3 s = .next t ∧ t.fsm = .resyncCheck
          ∧ t.status.result = .invalidData ∧ t.status.tag = .blockEsc3)

/-- COEF_ESC1 and COEF_ESC2, the greatest level and run characterised by the table's rows, on an entry, on the escape
and on no code word (44_residual.md R298, R299, R304); the values are handed back in the model's own field (log 6). -/
def Obligations.EscapesWidenLevelAndRun : Prop :=
  ∀ (s : State) (t : RlTable), s.lenFits = true →
    let rows := s.cfg.table (vlcOf t)
    let asInt (b : Bool) : Int := if b then 1 else 0
    let refused (i : Instr) : Prop := ∃ u, exec i s = .next u ∧ u.fsm = .resyncCheck
      ∧ u.status.result = .invalidData ∧ u.status.tag = .blockRl
    (∀ (row : VlcRow) (last : Bool) (run level : Nat), s.readsRow (vlcOf t) s.pos row = true →
        row.sym = .rl last run level → s.pos + row.len + 1 ≤ s.endPos →
        let p := s.pos + row.len
        let minus := s.bitAt p = 1
        (∃ m, (∃ r ∈ rows, r.sym = .rl last run m) ∧ (∀ r ∈ rows, ∀ v, r.sym = .rl last run v → v ≤ m)
          ∧ exec (.coefEsc1 t) s = .next { s.atBit (p + 1) with eng := { s.eng with
              ret := [asInt last, run, if minus then -((level + m : Nat) : Int) else (level + m : Nat)] } })
          ∧ (∃ m, (∃ r ∈ rows, r.sym = .rl last m level) ∧ (∀ r ∈ rows, ∀ v, r.sym = .rl last v level → v ≤ m)
          ∧ exec (.coefEsc2 t) s = .next { s.atBit (p + 1) with eng := { s.eng with
              ret := [asInt last, (run + m + 1 : Nat), if minus then -(level : Int) else level] } }))
      ∧ (∀ row : VlcRow, s.readsRow (vlcOf t) s.pos row = true → row.sym = .escape →
        refused (.coefEsc1 t) ∧ refused (.coefEsc2 t))
      ∧ (s.readsInvalid (vlcOf t) = true → refused (.coefEsc1 t) ∧ refused (.coefEsc2 t))

/-- BLOCK_INTER on a block of one coefficient as a whole next state, by a table's entry and by the escape of the
reversible tables; past the last position, on no code word, and on a malformed reversible escape (44_residual.md R291,
R296, R302, R303, R305). -/
def Obligations.BlockInterStoresDequantised : Prop :=
  ∀ (n : Fin 6) (s : State), s.lenFits = true →
    let rvlc := s.seq.rvlc && s.pic.partitionedFrame
    let tb : VlcTable := if rvlc then .rlRvlcInter else .rlInter
    let q : Int := s.pic.qscale.toNat
    let scan := if s.pic.alternateScan then s.cfg.altV else s.cfg.zigzag
    let odd : Int := if q % 2 = 1 then q else q - 1
    let deq (l : Int) : Int :=
      if s.seq.mpegQuant then l else if 0 < l then l * (2 * q) + odd else l * (2 * q) - odd
    let signed (p level : Nat) : Int := if s.bitAt p = 1 then -(level : Int) else level
    let single (stop run : Nat) (l : Int) : State := { s.atBit stop with
      mb := { s.mb with
        block := s.mb.block.set n (Cells.write 0 (scan.getD run 0) (toS 16 (deq l)) (s.mb.block.get n))
        lastIndex := s.mb.lastIndex.set n (BitVec.ofNat 7 run) } }
    (∀ (row : VlcRow) (run level : Nat), s.readsRow tb s.pos row = true → row.sym = .rl true run level →
        run ≤ 63 → 1 ≤ level → s.pos + row.len + 1 ≤ s.endPos →
        let p := s.pos + row.len
        exec (.blockInter n) s = .next (single (p + 1) run (signed p level)))
      ∧ (∀ (row row' : VlcRow) (run run' level level' : Nat), s.readsRow tb s.pos row = true →
        row.sym = .rl false run level → run ≤ 62 → s.readsRow tb (s.pos + row.len + 1) row' = true →
        row'.sym = .rl true run' level' → 63 < run + run' + 1 → s.pos + row.len + 1 + row'.len + 1 ≤ s.endPos →
        ∃ t, exec (.blockInter n) s = .next t ∧ t.fsm = .resyncCheck ∧ t.status.result = .invalidData
          ∧ t.status.tag = .blockPosition)
      ∧ (s.readsInvalid tb = true → ∃ t, exec (.blockInter n) s = .next t ∧ t.fsm = .resyncCheck
        ∧ t.status.result = .invalidData ∧ t.status.tag = .blockRl ∧ t.mb = s.mb ∧ t.bitpos = s.bitpos)
      ∧ (∀ row : VlcRow, rvlc = true → s.readsRow .rlRvlcInter s.pos row = true → row.sym = .escape →
        let p := s.pos + row.len
        let formed := s.bitAt p = 1 ∧ s.bitAt (p + 8) = 1 ∧ s.memRead (p + 20) 5 = 16
        p + 26 ≤ s.endPos →
        (formed → s.bitAt (p + 1) = 1 → exec (.blockInter n) s =
            .next (single (p + 26) (s.memRead (p + 2) 6) (signed (p + 25) (s.memRead (p + 9) 11))))
          ∧ (¬formed → ∃ t, exec (.blockInter n) s = .next t ∧ t.fsm = .resyncCheck
            ∧ t.status.result = .invalidData ∧ t.status.tag = .blockRvlcEsc ∧ t.mb = s.mb))

/-- BLOCK_INTRA of an uncoded block in its three forms, a DC differential of up to 8 bits among them, IS_3IV1's too:
the whole next state (44_residual.md R290, R292, R294, R310, R314, R320, R326). -/
def Obligations.UncodedIntraBlockIsPredicted : Prop :=
  ∀ (n : Fin 6) (s : State), s.lenFits = true → s.fitsStores = true → s.mb.acPred = false → s.ctrl.strict = false →
    let top := dcTop s.cfg.dcTieTop (s.dcNeighbours n)
    let predicted (t : State) (level : Int) : State :=
      ((((t.setDir n top).writeDc n (toS 16 (s.dcWord (level * s.scaleOf n)))).setCoef n 0 level).storeAcAll
        n).setLastIndex n 0
    (s.eng.useIntraDcVlc = false → exec (.blockIntra n false) s =
        .next (predicted s (s.coefAt n 0 + s.dcPredictor n)))
      ∧ (∀ p, s.eng.useIntraDcVlc = true → s.pic.partitionedFrame = false →
        s.readsNumbers [(if n.val < 4 then .dcLum else .dcChrom, 0)] s.pos = some p →
        exec (.blockIntra n false) s = .next (predicted (s.atBit p) (s.dcPredictor n)))
      ∧ (∀ size p, s.eng.useIntraDcVlc = true → s.pic.partitionedFrame = false → 1 ≤ size → size ≤ 8 →
        s.readsNumbers [(if n.val < 4 then .dcLum else .dcChrom, size)] s.pos = some p → p + size ≤ s.endPos →
        let v : Int := s.memRead p size
        let m : Int := s.memRead (p + 1) (size - 1) + 2 ^ (size - 1)
        let diff : Int :=
          if s.quirk .is3iv1 then
            (if size = 1 then 2 * (s.bitAt p : Int) - 1 else if s.bitAt p = 1 then m else -m)
          else if 2 ^ size ≤ 2 * v then v else v - (2 ^ size - 1)
        exec (.blockIntra n false) s = .next (predicted (s.atBit (p + size)) (diff + s.dcPredictor n)))
      ∧ (s.eng.useIntraDcVlc = true → s.pic.partitionedFrame = true →
        let w := s.dcAt n (s.blockX n) (s.blockY n)
        let level := Int.tdiv (w + (s.scaleOf n / 2 : Nat)) (s.scaleOf n)
        exec (.blockIntra n false) s =
          .next ((((s.setCoef n 0 level).setDir n (s.partHere.dir.get n)).storeAcAll n).setLastIndex n 0))

/-- PRED_DC for every neighbour triple, quantiser and differential (44_residual.md R310, R312 to R315); the level is
handed back in the model's own field (log 6). Said of the default CFG.DC_SCALE. -/
def Obligations.PredDcPredictsAndStores : Prop :=
  ∀ (n : Fin 6) (diff : Int) (s : State), s.fitsStores = true → s.cfg.dcScale = .standard → 1 ≤ s.pic.qscale.toNat →
  s.pic.qscale.toNat ≤ 31 →
    let d := s.dcNeighbours n
    let ab := (d.a - d.b).natAbs
    let bc := (d.b - d.c).natAbs
    let top := decide (ab < bc ∨ (s.cfg.dcTieTop = true ∧ ab = bc))
    let q := s.pic.qscale.toNat
    let scale : Nat :=
      if s.quirk .is3iv1 = true ∨ q ≤ 4 then 8
      else if n.val < 4 then (if q ≤ 8 then 2 * q else if q ≤ 24 then q + 8 else 2 * q - 16)
      else (if q ≤ 24 then (q + 13) / 2 else q - 6)
    let level : Int := diff + Int.tdiv ((if top then d.c else d.a) + (scale / 2 : Nat)) scale
    let w : Int := if s.quirk .dcClip then max 0 (level * scale) else min 2047 (max 0 (level * scale))
    let inside := s.ctrl.strict = false ∨ (0 ≤ level ∧ level ≤ 2048 + (scale : Int))
    (inside → exec (.predDc n diff) s = .next { s with
        mb := { s.mb with predDir := s.mb.predDir.set n top }
        stores := s.stores.setDcPlane n (Cells.write 1024 (s.blockPos n) (toS 16 w) (s.stores.dcPlane n))
        eng := { s.eng with ret := [level] } })
      ∧ (¬inside → ∃ t, exec (.predDc n diff) s = .next t ∧ t.fsm = .resyncCheck ∧ t.status.result = .invalidData
        ∧ t.status.tag = .blockDcRange ∧ t.stores = s.stores)

/-- The sentinel of 44_residual.md R311 at the start of a slice, and the prediction that follows from it (R310, R312);
the level is handed back in the model's own field (log 6). -/
def Obligations.SentinelAtSliceStart : Prop :=
  ∀ (n : Fin 6) (diff : Int) (s : State), s.fitsStores = true → s.ctrl.strict = false →
    n = 0 ∨ n = 4 ∨ n = 5 → s.slice.mbX = s.slice.resyncMbX →
    (s.slice.firstSliceLine = true →
        (s.dcNeighbours n).a = 1024 ∧ (s.dcNeighbours n).b = 1024 ∧ (s.dcNeighbours n).c = 1024
          ∧ ∃ t, exec (.predDc n diff) s = .next t
            ∧ t.eng.ret = [diff + Int.tdiv (1024 + (s.scaleOf n / 2 : Nat)) (s.scaleOf n)]
            ∧ t.mb.predDir.get n = s.cfg.dcTieTop)
      ∧ (s.slice.mbY.toNat = s.slice.resyncMbY.toNat + 1 → (s.dcNeighbours n).b = 1024)

/-- PRED_AC: every coefficient and every ACMEM word after it, with everything else as it was: the words 1 to 7 and 9
to 15 of the block's own position in its plane are the only ones written (44_residual.md R318 to R320; 20_memory.md
R82). -/
def Obligations.PredAcAddsAndStores : Prop :=
  ∀ (n : Fin 6) (s : State), s.fitsStores = true → s.stores.wf = true → s.mb.wf = true →
    s.cfg.idctPerm = List.range 64 →
    let top := s.mb.predDir.get n
    let nb := if top then s.mbi - s.mbW else s.mbi - 1
    let same := decide (if top then s.slice.mbY = 0 ∨ n = 2 ∨ n = 3 ∨ Cells.read 0 s.stores.qmem nb = s.pic.qscale
      else s.slice.mbX = 0 ∨ n = 1 ∨ n = 3 ∨ Cells.read 0 s.stores.qmem nb = s.pic.qscale)
    let word (k : Nat) : Int :=
      if top then (if s.blockY n = 0 then 0 else s.acAt n (s.blockX n) (s.blockY n - 1) (8 + k))
      else (if s.blockX n = 0 then 0 else s.acAt n (s.blockX n - 1) (s.blockY n) k)
    let added (k : Nat) : Int :=
      if same then word k else roundedDiv (word k * (Cells.read 0 s.stores.qmem nb).toNat) s.pic.qscale.toNat
    let target (k : Nat) : Nat := if top then k else 8 * k
    let sum (k : Nat) : Int := s.coefAt n (target k) + (if s.mb.acPred then added k else 0)
    (∀ k, 1 ≤ k → k ≤ 7 → -32768 ≤ sum k ∧ sum k ≤ 32767) →
    ∃ t, exec (.predAc n) s = .next t
      ∧ t = { s with
          mb := { s.mb with block := s.mb.block.set n (t.mb.block.get n) }
          stores := s.stores.setAcPlane n (t.stores.acPlane n) }
      ∧ (∀ k, 1 ≤ k → k ≤ 7 → t.coefAt n (target k) = sum k)
      ∧ (∀ a, (∀ k, 1 ≤ k → k ≤ 7 → a ≠ target k) → t.coefAt n a = s.coefAt n a)
      ∧ (∀ k, 1 ≤ k → k ≤ 7 → t.acAt n (s.blockX n) (s.blockY n) k = t.coefAt n (8 * k)
        ∧ t.acAt n (s.blockX n) (s.blockY n) (8 + k) = t.coefAt n k)
      ∧ ∀ a, (∀ k, 1 ≤ k → k ≤ 7 → a ≠ 16 * s.blockPos n + k ∧ a ≠ 16 * s.blockPos n + 8 + k) →
        Cells.read 0 (t.stores.acPlane n) a = Cells.read 0 (s.stores.acPlane n) a

/-- RESYNC_PEEK: four answers, the answer that the co-located type of the next macroblock decides in a B picture, and the
advance (45_resync.md R335, R336; 43_macroblock.md R263), under the default CFG.GRAMMAR.resync. That the record comes
after the answer is log 9, that the peek does not wait for the row of the type log 44, that the type is a free value
where it stands in no published row log 57. -/
def Obligations.PeekTellsTheSliceEnd : Prop :=
  ∀ s : State, s.lenFits = true → s.cfg.resync = Config.resync → s.slice.mbX.toNat + 1 < 1024 →
  s.slice.mbY.toNat + 1 < 1024 →
    let wraps := decide (s.slice.mbX.toNat + 1 = s.mbW)
    let x := if wraps then 0 else s.slice.mbX.toNat + 1
    let y := if wraps then s.slice.mbY.toNat + 1 else s.slice.mbY.toNat
    let answered (r : Boundary) (code : ResultCode) : State := { s with
      fsm := .resyncCheck
      status := { s.status with result := code }
      slice := { s.slice with
        mbX := BitVec.ofNat 10 x, mbY := BitVec.ofNat 10 y
        firstSliceLine := s.slice.firstSliceLine
          && !decide (x = s.slice.resyncMbX.toNat ∧ y = s.slice.resyncMbY.toNat + 1) }
      stores := { s.stores with rowprog := if wraps then s.slice.mbY.toNat + 1 else s.stores.rowprog }
      port := s.port ++ [.decoded s.slice.mbX s.slice.mbY s.mb]
      eng := { s.eng with phase := .decide r } }
    let rest := s.endPos - s.pos
    let padded := s.quirk .noPadding = false ∨ s.seq.resyncMarker = true
    (¬padded → exec .resyncPeek s = .next (answered .ok .ok))
      ∧ (padded → 1 ≤ rest → rest ≤ 8 → s.memRead s.pos rest = 2 ^ (rest - 1) - 1 →
        exec .resyncPeek s = .next (answered .sliceEnd .sliceEnd))
      ∧ (padded → s.pos = s.endPos → exec .resyncPeek s = .next (answered .ok .ok))
      ∧ (padded → s.pic.pictType = .i → s.ctrl.strict = false → s.pos % 8 = 0 → s.pos + 24 ≤ s.endPos →
        s.memRead s.pos 24 = 0x7F0000 → exec .resyncPeek s = .next (answered .sliceEnd .sliceEnd))
      ∧ (let zeros := max (max s.pic.fCode.toNat s.pic.bCode.toNat) 2 + 15
         let num := s.memRead (s.pos + 9 + zeros) (max 1 (bitLength (s.mbTotal - 1)))
         padded → s.pic.pictType = .b → s.ctrl.strict = false → s.pos % 8 = 0 →
         s.bitsAre s.pos (9 + zeros) (0x7F * 2 ^ (zeros + 1) + 1) = true → s.mbi + 1 < num →
         exec .resyncPeek s = .next
           (if (s.colocType (s.mbi + 1)).skipped then answered .ok .ok else answered .sliceEnd .sliceEnd))
      ∧ (s.mbi + 1 < s.mbTotal → (s.mbi + 1) / s.mbW + 1 ≤ s.coloc.rowprog →
        s.colocType (s.mbi + 1) = Cells.read MbType.zero s.coloc.mbtype (s.mbi + 1))

/-- VIDEO_PACKET_HEADER accepted, at a marker and in the recovery search: the whole next state (45_resync.md R337,
R350), under the default CFG.GRAMMAR.resync. -/
def Obligations.PacketHeaderAccepted : Prop :=
  ∀ s : State, s.lenFits = true → s.cfg.resync = Config.resync → s.seq.shape = 0 → s.seq.newPred = false →
  s.pic.pictType = .i →
    s.seq.quantPrecision.toNat ≤ 9 →
    let p := s.pos
    let b := max 1 (bitLength (s.mbTotal - 1))
    let n := s.seq.quantPrecision.toNat
    let num := s.memRead (p + 17) b
    let q := s.memRead (p + 17 + b) n
    let passed := if s.eng.phase = .search then num - s.slice.nextMbi.toNat else 0
    s.bitsAre p 17 1 = true → s.bitsAre (p + 17 + b + n) 1 0 = true → p + 20 ≤ s.endPos →
    1 ≤ num → num < s.mbTotal → s.slice.nextMbi.toNat ≤ num → s.slice.mbErr.toNat + passed < 1048576 →
    exec .videoPacketHeader s = .next { s.atBit (p + 18 + b + n) with
      fsm := .sliceStart
      status := { s.status with result := .ok }
      pic := if q = 0 then s.pic else { s.pic with qscale := BitVec.ofNat 9 q, chromaQscale := BitVec.ofNat 9 q }
      slice := { s.slice with
        mbX := BitVec.ofNat 10 (num % s.mbW), mbY := BitVec.ofNat 10 (num / s.mbW)
        mbErr := BitVec.ofNat 20 (s.slice.mbErr.toNat + passed) }
      eng := { s.eng with phase := .peek } }

/-- VIDEO_PACKET_HEADER refused, at a marker and in the recovery search (45_resync.md R337, R350; 60_exceptions.md
R378), under the default CFG.GRAMMAR.resync. That a header refused in the search leaves STATUS unwritten is log 17. -/
def Obligations.PacketHeaderRefused : Prop :=
  ∀ (s : State) (zeros : Nat), s.lenFits = true → s.cfg.resync = Config.resync → s.pos + 8 ≤ s.endPos →
    let want : Nat := match s.pic.pictType with
      | .i => 16
      | .b => max (max s.pic.fCode.toNat s.pic.bCode.toNat) 2 + 15
      | .p => s.pic.fCode.toNat + 15
      | .s => s.pic.fCode.toNat + 15
    let short := s.endPos < s.pos + 20
    let wrong := s.pos + 20 ≤ s.endPos ∧ zeros < 32 ∧ zeros ≠ want ∧ s.bitsAre s.pos (zeros + 1) 1 = true
    (s.eng.phase ≠ .search → short ∨ wrong → ∃ t, exec .videoPacketHeader s = .next t ∧ t.bitpos = s.bitpos
        ∧ t.fsm = .resyncCheck ∧ t.eng.phase = .recover ∧ t.status.result = .invalidData
        ∧ t.status.tag = (if s.endPos < s.pos + 20 then .vpSpace else .vpPrefix)
        ∧ t.slice = s.slice ∧ t.pic = s.pic ∧ t.stores = s.stores ∧ t.port = s.port ∧ t.mb = s.mb)
      ∧ (s.eng.phase = .search → short ∨ wrong → exec .videoPacketHeader s = .next (s.atBit (s.pos + 8)))

/-- PARTITION_A_I and PARTITION_A_P on a slice of one macroblock (45_resync.md R340 to R345), under the default
CFG.GRAMMAR.resync. The layout of a record, and that it starts from the zero record, are log 40. -/
def Obligations.FirstPassRecordsAndCounts : Prop :=
  ∀ (s : State) (p : Nat), s.lenFits = true → s.cfg.resync = Config.resync → s.fitsStores = true →
  s.stores.wf = true → s.ctrl.strict = false →
    s.resyncMbi < s.mbTotal →
    let here : State := { s with slice := { s.slice with mbX := s.slice.resyncMbX, mbY := s.slice.resyncMbY } }
    let done (t : State) (stop : Nat) : Prop :=
      t.bitpos = stop ∧ t.fsm = .partB ∧ t.status = { s.status with result := .ok }
        ∧ t.slice.mbNumLeft = 1 ∧ t.pic = { s.pic with chromaQscale := t.pic.chromaQscale } ∧ t.port = s.port
        ∧ sameButPicture s t ∧ ownSlotsOnly here { t with stores := { t.stores with partmem := s.stores.partmem } }
        ∧ ∀ j, j ≠ 0 → t.partAt j = s.partAt j
    (s.memRead s.pos 19 ≠ 0x6B001 →
        s.readsNumbers [(.intraMcbpc, 0), (.dcLum, 0), (.dcLum, 0), (.dcLum, 0), (.dcLum, 0), (.dcChrom, 0),
          (.dcChrom, 0)] s.pos = some p → s.bitsAre p 19 0x6B001 = true →
        ∃ t, exec .partitionAI s = .next t ∧ done t (p + 19) ∧ Cells.read 0 t.stores.qmem s.resyncMbi = s.pic.qscale
          ∧ t.partAt 0 = { PartRec.zero with intra := true, qscale := s.pic.qscale, dir := (t.partAt 0).dir })
      ∧ (¬(s.pic.pictType = .s ∧ s.seq.spriteUsage = 2) → s.bitsAre s.pos 1 1 = true →
        s.bitsAre (s.pos + 1) 17 0x1F001 = true →
        ∃ t, exec .partitionAP s = .next t ∧ done t (s.pos + 18) ∧ t.partAt 0 = { PartRec.zero with skipped := true }
          ∧ ∀ k : Fin 4, Cells.read (Vec.zero 16) t.stores.mvmem (here.blockPos (lumaBlock k)) = ⟨0, 0⟩)

/-- PARTITION_B_I and PARTITION_B_P on one record: the whole next state (45_resync.md R346, R347). That the pass reads
on from where the first one ended is log 52. -/
def Obligations.SecondPassCompletesRecords : Prop :=
  ∀ s : State, s.lenFits = true → s.fitsStores = true → s.slice.mbNumLeft = 1 →
    let rec0 := s.partAt 0
    let ended (t : State) : State := { t with
      fsm := .mb
      status := { s.status with result := .ok }
      slice := { s.slice with mbX := s.slice.resyncMbX, mbY := s.slice.resyncMbY, firstSliceLine := true } }
    (∀ y p, s.pos + 1 ≤ s.endPos → s.readsNumbers [(.cbpy, y)] (s.pos + 1) = some p →
        let a := { rec0 with acPred := s.bitAt s.pos == 1 }
        let b := { a with cbp := BitVec.ofNat 6 (4 * y + rec0.cbpc.toNat) }
        s.stores.wf = true → ∃ t, exec .partitionBI s = .next t ∧ t.partAt 0 = b
          ∧ t = ended { s.atBit p with stores := { s.stores with partmem := t.stores.partmem } }
          ∧ ∀ j, j ≠ 0 → t.partAt j = s.partAt j)
      ∧ (rec0.intra = false → rec0.skipped = true → s.stores.wf = true →
        ∃ t, exec .partitionBP s = .next t ∧ t.partAt 0 = { rec0 with qscale := s.pic.qscale, cbp := 0 }
          ∧ t = ended { s with stores := { s.stores with
              partmem := t.stores.partmem, qmem := Cells.write 0 s.resyncMbi s.pic.qscale s.stores.qmem } }
          ∧ ∀ j, j ≠ 0 → t.partAt j = s.partAt j)

/-- MB_PARTITIONED of a skipped record (45_resync.md R348, R349). That PIC.chroma_qscale keeps its value is log 36,
that the record is emitted after the peek log 9. -/
def Obligations.SkippedRecordIsReplayed : Prop :=
  ∀ s : State, s.fitsStores = true → s.stores.wf = true → s.pic.pictType = .i ∨ s.pic.pictType = .p →
    s.quirk .noPadding = true → s.seq.resyncMarker = false → s.partHere.skipped = true → s.partHere.intra = false →
    1 ≤ s.slice.mbNumLeft.toNat → s.slice.mbValid.toNat + 1 < 1048576 → s.mbi + 1 < 1048576 →
    ∃ t, exec .mbPartitioned s = .next t ∧ t.bitpos = s.bitpos ∧ t.fsm = .resyncCheck
      ∧ t.mb.skipped = true ∧ t.mb.mcsel = false ∧ t.mb.lastIndex = Six.all (-1) ∧ t.mb.qscale = s.partHere.qscale
      ∧ t.mb.mvFwd = ⟨s.mvOfBlock 0, s.mvOfBlock 1, s.mvOfBlock 2, s.mvOfBlock 3⟩
      ∧ t.pic = { s.pic with qscale := s.partHere.qscale }
      ∧ t.slice.mbNumLeft = BitVec.ofNat 20 (s.slice.mbNumLeft.toNat - 1)
      ∧ t.slice.nextMbi = BitVec.ofNat 20 (s.mbi + 1)
      ∧ t.slice.mbValid = BitVec.ofNat 20 (s.slice.mbValid.toNat + 1)
      ∧ t.port = s.port ++ [.decoded s.slice.mbX s.slice.mbY t.mb]
      ∧ t.status = { s.status with result := if s.slice.mbNumLeft = 1 then .sliceNoend else .ok }
      ∧ t.eng.phase = .decide (if s.slice.mbNumLeft = 1 then .sliceNoend else .ok)
      ∧ sameButPicture s t ∧ ownSlotsOnly s t

/-- SLICE_START as a step (45_resync.md R339). That the first macroblock of the picture stands for an entry from the
VOP header is the model's choice: log 29. -/
def Obligations.SliceStartMarksTheSlice : Prop :=
  ∀ s : State, s.fsm = .sliceStart → s.stores.wf = true →
    let fromPacket := ¬(s.slice.mbX = 0 ∧ s.slice.mbY = 0)
    let x : Int := s.slice.mbX.toNat
    let y : Int := s.slice.mbY.toNat
    let w : Int := s.mbW
    let cleared (start count : Int) (a : Nat) : Prop := start ≤ (a / 16 : Nat) ∧ ((a / 16 : Nat) : Int) < start + count
    ∃ t, step s = .next t
      ∧ t = { s with
          fsm := if s.pic.partitionedFrame then .partA else .mb
          slice := { s.slice with
            resyncMbX := s.slice.mbX, resyncMbY := s.slice.mbY, firstSliceLine := true, lastResyncPos := toU 32 s.pos
            mbValid := 0, lastMvFwd := ⟨⟨0, 0⟩, ⟨0, 0⟩⟩, lastMvBwd := ⟨⟨0, 0⟩, ⟨0, 0⟩⟩ }
          stores := { s.stores with
            acLuma := t.stores.acLuma, acCb := t.stores.acCb, acCr := t.stores.acCr } }
      ∧ (¬fromPacket → t.stores = s.stores)
      ∧ (fromPacket → ∀ a,
        let luma := cleared ((2 * y - 1) * (2 * w) + 2 * x - 1) (2 * w + 1) a
        let chroma := cleared ((y - 1) * w + x - 1) (w + 1) a
        (luma → Cells.read 0 t.stores.acLuma a = 0)
          ∧ (¬luma → Cells.read 0 t.stores.acLuma a = Cells.read 0 s.stores.acLuma a)
          ∧ (chroma → Cells.read 0 t.stores.acCb a = 0 ∧ Cells.read 0 t.stores.acCr a = 0)
          ∧ (¬chroma → Cells.read 0 t.stores.acCb a = Cells.read 0 s.stores.acCb a
            ∧ Cells.read 0 t.stores.acCr a = Cells.read 0 s.stores.acCr a))

/-- The steps of RESYNC_CHECK that run no operation (45_resync.md R349 to R351). -/
def Obligations.RecoverySearchesFromTheSliceStart : Prop :=
  ∀ s : State, s.fsm = .resyncCheck → s.lenFits = true → s.pos ≤ s.endPos → s.slice.lastResyncPos.toNat ≤ s.endPos →
    let finished := s.slice.nextMbi.toNat = s.mbTotal
    let phase (p : Phase) : Eng := { s.eng with phase := p }
    (finished → s.eng.phase = .recover ∨ (∃ r, s.eng.phase = .decide r) →
        step s = .next { s with
          fsm := .done, status := { s.status with result := if s.slice.mbErr = 0 then .ok else .okWithErrors } })
      ∧ (¬finished → s.eng.phase = .decide .ok → step s = .next { s with fsm := .mb })
      ∧ (¬finished → s.eng.phase = .decide .sliceEnd → s.pos + 1 ≤ s.endPos →
        step s = .next { s.atBit ((s.pos + 8) / 8 * 8) with eng := phase .header })
      ∧ (¬finished → s.eng.phase = .decide .sliceNoend → step s = .next { s with eng := phase .recover })
      ∧ (¬finished → s.eng.phase = .recover →
        step s = .next { s.atBit ((s.slice.lastResyncPos.toNat + 7) / 8 * 8) with eng := phase .search })
      ∧ (s.eng.phase = .search → s.pos + 27 < s.endPos → s.memRead s.pos 16 ≠ 0 → step s = .next (s.atBit (s.pos + 8)))
      ∧ (s.eng.phase = .search → s.pos + 27 < s.endPos → s.memRead s.pos 16 = 0 → step s = exec .videoPacketHeader s)
      ∧ (s.eng.phase = .search → s.endPos ≤ s.pos + 27 → step s = .next { s with
          fsm := .error
          status := ⟨.fatalNoResync, .resyncSearch, BitVec.ofNat 32 s.pos, false, s.status.log⟩
          stores := { s.stores with rowprog := s.mbH } })

/-- Taking a raise, the block's exception entry (60_exceptions.md R371, R374, R377, R386), and the count of the
macroblocks that a recoverable one loses (45_resync.md R350). That every row is published after a fatal VOP header too is
log 19, that BAD_COMMAND leaves STATUS.PIC_VALID as it was log 16, the count in a partitioned slice log 18. -/
def Obligations.RaiseRecordsAndClassifies : Prop :=
  ∀ (s : State) (site : Site) (r : Raise),
    let t := s.takeRaise site r
    t.status.result = r.code ∧ t.status.tag = r.tag ∧ t.status.errpos = toU 32 s.pos ∧ t.status.log = s.status.log
      ∧ t.bitpos = s.bitpos ∧ t.seq = s.seq ∧ t.pic = s.pic ∧ t.time = s.time ∧ t.mb = s.mb ∧ t.ctrl = s.ctrl
      ∧ t.cfg = s.cfg ∧ t.bs = s.bs ∧ t.stores = { s.stores with rowprog := t.stores.rowprog }
      ∧ (r.code.isFatal = true → t.fsm = .error ∧ t.status.picValid = false
        ∧ (site.inPicture = true → t.stores.rowprog = s.mbH))
      ∧ (r.code ∈ [.ok, .okAtVop, .okWithErrors, .endOfData, .frameSkipped, .badCommand] → t.fsm = .done)
      ∧ (r.code ∈ [.sliceEnd, .sliceNoend] → t.fsm = .resyncCheck)
      ∧ (r.code = .invalidData →
        (site = .headerRun → t.fsm = .scan) ∧ (site = .vopHeader → t.fsm = .error ∧ t.status.picValid = false)
          ∧ (site ∈ [.macroblock, .partA, .partB, .packet] → t.fsm = .resyncCheck ∧ t.eng.phase = .recover)
          ∧ (let left := s.slice.mbNumLeft.toNat
             let lost := if s.pic.partitionedFrame = false then 1
               else if r.tag = .resyncMbnum then left + 1 else max 1 left
             site = .macroblock → s.slice.mbErr.toNat + lost < 1048576 → s.mbi + 1 < 1048576 →
             t.port = s.port ++ [.failed s.slice.mbX s.slice.mbY]
               ∧ t.slice = { s.slice with
                   mbErr := BitVec.ofNat 20 (s.slice.mbErr.toNat + lost), nextMbi := BitVec.ofNat 20 (s.mbi + 1) }))
      ∧ (r.code.isFatal = false → ¬(r.code = .invalidData ∧ site = .vopHeader) →
        t.status.picValid = s.status.picValid ∧ t.stores = s.stores)

/-- The return from DONE or ERROR (60_exceptions.md R378, 30_encoding.md R134). That SEQ.context_reinit is cleared by
the acknowledge is log 11. -/
def Obligations.AcknowledgeReturnsToIdle : Prop :=
  ∀ s : State, s.fsm = .done ∨ s.fsm = .error →
    (s.ctrl.ack = false → step s = .next s)
      ∧ (s.ctrl.ack = true → step s = .next { s with
        fsm := .idle, ctrl := { s.ctrl with ack := false, cmd := 0 }, seq := { s.seq with contextReinit := false } })

/-- The commands, as whole next states (30_encoding.md R130). The tag of BAD_COMMAND, and that it leaves
STATUS.PIC_VALID as it was, are log 16. -/
def Obligations.CommandsActOnlyInIdle : Prop :=
  ∀ s : State,
    let taken : Status := { s.status with result := .none, tag := .none, errpos := 0 }
    (exec .cmdNop s = .next s)
      ∧ (s.fsm = .idle → exec .cmdScanHeaders s = .next { s with fsm := .scan, status := taken })
      ∧ (s.fsm = .idle → exec .cmdDecodePicture s = .next { s with fsm := .hdrVop, status := taken })
      ∧ (s.fsm = .idle →
        exec .cmdClrlog s = .next { s with fsm := .done, status := { taken with result := .ok, log := 0 } })
      ∧ (∀ i : Instr, i ∈ [.cmdReserved6, .cmdReserved7, .cmdReserved8, .cmdReserved9, .cmdReserved10, .cmdReserved11,
          .cmdReserved12, .cmdReserved13, .cmdReserved14, .cmdReserved15] → s.fsm = .idle →
        exec i s = .next { s with
          fsm := .done, status := { s.status with result := .badCommand, tag := .command, errpos := toU 32 s.pos } })
      ∧ (s.fsm ≠ .idle → ∀ c : BitVec 4, exec (commandOf c) s = .next s)

/-- SETPOS for every position (30_encoding.md R131), under the launch premise on LEN (70_reset_and_hazards.md R407). -/
def Obligations.SetposMovesInsideTheStream : Prop :=
  ∀ s : State, s.fsm = .idle →
    (s.lenFits = true → s.ctrl.pos.toNat ≤ 8 * s.len.toNat → exec .cmdSetpos s = .next { s with
        bitpos := s.ctrl.pos.toNat
        fsm := .done
        status := { s.status with result := .ok, tag := .none, errpos := 0 } })
      ∧ (8 * s.len.toNat < s.ctrl.pos.toNat → ∃ tag pos valid, exec .cmdSetpos s = .next { s with
        fsm := .done
        status := { s.status with result := .badCommand, tag := tag, errpos := pos, picValid := valid } })

/-- QUIRK_RESOLVE and RESOLVE_QUIRKS from every state: the signatures of every pattern and of a text that begins as
none of them, the tag defaults, the twelve flags, the permutation switch (46_quirks.md R361 to R367; 30_encoding.md
R130). How much text a pattern takes is log 24; that the flags replace the register is log 34. -/
def Obligations.ResolverSetsTheFlags : Prop :=
  ∀ s : State,
    let isDigit (c : Byte) : Prop := 0x30 ≤ c.toNat ∧ c.toNat ≤ 0x39
    let value (ds : List Byte) : Int := (ds.foldl (fun v c => 10 * v + (c.toNat - 0x30)) 0 : Nat)
    let writes (b : List Byte) (v : Int) : Prop := -2147483648 ≤ v ∧ v ≤ 2147483647 ∧ ∃ ds : List Byte,
      ds ≠ [] ∧ (∀ c ∈ ds, isDigit c)
        ∧ ((b = ds ∧ v = value ds) ∨ (b = 0x2B :: ds ∧ v = value ds) ∨ (b = 0x2D :: ds ∧ v = -value ds))
    let stops (rest : List Byte) : Prop := ∀ c ∈ rest.head?, ¬isDigit c
    let divX : List Byte := [0x44, 0x69, 0x76, 0x58]
    let build : List Byte := [0x42, 0x75, 0x69, 0x6C, 0x64]
    let ffmpe : List Byte := [0x46, 0x46, 0x6D, 0x70, 0x65]
    let gV : List Byte := [0x67, 0x20, 0x76]
    let libBuild : List Byte :=
      [0x20, 0x2F, 0x20, 0x6C, 0x69, 0x62, 0x61, 0x76, 0x63, 0x6F, 0x64, 0x65, 0x63, 0x20, 0x62, 0x75, 0x69, 0x6C, 0x64,
       0x3A, 0x20]
    let lavc : List Byte := [0x4C, 0x61, 0x76, 0x63]
    let ffmpeg : List Byte := [0x66, 0x66, 0x6D, 0x70, 0x65, 0x67]
    let xvid : List Byte := [0x58, 0x76, 0x69, 0x44]
    let text : List Byte := (List.range s.seq.userDataLen.toNat).map (fun i => Cells.read 0 s.seq.userData i)
    let reg (v : Int) : BitVec 32 := BitVec.ofInt 32 v
    let tag := s.ctrl.codecTag
    ∃ (t : State) (dv db xb lb : BitVec 32) (packed : Bool), exec .quirkResolve s = .next t
      ∧ (text.head? ∉ [some 0x44, some 0x46, some 0x4C, some 0x58, some 0x66] →
        dv = s.seq.divxVersion ∧ db = s.seq.divxBuild ∧ xb = s.seq.xvidBuild ∧ lb = s.seq.lavcBuild ∧ packed = false)
      ∧ (∀ a b v w rest, writes a v → writes b w → stops rest →
        text = divX ++ a ++ build ++ b ++ rest ∨ text = divX ++ a ++ [0x62] ++ b ++ rest →
        dv = reg v ∧ db = reg w ∧ xb = s.seq.xvidBuild ∧ lb = s.seq.lavcBuild
          ∧ packed = decide (rest.head? = some 0x70))
      ∧ (∀ run a v rest, (0x62 : Byte) ∉ run → writes a v → stops rest → text = ffmpe ++ run ++ [0x62] ++ a ++ rest →
        dv = s.seq.divxVersion ∧ db = s.seq.divxBuild ∧ xb = s.seq.xvidBuild ∧ lb = reg v ∧ packed = false)
      ∧ (∀ a b c d x y z v rest, writes a x → writes b y → writes c z → writes d v → stops rest →
        text = ffmpe ++ gV ++ a ++ [0x2E] ++ b ++ [0x2E] ++ c ++ libBuild ++ d ++ rest →
        dv = s.seq.divxVersion ∧ db = s.seq.divxBuild ∧ xb = s.seq.xvidBuild ∧ lb = reg v ∧ packed = false)
      ∧ (∀ a b c x y z rest, writes a x → writes b y → writes c z → stops rest →
        text = lavc ++ a ++ [0x2E] ++ b ++ [0x2E] ++ c ++ rest →
        dv = s.seq.divxVersion ∧ db = s.seq.divxBuild ∧ xb = s.seq.xvidBuild
          ∧ lb = reg (x % 256 * 65536 + y % 256 * 256 + z % 256) ∧ packed = false)
      ∧ (text = ffmpeg →
        dv = s.seq.divxVersion ∧ db = s.seq.divxBuild ∧ xb = s.seq.xvidBuild ∧ lb = reg 4600 ∧ packed = false)
      ∧ (∀ a v rest, writes a v → stops rest → text = xvid ++ a ++ rest →
        dv = s.seq.divxVersion ∧ db = s.seq.divxBuild ∧ xb = reg v ∧ lb = s.seq.lavcBuild ∧ packed = false)
      ∧ (let unset := xb = -1 ∧ dv = -1 ∧ lb = -1
         let xb' := if unset ∧ tag ∈ [0x44495658, 0x58495658, 0x34504D52, 0x34504D5A, 0x50504953] then 0 else xb
         let dv' := if unset ∧ tag = 0x58564944 ∧ s.seq.volControl = false then 400 else dv
         let cancelled := 0 ≤ xb'.toInt ∧ 0 ≤ dv'.toInt
         t.seq.xvidBuild = xb' ∧ t.seq.lavcBuild = lb ∧ t.seq.divxVersion = (if cancelled then -1 else dv')
           ∧ t.seq.divxBuild = if cancelled then -1 else db)
      ∧ t = { s with
          status := { s.status with result := .ok }
          seq := { s.seq with
            divxVersion := t.seq.divxVersion, divxBuild := t.seq.divxBuild, xvidBuild := t.seq.xvidBuild
            lavcBuild := t.seq.lavcBuild, intraMatrix := t.seq.intraMatrix, interMatrix := t.seq.interMatrix
            chromaIntraMatrix := t.seq.chromaIntraMatrix, chromaInterMatrix := t.seq.chromaInterMatrix }
          ctrl := { s.ctrl with quirk := t.ctrl.quirk }
          cfg := { s.cfg with idctPerm := t.cfg.idctPerm } }
      ∧ (let dv := t.seq.divxVersion.toInt
         let db := t.seq.divxBuild.toInt
         let lv := t.seq.lavcBuild
         (t.quirk .xvidIlace = true ↔ tag = 0x58495658) ∧ (t.quirk .ump4 = true ↔ tag = 0x34504D55)
           ∧ t.quirk .noPadding = false
           ∧ (t.quirk .qpelChroma = true ↔ (500 ≤ dv ∧ db < 1814) ∨ t.seq.xvidBuild.toNat ≤ 1)
           ∧ (t.quirk .qpelChroma2 = true ↔ 502 < dv ∧ db < 1814)
           ∧ (t.quirk .hpelChroma = true ↔ 0 ≤ dv)
           ∧ (t.quirk .dcClip = true ↔ t.seq.xvidBuild.toNat ≤ 32 ∨ lv.toNat ≤ 4712)
           ∧ (t.quirk .edge = true ↔ t.seq.xvidBuild.toNat ≤ 12 ∨ lv.toNat < 4670 ∨ t.seq.divxVersion.toNat < 500)
           ∧ (t.quirk .stdQpel = true ↔ lv.toNat < 4653)
           ∧ (t.quirk .directBlocksize = true ↔ lv.toNat < 4655 ∨ 0 ≤ dv)
           ∧ (t.quirk .is3iv1 = true ↔ tag = 0x31564933)
           ∧ t.quirk .divxPacked = packed
           ∧ t.ctrl.quirk &&& 0xFFF = t.ctrl.quirk)
      ∧ (let switches := s.cfg.xvidIdctLo ≤ t.seq.xvidBuild.toInt ∧ t.seq.xvidBuild.toInt ≤ s.cfg.xvidIdctHi
           ∧ s.cfg.idctPerm ≠ s.cfg.xvidIdctPerm
         let moved (m m' : List Byte) : Prop := m.length = 64 → ∀ j, j < 64 →
           m'.getD (permAt s.cfg.xvidIdctPerm j) 0 = m.getD (permAt s.cfg.idctPerm j) 0
         (switches → t.cfg.idctPerm = s.cfg.xvidIdctPerm ∧ (isPerm64 s.cfg.xvidIdctPerm = true →
             moved s.seq.intraMatrix t.seq.intraMatrix ∧ moved s.seq.interMatrix t.seq.interMatrix
               ∧ moved s.seq.chromaIntraMatrix t.seq.chromaIntraMatrix
               ∧ moved s.seq.chromaInterMatrix t.seq.chromaInterMatrix))
           ∧ (¬switches → t.cfg.idctPerm = s.cfg.idctPerm ∧ t.seq.intraMatrix = s.seq.intraMatrix
             ∧ t.seq.interMatrix = s.seq.interMatrix ∧ t.seq.chromaIntraMatrix = s.seq.chromaIntraMatrix
             ∧ t.seq.chromaInterMatrix = s.seq.chromaInterMatrix))
      ∧ (s.fsm = .idle → exec .cmdResolveQuirks s = .next { t with
          fsm := .done, status := { s.status with result := .ok, tag := .none, errpos := 0 } })
      ∧ (s.fsm ≠ .idle → exec .cmdResolveQuirks s = .next s)

/-- Host writes (10_state.md R59; 60_exceptions.md R388; 70_reset_and_hazards.md R416); bits 12 to 31 of CTRL.QUIRK
ignore a write (46_quirks.md R364). -/
def Obligations.HostWriteWhileBusyIsIgnored : Prop :=
  ∀ (s : State) (w : HostWrite),
    (s.fsm ∉ [Fsm.idle, .done, .error] → s.hostWrite w = s)
      ∧ (let t := s.hostWrite w
        t = { s with ctrl := t.ctrl, bs := t.bs, len := t.len, stores := t.stores, cfg := t.cfg })
      ∧ (∀ v, s.fsm ∈ [Fsm.idle, .done, .error] → (s.hostWrite (.quirk v)).ctrl = { s.ctrl with quirk := v &&& 0xFFF })
end

