-- ==== Sys2Proof/Laws/Cells.lean ====
section
/-! SUPPORT. Sparse memories: what a read after a write gives, and that every memory operation keeps the canonical
form. -/

namespace Sys2Proof.Machine

variable {α : Type} [DecidableEq α] {d v u : α} {m : Cells α} {i j k : Nat} {lo : Option Nat}

/-- Whether `i` is above the bound `lo`. -/
def Cells.above (lo : Option Nat) (i : Nat) : Prop := ∀ k, lo = some k → k < i

omit [DecidableEq α] in
theorem Cells.above_none (i : Nat) : Cells.above none i := by intro k h; cases h

theorem Cells.wfFrom_nil : Cells.wfFrom d lo ([] : Cells α) = true := rfl

theorem Cells.wfFrom_cons (rest : Cells α) :
    Cells.wfFrom d lo ((j, v) :: rest) = true ↔ Cells.above lo j ∧ v ≠ d ∧ Cells.wfFrom d (some j) rest = true := by
  cases lo <;> simp [Cells.wfFrom, Cells.above, and_assoc]

/-- A canonical list stays canonical under a lower bound. -/
theorem Cells.wfFrom_weaken (h : Cells.wfFrom d (some j) m = true) (hj : Cells.above lo j) :
    Cells.wfFrom d lo m = true := by
  cases m with
  | nil => rfl
  | cons c rest =>
    obtain ⟨k, v⟩ := c
    rw [Cells.wfFrom_cons] at h ⊢
    refine ⟨?_, h.2⟩
    intro b hb
    exact lt_trans (hj b hb) (h.1 j rfl)

theorem Cells.wfFrom_write (h : Cells.wfFrom d lo m = true) (hi : Cells.above lo i) :
    Cells.wfFrom d lo (Cells.write d i v m) = true := by
  induction m generalizing lo with
  | nil =>
    by_cases hv : v = d
    · simp [Cells.write, hv, Cells.wfFrom]
    · rw [Cells.write, if_neg hv, Cells.wfFrom_cons]
      exact ⟨hi, hv, rfl⟩
  | cons c rest ih =>
    obtain ⟨j, u⟩ := c
    have h' := (Cells.wfFrom_cons rest).1 h
    unfold Cells.write
    split
    · next hij =>
      split
      · exact h
      · next hv =>
        rw [Cells.wfFrom_cons, Cells.wfFrom_cons]
        exact ⟨hi, hv, fun k hk => by cases hk; exact hij, h'.2⟩
    · split
      · next hij =>
        subst hij
        split
        · exact Cells.wfFrom_weaken h'.2.2 h'.1
        · next hv => exact (Cells.wfFrom_cons rest).2 ⟨h'.1, hv, h'.2.2⟩
      · next h1 h2 =>
        rw [Cells.wfFrom_cons]
        exact ⟨h'.1, h'.2.1, ih h'.2.2 (fun k hk => by cases hk; omega)⟩

/-- A write keeps the canonical form. -/
theorem Cells.wf_write (h : Cells.wf d m = true) : Cells.wf d (Cells.write d i v m) = true :=
  Cells.wfFrom_write h (Cells.above_none i)

theorem Cells.wf_nil : Cells.wf d ([] : Cells α) = true := rfl

/-- Writing a run of values keeps the canonical form. -/
theorem Cells.wf_writeList (vs : List α) (h : Cells.wf d m = true) : Cells.wf d (Cells.writeList d i vs m) = true := by
  induction vs generalizing i m with
  | nil => exact h
  | cons v vs ih => exact ih (Cells.wf_write h)

/-- Clearing a run of addresses keeps the canonical form. -/
theorem Cells.wf_clear (n : Nat) (h : Cells.wf d m = true) : Cells.wf d (Cells.clear d i n m) = true := by
  induction n generalizing i m with
  | zero => exact h
  | succ n ih => exact ih (Cells.wf_write h)

/-- Below the lowest address of a canonical list everything is unlisted. -/
theorem Cells.read_below (h : Cells.wfFrom d (some j) m = true) (hi : i ≤ j) : Cells.read d m i = d := by
  cases m with
  | nil => rfl
  | cons c rest =>
    obtain ⟨k, v⟩ := c
    have hk := ((Cells.wfFrom_cons rest).1 h).1 j rfl
    rw [Cells.read, if_neg (by omega), if_pos (by omega)]

theorem Cells.readFrom_write_same (h : Cells.wfFrom d lo m = true) : Cells.read d (Cells.write d i v m) i = v := by
  induction m generalizing lo with
  | nil => by_cases hv : v = d <;> simp [Cells.write, Cells.read, hv]
  | cons c rest ih =>
    obtain ⟨j, u⟩ := c
    have h' := (Cells.wfFrom_cons rest).1 h
    unfold Cells.write
    split
    · next hij =>
      split
      · next hv => rw [Cells.read, if_neg (by omega), if_pos hij, hv]
      · simp [Cells.read]
    · split
      · next hij =>
        subst hij
        split
        · next hv => rw [Cells.read_below h'.2.2 le_rfl, hv]
        · simp [Cells.read]
      · next h1 h2 => rw [Cells.read, if_neg h2, if_neg h1]; exact ih h'.2.2

/-- A read at the written address gives the written value. -/
theorem Cells.read_write_same (h : Cells.wf d m = true) : Cells.read d (Cells.write d i v m) i = v :=
  Cells.readFrom_write_same h

theorem Cells.readFrom_write_other (h : Cells.wfFrom d lo m = true) (hk : k ≠ i) :
    Cells.read d (Cells.write d i v m) k = Cells.read d m k := by
  induction m generalizing lo with
  | nil => by_cases hv : v = d <;> simp [Cells.write, Cells.read, hv, hk]
  | cons c rest ih =>
    obtain ⟨j, u⟩ := c
    have h' := (Cells.wfFrom_cons rest).1 h
    unfold Cells.write
    split
    · next hij =>
      split
      · rfl
      · conv_lhs => rw [Cells.read, if_neg hk]
        by_cases hki : k < i
        · rw [if_pos hki, Cells.read, if_neg (by omega), if_pos (by omega)]
        · rw [if_neg hki]
    · split
      · next hij =>
        subst hij
        have e : Cells.read d ((i, u) :: rest) k = Cells.read d rest k := by
          conv_lhs => rw [Cells.read, if_neg hk]
          split
          · next hlt => exact (Cells.read_below h'.2.2 (le_of_lt hlt)).symm
          · rfl
        split
        · exact e.symm
        · rw [e]
          conv_lhs => rw [Cells.read, if_neg hk]
          split
          · next hlt => exact (Cells.read_below h'.2.2 (le_of_lt hlt)).symm
          · rfl
      · conv_lhs => rw [Cells.read]
        conv_rhs => rw [Cells.read]
        rw [ih h'.2.2]

/-- A read at any other address gives what it gave before. -/
theorem Cells.read_write_other (h : Cells.wf d m = true) (hk : k ≠ i) :
    Cells.read d (Cells.write d i v m) k = Cells.read d m k :=
  Cells.readFrom_write_other h hk

/-- A read of a list written as a run of values. -/
theorem Cells.read_writeList (vs : List α) (h : Cells.wf d m = true) :
    Cells.read d (Cells.writeList d i vs m) k =
      if i ≤ k ∧ k < i + vs.length then vs.getD (k - i) d else Cells.read d m k := by
  induction vs generalizing i m with
  | nil => rw [if_neg (by rw [List.length_nil]; omega)]; rfl
  | cons v vs ih =>
    rw [Cells.writeList, ih (Cells.wf_write h)]
    by_cases h1 : k = i
    · subst h1
      rw [if_neg (by omega), if_pos (by simp), Cells.read_write_same h]
      simp
    · by_cases h2 : i + 1 ≤ k ∧ k < i + 1 + vs.length
      · rw [if_pos h2, if_pos (by simp; omega)]
        obtain ⟨n, hn⟩ : ∃ n, k - i = n + 1 := ⟨k - i - 1, by omega⟩
        rw [hn, List.getD_cons_succ, show k - (i + 1) = n by omega]
      · rw [if_neg h2, if_neg (by simp; omega), Cells.read_write_other h h1]

/-- A read of a list with a run of addresses cleared. -/
theorem Cells.read_clear (n : Nat) (h : Cells.wf d m = true) :
    Cells.read d (Cells.clear d i n m) k = if i ≤ k ∧ k < i + n then d else Cells.read d m k := by
  induction n generalizing i m with
  | zero => rw [if_neg (by omega)]; rfl
  | succ n ih =>
    rw [Cells.clear, ih (Cells.wf_write h)]
    by_cases h1 : k = i
    · subst h1
      rw [if_neg (by omega), if_pos (by omega), Cells.read_write_same h]
    · by_cases h2 : i + 1 ≤ k ∧ k < i + 1 + n
      · rw [if_pos h2, if_pos (by omega)]
      · rw [if_neg h2, if_neg (by omega), Cells.read_write_other h h1]

/-- Equal reads make equal canonical lists. -/
theorem Cells.ext_from {m' : Cells α} (h : Cells.wfFrom d lo m = true) (h' : Cells.wfFrom d lo m' = true)
    (e : ∀ k, Cells.read d m k = Cells.read d m' k) : m = m' := by
  induction m generalizing lo m' with
  | nil =>
    cases m' with
    | nil => rfl
    | cons c r =>
      obtain ⟨j, u⟩ := c
      have := e j
      simp [Cells.read] at this
      exact absurd this.symm ((Cells.wfFrom_cons r).1 h').2.1
  | cons c r ih =>
    obtain ⟨j, u⟩ := c
    have g := (Cells.wfFrom_cons r).1 h
    cases m' with
    | nil =>
      have := e j
      simp [Cells.read] at this
      exact absurd this g.2.1
    | cons c' r' =>
      obtain ⟨j', u'⟩ := c'
      have g' := (Cells.wfFrom_cons r').1 h'
      have ej := e j
      have ej' := e j'
      simp only [Cells.read, if_true] at ej ej'
      have hjj : j = j' := by
        by_contra hne
        rcases Nat.lt_or_gt_of_ne hne with hlt | hlt
        · rw [if_neg hne, if_pos hlt] at ej; exact g.2.1 ej
        · rw [if_neg (fun h => hne h.symm), if_pos hlt] at ej'; exact g'.2.1 ej'.symm
      subst hjj
      simp only [if_true] at ej
      subst ej
      congr 1
      refine ih g.2.2 g'.2.2 fun k => ?_
      have := e k
      simp only [Cells.read] at this
      rcases Nat.lt_trichotomy k j with hk | hk | hk
      · rw [Cells.read_below g.2.2 hk.le, Cells.read_below g'.2.2 hk.le]
      · rw [Cells.read_below g.2.2 hk.le, Cells.read_below g'.2.2 hk.le]
      · rwa [if_neg (by omega), if_neg (by omega), if_neg (by omega), if_neg (by omega)] at this

/-- A write of a byte of BS keeps the canonical form. -/
theorem Memory.wf_write (m : Memory) (a : Nat) (v : Byte) (h : m.wf = true) : (m.write a v).wf = true :=
  Cells.wf_write h

/-- A write of a run of bytes of BS keeps the canonical form. -/
theorem Memory.wf_writeBytes (m : Memory) (a : Nat) (vs : List Byte) (h : m.wf = true) :
    (m.writeBytes a vs).wf = true := Cells.wf_writeList vs h

end Sys2Proof.Machine
end

