-- ==== Sys2Proof/Laws/State.lean ====
section
/-! SUPPORT. One lemma for each field and each update of State: what the update leaves in it. -/

namespace Sys2Proof.Machine

@[simp] theorem State.setPos_bitpos (s : State) (p : Nat) : (s.setPos p).bitpos = (toU s.cfg.cursorBits p).toNat := rfl
@[simp] theorem State.setPos_len (s : State) (p : Nat) : (s.setPos p).len = s.len := rfl
@[simp] theorem State.setPos_bs (s : State) (p : Nat) : (s.setPos p).bs = s.bs := rfl
@[simp] theorem State.setPos_fsm (s : State) (p : Nat) : (s.setPos p).fsm = s.fsm := rfl
@[simp] theorem State.setPos_seq (s : State) (p : Nat) : (s.setPos p).seq = s.seq := rfl
@[simp] theorem State.setPos_pic (s : State) (p : Nat) : (s.setPos p).pic = s.pic := rfl
@[simp] theorem State.setPos_time (s : State) (p : Nat) : (s.setPos p).time = s.time := rfl
@[simp] theorem State.setPos_slice (s : State) (p : Nat) : (s.setPos p).slice = s.slice := rfl
@[simp] theorem State.setPos_mb (s : State) (p : Nat) : (s.setPos p).mb = s.mb := rfl
@[simp] theorem State.setPos_ctrl (s : State) (p : Nat) : (s.setPos p).ctrl = s.ctrl := rfl
@[simp] theorem State.setPos_status (s : State) (p : Nat) : (s.setPos p).status = s.status := rfl
@[simp] theorem State.setPos_stores (s : State) (p : Nat) : (s.setPos p).stores = s.stores := rfl
@[simp] theorem State.setPos_coloc (s : State) (p : Nat) : (s.setPos p).coloc = s.coloc := rfl
@[simp] theorem State.setPos_cfg (s : State) (p : Nat) : (s.setPos p).cfg = s.cfg := rfl
@[simp] theorem State.setPos_port (s : State) (p : Nat) : (s.setPos p).port = s.port := rfl
@[simp] theorem State.setPos_eng (s : State) (p : Nat) : (s.setPos p).eng = s.eng := rfl

@[simp] theorem State.setFsm_bitpos (s : State) (f : Fsm) : (s.setFsm f).bitpos = s.bitpos := rfl
@[simp] theorem State.setFsm_len (s : State) (f : Fsm) : (s.setFsm f).len = s.len := rfl
@[simp] theorem State.setFsm_bs (s : State) (f : Fsm) : (s.setFsm f).bs = s.bs := rfl
@[simp] theorem State.setFsm_fsm (s : State) (f : Fsm) : (s.setFsm f).fsm = f := rfl
@[simp] theorem State.setFsm_seq (s : State) (f : Fsm) : (s.setFsm f).seq = s.seq := rfl
@[simp] theorem State.setFsm_pic (s : State) (f : Fsm) : (s.setFsm f).pic = s.pic := rfl
@[simp] theorem State.setFsm_time (s : State) (f : Fsm) : (s.setFsm f).time = s.time := rfl
@[simp] theorem State.setFsm_slice (s : State) (f : Fsm) : (s.setFsm f).slice = s.slice := rfl
@[simp] theorem State.setFsm_mb (s : State) (f : Fsm) : (s.setFsm f).mb = s.mb := rfl
@[simp] theorem State.setFsm_ctrl (s : State) (f : Fsm) : (s.setFsm f).ctrl = s.ctrl := rfl
@[simp] theorem State.setFsm_status (s : State) (f : Fsm) : (s.setFsm f).status = s.status := rfl
@[simp] theorem State.setFsm_stores (s : State) (f : Fsm) : (s.setFsm f).stores = s.stores := rfl
@[simp] theorem State.setFsm_coloc (s : State) (f : Fsm) : (s.setFsm f).coloc = s.coloc := rfl
@[simp] theorem State.setFsm_cfg (s : State) (f : Fsm) : (s.setFsm f).cfg = s.cfg := rfl
@[simp] theorem State.setFsm_port (s : State) (f : Fsm) : (s.setFsm f).port = s.port := rfl
@[simp] theorem State.setFsm_eng (s : State) (f : Fsm) : (s.setFsm f).eng = s.eng := rfl

@[simp] theorem State.updSeq_bitpos (s : State) (f : Seq → Seq) : (s.updSeq f).bitpos = s.bitpos := rfl
@[simp] theorem State.updSeq_len (s : State) (f : Seq → Seq) : (s.updSeq f).len = s.len := rfl
@[simp] theorem State.updSeq_bs (s : State) (f : Seq → Seq) : (s.updSeq f).bs = s.bs := rfl
@[simp] theorem State.updSeq_fsm (s : State) (f : Seq → Seq) : (s.updSeq f).fsm = s.fsm := rfl
@[simp] theorem State.updSeq_seq (s : State) (f : Seq → Seq) : (s.updSeq f).seq = f s.seq := rfl
@[simp] theorem State.updSeq_pic (s : State) (f : Seq → Seq) : (s.updSeq f).pic = s.pic := rfl
@[simp] theorem State.updSeq_time (s : State) (f : Seq → Seq) : (s.updSeq f).time = s.time := rfl
@[simp] theorem State.updSeq_slice (s : State) (f : Seq → Seq) : (s.updSeq f).slice = s.slice := rfl
@[simp] theorem State.updSeq_mb (s : State) (f : Seq → Seq) : (s.updSeq f).mb = s.mb := rfl
@[simp] theorem State.updSeq_ctrl (s : State) (f : Seq → Seq) : (s.updSeq f).ctrl = s.ctrl := rfl
@[simp] theorem State.updSeq_status (s : State) (f : Seq → Seq) : (s.updSeq f).status = s.status := rfl
@[simp] theorem State.updSeq_stores (s : State) (f : Seq → Seq) : (s.updSeq f).stores = s.stores := rfl
@[simp] theorem State.updSeq_coloc (s : State) (f : Seq → Seq) : (s.updSeq f).coloc = s.coloc := rfl
@[simp] theorem State.updSeq_cfg (s : State) (f : Seq → Seq) : (s.updSeq f).cfg = s.cfg := rfl
@[simp] theorem State.updSeq_port (s : State) (f : Seq → Seq) : (s.updSeq f).port = s.port := rfl
@[simp] theorem State.updSeq_eng (s : State) (f : Seq → Seq) : (s.updSeq f).eng = s.eng := rfl

@[simp] theorem State.updPic_bitpos (s : State) (f : Pic → Pic) : (s.updPic f).bitpos = s.bitpos := rfl
@[simp] theorem State.updPic_len (s : State) (f : Pic → Pic) : (s.updPic f).len = s.len := rfl
@[simp] theorem State.updPic_bs (s : State) (f : Pic → Pic) : (s.updPic f).bs = s.bs := rfl
@[simp] theorem State.updPic_fsm (s : State) (f : Pic → Pic) : (s.updPic f).fsm = s.fsm := rfl
@[simp] theorem State.updPic_seq (s : State) (f : Pic → Pic) : (s.updPic f).seq = s.seq := rfl
@[simp] theorem State.updPic_pic (s : State) (f : Pic → Pic) : (s.updPic f).pic = f s.pic := rfl
@[simp] theorem State.updPic_time (s : State) (f : Pic → Pic) : (s.updPic f).time = s.time := rfl
@[simp] theorem State.updPic_slice (s : State) (f : Pic → Pic) : (s.updPic f).slice = s.slice := rfl
@[simp] theorem State.updPic_mb (s : State) (f : Pic → Pic) : (s.updPic f).mb = s.mb := rfl
@[simp] theorem State.updPic_ctrl (s : State) (f : Pic → Pic) : (s.updPic f).ctrl = s.ctrl := rfl
@[simp] theorem State.updPic_status (s : State) (f : Pic → Pic) : (s.updPic f).status = s.status := rfl
@[simp] theorem State.updPic_stores (s : State) (f : Pic → Pic) : (s.updPic f).stores = s.stores := rfl
@[simp] theorem State.updPic_coloc (s : State) (f : Pic → Pic) : (s.updPic f).coloc = s.coloc := rfl
@[simp] theorem State.updPic_cfg (s : State) (f : Pic → Pic) : (s.updPic f).cfg = s.cfg := rfl
@[simp] theorem State.updPic_port (s : State) (f : Pic → Pic) : (s.updPic f).port = s.port := rfl
@[simp] theorem State.updPic_eng (s : State) (f : Pic → Pic) : (s.updPic f).eng = s.eng := rfl

@[simp] theorem State.updTime_bitpos (s : State) (f : Time → Time) : (s.updTime f).bitpos = s.bitpos := rfl
@[simp] theorem State.updTime_len (s : State) (f : Time → Time) : (s.updTime f).len = s.len := rfl
@[simp] theorem State.updTime_bs (s : State) (f : Time → Time) : (s.updTime f).bs = s.bs := rfl
@[simp] theorem State.updTime_fsm (s : State) (f : Time → Time) : (s.updTime f).fsm = s.fsm := rfl
@[simp] theorem State.updTime_seq (s : State) (f : Time → Time) : (s.updTime f).seq = s.seq := rfl
@[simp] theorem State.updTime_pic (s : State) (f : Time → Time) : (s.updTime f).pic = s.pic := rfl
@[simp] theorem State.updTime_time (s : State) (f : Time → Time) : (s.updTime f).time = f s.time := rfl
@[simp] theorem State.updTime_slice (s : State) (f : Time → Time) : (s.updTime f).slice = s.slice := rfl
@[simp] theorem State.updTime_mb (s : State) (f : Time → Time) : (s.updTime f).mb = s.mb := rfl
@[simp] theorem State.updTime_ctrl (s : State) (f : Time → Time) : (s.updTime f).ctrl = s.ctrl := rfl
@[simp] theorem State.updTime_status (s : State) (f : Time → Time) : (s.updTime f).status = s.status := rfl
@[simp] theorem State.updTime_stores (s : State) (f : Time → Time) : (s.updTime f).stores = s.stores := rfl
@[simp] theorem State.updTime_coloc (s : State) (f : Time → Time) : (s.updTime f).coloc = s.coloc := rfl
@[simp] theorem State.updTime_cfg (s : State) (f : Time → Time) : (s.updTime f).cfg = s.cfg := rfl
@[simp] theorem State.updTime_port (s : State) (f : Time → Time) : (s.updTime f).port = s.port := rfl
@[simp] theorem State.updTime_eng (s : State) (f : Time → Time) : (s.updTime f).eng = s.eng := rfl

@[simp] theorem State.updSlice_bitpos (s : State) (f : Slice → Slice) : (s.updSlice f).bitpos = s.bitpos := rfl
@[simp] theorem State.updSlice_len (s : State) (f : Slice → Slice) : (s.updSlice f).len = s.len := rfl
@[simp] theorem State.updSlice_bs (s : State) (f : Slice → Slice) : (s.updSlice f).bs = s.bs := rfl
@[simp] theorem State.updSlice_fsm (s : State) (f : Slice → Slice) : (s.updSlice f).fsm = s.fsm := rfl
@[simp] theorem State.updSlice_seq (s : State) (f : Slice → Slice) : (s.updSlice f).seq = s.seq := rfl
@[simp] theorem State.updSlice_pic (s : State) (f : Slice → Slice) : (s.updSlice f).pic = s.pic := rfl
@[simp] theorem State.updSlice_time (s : State) (f : Slice → Slice) : (s.updSlice f).time = s.time := rfl
@[simp] theorem State.updSlice_slice (s : State) (f : Slice → Slice) : (s.updSlice f).slice = f s.slice := rfl
@[simp] theorem State.updSlice_mb (s : State) (f : Slice → Slice) : (s.updSlice f).mb = s.mb := rfl
@[simp] theorem State.updSlice_ctrl (s : State) (f : Slice → Slice) : (s.updSlice f).ctrl = s.ctrl := rfl
@[simp] theorem State.updSlice_status (s : State) (f : Slice → Slice) : (s.updSlice f).status = s.status := rfl
@[simp] theorem State.updSlice_stores (s : State) (f : Slice → Slice) : (s.updSlice f).stores = s.stores := rfl
@[simp] theorem State.updSlice_coloc (s : State) (f : Slice → Slice) : (s.updSlice f).coloc = s.coloc := rfl
@[simp] theorem State.updSlice_cfg (s : State) (f : Slice → Slice) : (s.updSlice f).cfg = s.cfg := rfl
@[simp] theorem State.updSlice_port (s : State) (f : Slice → Slice) : (s.updSlice f).port = s.port := rfl
@[simp] theorem State.updSlice_eng (s : State) (f : Slice → Slice) : (s.updSlice f).eng = s.eng := rfl

@[simp] theorem State.updMb_bitpos (s : State) (f : Mb → Mb) : (s.updMb f).bitpos = s.bitpos := rfl
@[simp] theorem State.updMb_len (s : State) (f : Mb → Mb) : (s.updMb f).len = s.len := rfl
@[simp] theorem State.updMb_bs (s : State) (f : Mb → Mb) : (s.updMb f).bs = s.bs := rfl
@[simp] theorem State.updMb_fsm (s : State) (f : Mb → Mb) : (s.updMb f).fsm = s.fsm := rfl
@[simp] theorem State.updMb_seq (s : State) (f : Mb → Mb) : (s.updMb f).seq = s.seq := rfl
@[simp] theorem State.updMb_pic (s : State) (f : Mb → Mb) : (s.updMb f).pic = s.pic := rfl
@[simp] theorem State.updMb_time (s : State) (f : Mb → Mb) : (s.updMb f).time = s.time := rfl
@[simp] theorem State.updMb_slice (s : State) (f : Mb → Mb) : (s.updMb f).slice = s.slice := rfl
@[simp] theorem State.updMb_mb (s : State) (f : Mb → Mb) : (s.updMb f).mb = f s.mb := rfl
@[simp] theorem State.updMb_ctrl (s : State) (f : Mb → Mb) : (s.updMb f).ctrl = s.ctrl := rfl
@[simp] theorem State.updMb_status (s : State) (f : Mb → Mb) : (s.updMb f).status = s.status := rfl
@[simp] theorem State.updMb_stores (s : State) (f : Mb → Mb) : (s.updMb f).stores = s.stores := rfl
@[simp] theorem State.updMb_coloc (s : State) (f : Mb → Mb) : (s.updMb f).coloc = s.coloc := rfl
@[simp] theorem State.updMb_cfg (s : State) (f : Mb → Mb) : (s.updMb f).cfg = s.cfg := rfl
@[simp] theorem State.updMb_port (s : State) (f : Mb → Mb) : (s.updMb f).port = s.port := rfl
@[simp] theorem State.updMb_eng (s : State) (f : Mb → Mb) : (s.updMb f).eng = s.eng := rfl

@[simp] theorem State.updCtrl_bitpos (s : State) (f : Ctrl → Ctrl) : (s.updCtrl f).bitpos = s.bitpos := rfl
@[simp] theorem State.updCtrl_len (s : State) (f : Ctrl → Ctrl) : (s.updCtrl f).len = s.len := rfl
@[simp] theorem State.updCtrl_bs (s : State) (f : Ctrl → Ctrl) : (s.updCtrl f).bs = s.bs := rfl
@[simp] theorem State.updCtrl_fsm (s : State) (f : Ctrl → Ctrl) : (s.updCtrl f).fsm = s.fsm := rfl
@[simp] theorem State.updCtrl_seq (s : State) (f : Ctrl → Ctrl) : (s.updCtrl f).seq = s.seq := rfl
@[simp] theorem State.updCtrl_pic (s : State) (f : Ctrl → Ctrl) : (s.updCtrl f).pic = s.pic := rfl
@[simp] theorem State.updCtrl_time (s : State) (f : Ctrl → Ctrl) : (s.updCtrl f).time = s.time := rfl
@[simp] theorem State.updCtrl_slice (s : State) (f : Ctrl → Ctrl) : (s.updCtrl f).slice = s.slice := rfl
@[simp] theorem State.updCtrl_mb (s : State) (f : Ctrl → Ctrl) : (s.updCtrl f).mb = s.mb := rfl
@[simp] theorem State.updCtrl_ctrl (s : State) (f : Ctrl → Ctrl) : (s.updCtrl f).ctrl = f s.ctrl := rfl
@[simp] theorem State.updCtrl_status (s : State) (f : Ctrl → Ctrl) : (s.updCtrl f).status = s.status := rfl
@[simp] theorem State.updCtrl_stores (s : State) (f : Ctrl → Ctrl) : (s.updCtrl f).stores = s.stores := rfl
@[simp] theorem State.updCtrl_coloc (s : State) (f : Ctrl → Ctrl) : (s.updCtrl f).coloc = s.coloc := rfl
@[simp] theorem State.updCtrl_cfg (s : State) (f : Ctrl → Ctrl) : (s.updCtrl f).cfg = s.cfg := rfl
@[simp] theorem State.updCtrl_port (s : State) (f : Ctrl → Ctrl) : (s.updCtrl f).port = s.port := rfl
@[simp] theorem State.updCtrl_eng (s : State) (f : Ctrl → Ctrl) : (s.updCtrl f).eng = s.eng := rfl

@[simp] theorem State.updStatus_bitpos (s : State) (f : Status → Status) : (s.updStatus f).bitpos = s.bitpos := rfl
@[simp] theorem State.updStatus_len (s : State) (f : Status → Status) : (s.updStatus f).len = s.len := rfl
@[simp] theorem State.updStatus_bs (s : State) (f : Status → Status) : (s.updStatus f).bs = s.bs := rfl
@[simp] theorem State.updStatus_fsm (s : State) (f : Status → Status) : (s.updStatus f).fsm = s.fsm := rfl
@[simp] theorem State.updStatus_seq (s : State) (f : Status → Status) : (s.updStatus f).seq = s.seq := rfl
@[simp] theorem State.updStatus_pic (s : State) (f : Status → Status) : (s.updStatus f).pic = s.pic := rfl
@[simp] theorem State.updStatus_time (s : State) (f : Status → Status) : (s.updStatus f).time = s.time := rfl
@[simp] theorem State.updStatus_slice (s : State) (f : Status → Status) : (s.updStatus f).slice = s.slice := rfl
@[simp] theorem State.updStatus_mb (s : State) (f : Status → Status) : (s.updStatus f).mb = s.mb := rfl
@[simp] theorem State.updStatus_ctrl (s : State) (f : Status → Status) : (s.updStatus f).ctrl = s.ctrl := rfl
@[simp] theorem State.updStatus_status (s : State) (f : Status → Status) : (s.updStatus f).status = f s.status := rfl
@[simp] theorem State.updStatus_stores (s : State) (f : Status → Status) : (s.updStatus f).stores = s.stores := rfl
@[simp] theorem State.updStatus_coloc (s : State) (f : Status → Status) : (s.updStatus f).coloc = s.coloc := rfl
@[simp] theorem State.updStatus_cfg (s : State) (f : Status → Status) : (s.updStatus f).cfg = s.cfg := rfl
@[simp] theorem State.updStatus_port (s : State) (f : Status → Status) : (s.updStatus f).port = s.port := rfl
@[simp] theorem State.updStatus_eng (s : State) (f : Status → Status) : (s.updStatus f).eng = s.eng := rfl

@[simp] theorem State.updStores_bitpos (s : State) (f : Stores → Stores) : (s.updStores f).bitpos = s.bitpos := rfl
@[simp] theorem State.updStores_len (s : State) (f : Stores → Stores) : (s.updStores f).len = s.len := rfl
@[simp] theorem State.updStores_bs (s : State) (f : Stores → Stores) : (s.updStores f).bs = s.bs := rfl
@[simp] theorem State.updStores_fsm (s : State) (f : Stores → Stores) : (s.updStores f).fsm = s.fsm := rfl
@[simp] theorem State.updStores_seq (s : State) (f : Stores → Stores) : (s.updStores f).seq = s.seq := rfl
@[simp] theorem State.updStores_pic (s : State) (f : Stores → Stores) : (s.updStores f).pic = s.pic := rfl
@[simp] theorem State.updStores_time (s : State) (f : Stores → Stores) : (s.updStores f).time = s.time := rfl
@[simp] theorem State.updStores_slice (s : State) (f : Stores → Stores) : (s.updStores f).slice = s.slice := rfl
@[simp] theorem State.updStores_mb (s : State) (f : Stores → Stores) : (s.updStores f).mb = s.mb := rfl
@[simp] theorem State.updStores_ctrl (s : State) (f : Stores → Stores) : (s.updStores f).ctrl = s.ctrl := rfl
@[simp] theorem State.updStores_status (s : State) (f : Stores → Stores) : (s.updStores f).status = s.status := rfl
@[simp] theorem State.updStores_stores (s : State) (f : Stores → Stores) : (s.updStores f).stores = f s.stores := rfl
@[simp] theorem State.updStores_coloc (s : State) (f : Stores → Stores) : (s.updStores f).coloc = s.coloc := rfl
@[simp] theorem State.updStores_cfg (s : State) (f : Stores → Stores) : (s.updStores f).cfg = s.cfg := rfl
@[simp] theorem State.updStores_port (s : State) (f : Stores → Stores) : (s.updStores f).port = s.port := rfl
@[simp] theorem State.updStores_eng (s : State) (f : Stores → Stores) : (s.updStores f).eng = s.eng := rfl

@[simp] theorem State.updEng_bitpos (s : State) (f : Eng → Eng) : (s.updEng f).bitpos = s.bitpos := rfl
@[simp] theorem State.updEng_len (s : State) (f : Eng → Eng) : (s.updEng f).len = s.len := rfl
@[simp] theorem State.updEng_bs (s : State) (f : Eng → Eng) : (s.updEng f).bs = s.bs := rfl
@[simp] theorem State.updEng_fsm (s : State) (f : Eng → Eng) : (s.updEng f).fsm = s.fsm := rfl
@[simp] theorem State.updEng_seq (s : State) (f : Eng → Eng) : (s.updEng f).seq = s.seq := rfl
@[simp] theorem State.updEng_pic (s : State) (f : Eng → Eng) : (s.updEng f).pic = s.pic := rfl
@[simp] theorem State.updEng_time (s : State) (f : Eng → Eng) : (s.updEng f).time = s.time := rfl
@[simp] theorem State.updEng_slice (s : State) (f : Eng → Eng) : (s.updEng f).slice = s.slice := rfl
@[simp] theorem State.updEng_mb (s : State) (f : Eng → Eng) : (s.updEng f).mb = s.mb := rfl
@[simp] theorem State.updEng_ctrl (s : State) (f : Eng → Eng) : (s.updEng f).ctrl = s.ctrl := rfl
@[simp] theorem State.updEng_status (s : State) (f : Eng → Eng) : (s.updEng f).status = s.status := rfl
@[simp] theorem State.updEng_stores (s : State) (f : Eng → Eng) : (s.updEng f).stores = s.stores := rfl
@[simp] theorem State.updEng_coloc (s : State) (f : Eng → Eng) : (s.updEng f).coloc = s.coloc := rfl
@[simp] theorem State.updEng_cfg (s : State) (f : Eng → Eng) : (s.updEng f).cfg = s.cfg := rfl
@[simp] theorem State.updEng_port (s : State) (f : Eng → Eng) : (s.updEng f).port = s.port := rfl
@[simp] theorem State.updEng_eng (s : State) (f : Eng → Eng) : (s.updEng f).eng = f s.eng := rfl

@[simp] theorem State.post_bitpos (s : State) (c : ResultCode) : (s.post c).bitpos = s.bitpos := rfl
@[simp] theorem State.post_len (s : State) (c : ResultCode) : (s.post c).len = s.len := rfl
@[simp] theorem State.post_bs (s : State) (c : ResultCode) : (s.post c).bs = s.bs := rfl
@[simp] theorem State.post_fsm (s : State) (c : ResultCode) : (s.post c).fsm = s.fsm := rfl
@[simp] theorem State.post_seq (s : State) (c : ResultCode) : (s.post c).seq = s.seq := rfl
@[simp] theorem State.post_pic (s : State) (c : ResultCode) : (s.post c).pic = s.pic := rfl
@[simp] theorem State.post_time (s : State) (c : ResultCode) : (s.post c).time = s.time := rfl
@[simp] theorem State.post_slice (s : State) (c : ResultCode) : (s.post c).slice = s.slice := rfl
@[simp] theorem State.post_mb (s : State) (c : ResultCode) : (s.post c).mb = s.mb := rfl
@[simp] theorem State.post_ctrl (s : State) (c : ResultCode) : (s.post c).ctrl = s.ctrl := rfl
@[simp] theorem State.post_status (s : State) (c : ResultCode) :
    (s.post c).status = { s.status with result := c } := rfl
@[simp] theorem State.post_stores (s : State) (c : ResultCode) : (s.post c).stores = s.stores := rfl
@[simp] theorem State.post_coloc (s : State) (c : ResultCode) : (s.post c).coloc = s.coloc := rfl
@[simp] theorem State.post_cfg (s : State) (c : ResultCode) : (s.post c).cfg = s.cfg := rfl
@[simp] theorem State.post_port (s : State) (c : ResultCode) : (s.post c).port = s.port := rfl
@[simp] theorem State.post_eng (s : State) (c : ResultCode) : (s.post c).eng = s.eng := rfl

@[simp] theorem State.log_bitpos (s : State) (f : LogFlag) : (s.log f).bitpos = s.bitpos := rfl
@[simp] theorem State.log_len (s : State) (f : LogFlag) : (s.log f).len = s.len := rfl
@[simp] theorem State.log_bs (s : State) (f : LogFlag) : (s.log f).bs = s.bs := rfl
@[simp] theorem State.log_fsm (s : State) (f : LogFlag) : (s.log f).fsm = s.fsm := rfl
@[simp] theorem State.log_seq (s : State) (f : LogFlag) : (s.log f).seq = s.seq := rfl
@[simp] theorem State.log_pic (s : State) (f : LogFlag) : (s.log f).pic = s.pic := rfl
@[simp] theorem State.log_time (s : State) (f : LogFlag) : (s.log f).time = s.time := rfl
@[simp] theorem State.log_slice (s : State) (f : LogFlag) : (s.log f).slice = s.slice := rfl
@[simp] theorem State.log_mb (s : State) (f : LogFlag) : (s.log f).mb = s.mb := rfl
@[simp] theorem State.log_ctrl (s : State) (f : LogFlag) : (s.log f).ctrl = s.ctrl := rfl
@[simp] theorem State.log_status (s : State) (f : LogFlag) :
    (s.log f).status = { s.status with log := s.status.log ||| f.mask } := rfl
@[simp] theorem State.log_stores (s : State) (f : LogFlag) : (s.log f).stores = s.stores := rfl
@[simp] theorem State.log_coloc (s : State) (f : LogFlag) : (s.log f).coloc = s.coloc := rfl
@[simp] theorem State.log_cfg (s : State) (f : LogFlag) : (s.log f).cfg = s.cfg := rfl
@[simp] theorem State.log_port (s : State) (f : LogFlag) : (s.log f).port = s.port := rfl
@[simp] theorem State.log_eng (s : State) (f : LogFlag) : (s.log f).eng = s.eng := rfl

@[simp] theorem State.emit_bitpos (s : State) (r : PortRecord) : (s.emit r).bitpos = s.bitpos := rfl
@[simp] theorem State.emit_len (s : State) (r : PortRecord) : (s.emit r).len = s.len := rfl
@[simp] theorem State.emit_bs (s : State) (r : PortRecord) : (s.emit r).bs = s.bs := rfl
@[simp] theorem State.emit_fsm (s : State) (r : PortRecord) : (s.emit r).fsm = s.fsm := rfl
@[simp] theorem State.emit_seq (s : State) (r : PortRecord) : (s.emit r).seq = s.seq := rfl
@[simp] theorem State.emit_pic (s : State) (r : PortRecord) : (s.emit r).pic = s.pic := rfl
@[simp] theorem State.emit_time (s : State) (r : PortRecord) : (s.emit r).time = s.time := rfl
@[simp] theorem State.emit_slice (s : State) (r : PortRecord) : (s.emit r).slice = s.slice := rfl
@[simp] theorem State.emit_mb (s : State) (r : PortRecord) : (s.emit r).mb = s.mb := rfl
@[simp] theorem State.emit_ctrl (s : State) (r : PortRecord) : (s.emit r).ctrl = s.ctrl := rfl
@[simp] theorem State.emit_status (s : State) (r : PortRecord) : (s.emit r).status = s.status := rfl
@[simp] theorem State.emit_stores (s : State) (r : PortRecord) : (s.emit r).stores = s.stores := rfl
@[simp] theorem State.emit_coloc (s : State) (r : PortRecord) : (s.emit r).coloc = s.coloc := rfl
@[simp] theorem State.emit_cfg (s : State) (r : PortRecord) : (s.emit r).cfg = s.cfg := rfl
@[simp] theorem State.emit_port (s : State) (r : PortRecord) : (s.emit r).port = s.port ++ [r] := rfl
@[simp] theorem State.emit_eng (s : State) (r : PortRecord) : (s.emit r).eng = s.eng := rfl

@[simp] theorem State.setQscale_bitpos (s : State) (q : BitVec 9) : (s.setQscale q).bitpos = s.bitpos := rfl
@[simp] theorem State.setQscale_len (s : State) (q : BitVec 9) : (s.setQscale q).len = s.len := rfl
@[simp] theorem State.setQscale_bs (s : State) (q : BitVec 9) : (s.setQscale q).bs = s.bs := rfl
@[simp] theorem State.setQscale_fsm (s : State) (q : BitVec 9) : (s.setQscale q).fsm = s.fsm := rfl
@[simp] theorem State.setQscale_seq (s : State) (q : BitVec 9) : (s.setQscale q).seq = s.seq := rfl
@[simp] theorem State.setQscale_pic (s : State) (q : BitVec 9) :
    (s.setQscale q).pic = { s.pic with qscale := q, chromaQscale := q } := rfl
@[simp] theorem State.setQscale_time (s : State) (q : BitVec 9) : (s.setQscale q).time = s.time := rfl
@[simp] theorem State.setQscale_slice (s : State) (q : BitVec 9) : (s.setQscale q).slice = s.slice := rfl
@[simp] theorem State.setQscale_mb (s : State) (q : BitVec 9) : (s.setQscale q).mb = s.mb := rfl
@[simp] theorem State.setQscale_ctrl (s : State) (q : BitVec 9) : (s.setQscale q).ctrl = s.ctrl := rfl
@[simp] theorem State.setQscale_status (s : State) (q : BitVec 9) : (s.setQscale q).status = s.status := rfl
@[simp] theorem State.setQscale_stores (s : State) (q : BitVec 9) : (s.setQscale q).stores = s.stores := rfl
@[simp] theorem State.setQscale_coloc (s : State) (q : BitVec 9) : (s.setQscale q).coloc = s.coloc := rfl
@[simp] theorem State.setQscale_cfg (s : State) (q : BitVec 9) : (s.setQscale q).cfg = s.cfg := rfl
@[simp] theorem State.setQscale_port (s : State) (q : BitVec 9) : (s.setQscale q).port = s.port := rfl
@[simp] theorem State.setQscale_eng (s : State) (q : BitVec 9) : (s.setQscale q).eng = s.eng := rfl

@[simp] theorem State.recordRaise_bitpos (s : State) (r : Raise) : (s.recordRaise r).bitpos = s.bitpos := rfl
@[simp] theorem State.recordRaise_len (s : State) (r : Raise) : (s.recordRaise r).len = s.len := rfl
@[simp] theorem State.recordRaise_bs (s : State) (r : Raise) : (s.recordRaise r).bs = s.bs := rfl
@[simp] theorem State.recordRaise_fsm (s : State) (r : Raise) : (s.recordRaise r).fsm = s.fsm := rfl
@[simp] theorem State.recordRaise_seq (s : State) (r : Raise) : (s.recordRaise r).seq = s.seq := rfl
@[simp] theorem State.recordRaise_pic (s : State) (r : Raise) : (s.recordRaise r).pic = s.pic := rfl
@[simp] theorem State.recordRaise_time (s : State) (r : Raise) : (s.recordRaise r).time = s.time := rfl
@[simp] theorem State.recordRaise_slice (s : State) (r : Raise) : (s.recordRaise r).slice = s.slice := rfl
@[simp] theorem State.recordRaise_mb (s : State) (r : Raise) : (s.recordRaise r).mb = s.mb := rfl
@[simp] theorem State.recordRaise_ctrl (s : State) (r : Raise) : (s.recordRaise r).ctrl = s.ctrl := rfl
@[simp] theorem State.recordRaise_status (s : State) (r : Raise) :
    (s.recordRaise r).status = { s.status with result := r.code, tag := r.tag, errpos := toU 32 s.bitpos } := rfl
@[simp] theorem State.recordRaise_stores (s : State) (r : Raise) : (s.recordRaise r).stores = s.stores := rfl
@[simp] theorem State.recordRaise_coloc (s : State) (r : Raise) : (s.recordRaise r).coloc = s.coloc := rfl
@[simp] theorem State.recordRaise_cfg (s : State) (r : Raise) : (s.recordRaise r).cfg = s.cfg := rfl
@[simp] theorem State.recordRaise_port (s : State) (r : Raise) : (s.recordRaise r).port = s.port := rfl
@[simp] theorem State.recordRaise_eng (s : State) (r : Raise) : (s.recordRaise r).eng = s.eng := rfl

@[simp] theorem State.publishRow_bitpos (s : State) (n : Nat) : (s.publishRow n).bitpos = s.bitpos := rfl
@[simp] theorem State.publishRow_len (s : State) (n : Nat) : (s.publishRow n).len = s.len := rfl
@[simp] theorem State.publishRow_bs (s : State) (n : Nat) : (s.publishRow n).bs = s.bs := rfl
@[simp] theorem State.publishRow_fsm (s : State) (n : Nat) : (s.publishRow n).fsm = s.fsm := rfl
@[simp] theorem State.publishRow_seq (s : State) (n : Nat) : (s.publishRow n).seq = s.seq := rfl
@[simp] theorem State.publishRow_pic (s : State) (n : Nat) : (s.publishRow n).pic = s.pic := rfl
@[simp] theorem State.publishRow_time (s : State) (n : Nat) : (s.publishRow n).time = s.time := rfl
@[simp] theorem State.publishRow_slice (s : State) (n : Nat) : (s.publishRow n).slice = s.slice := rfl
@[simp] theorem State.publishRow_mb (s : State) (n : Nat) : (s.publishRow n).mb = s.mb := rfl
@[simp] theorem State.publishRow_ctrl (s : State) (n : Nat) : (s.publishRow n).ctrl = s.ctrl := rfl
@[simp] theorem State.publishRow_status (s : State) (n : Nat) : (s.publishRow n).status = s.status := rfl
@[simp] theorem State.publishRow_stores (s : State) (n : Nat) :
    (s.publishRow n).stores = { s.stores with rowprog := n } := rfl
@[simp] theorem State.publishRow_coloc (s : State) (n : Nat) : (s.publishRow n).coloc = s.coloc := rfl
@[simp] theorem State.publishRow_cfg (s : State) (n : Nat) : (s.publishRow n).cfg = s.cfg := rfl
@[simp] theorem State.publishRow_port (s : State) (n : Nat) : (s.publishRow n).port = s.port := rfl
@[simp] theorem State.publishRow_eng (s : State) (n : Nat) : (s.publishRow n).eng = s.eng := rfl

@[simp] theorem State.setCoef_bitpos (s : State) (n : Fin 6) (p : Nat) (v : Int) :
    (s.setCoef n p v).bitpos = s.bitpos := rfl
@[simp] theorem State.setCoef_len (s : State) (n : Fin 6) (p : Nat) (v : Int) : (s.setCoef n p v).len = s.len := rfl
@[simp] theorem State.setCoef_bs (s : State) (n : Fin 6) (p : Nat) (v : Int) : (s.setCoef n p v).bs = s.bs := rfl
@[simp] theorem State.setCoef_fsm (s : State) (n : Fin 6) (p : Nat) (v : Int) : (s.setCoef n p v).fsm = s.fsm := rfl
@[simp] theorem State.setCoef_seq (s : State) (n : Fin 6) (p : Nat) (v : Int) : (s.setCoef n p v).seq = s.seq := rfl
@[simp] theorem State.setCoef_pic (s : State) (n : Fin 6) (p : Nat) (v : Int) : (s.setCoef n p v).pic = s.pic := rfl
@[simp] theorem State.setCoef_time (s : State) (n : Fin 6) (p : Nat) (v : Int) :
    (s.setCoef n p v).time = s.time := rfl
@[simp] theorem State.setCoef_slice (s : State) (n : Fin 6) (p : Nat) (v : Int) :
    (s.setCoef n p v).slice = s.slice := rfl
@[simp] theorem State.setCoef_mb (s : State) (n : Fin 6) (p : Nat) (v : Int) :
    (s.setCoef n p v).mb = { s.mb with block := s.mb.block.set n (Cells.write 0 p (toS 16 v) (s.mb.block.get n)) } := rfl
@[simp] theorem State.setCoef_ctrl (s : State) (n : Fin 6) (p : Nat) (v : Int) :
    (s.setCoef n p v).ctrl = s.ctrl := rfl
@[simp] theorem State.setCoef_status (s : State) (n : Fin 6) (p : Nat) (v : Int) :
    (s.setCoef n p v).status = s.status := rfl
@[simp] theorem State.setCoef_stores (s : State) (n : Fin 6) (p : Nat) (v : Int) :
    (s.setCoef n p v).stores = s.stores := rfl
@[simp] theorem State.setCoef_coloc (s : State) (n : Fin 6) (p : Nat) (v : Int) :
    (s.setCoef n p v).coloc = s.coloc := rfl
@[simp] theorem State.setCoef_cfg (s : State) (n : Fin 6) (p : Nat) (v : Int) : (s.setCoef n p v).cfg = s.cfg := rfl
@[simp] theorem State.setCoef_port (s : State) (n : Fin 6) (p : Nat) (v : Int) :
    (s.setCoef n p v).port = s.port := rfl
@[simp] theorem State.setCoef_eng (s : State) (n : Fin 6) (p : Nat) (v : Int) : (s.setCoef n p v).eng = s.eng := rfl

@[simp] theorem State.setDir_bitpos (s : State) (n : Fin 6) (d : Bool) : (s.setDir n d).bitpos = s.bitpos := rfl
@[simp] theorem State.setDir_len (s : State) (n : Fin 6) (d : Bool) : (s.setDir n d).len = s.len := rfl
@[simp] theorem State.setDir_bs (s : State) (n : Fin 6) (d : Bool) : (s.setDir n d).bs = s.bs := rfl
@[simp] theorem State.setDir_fsm (s : State) (n : Fin 6) (d : Bool) : (s.setDir n d).fsm = s.fsm := rfl
@[simp] theorem State.setDir_seq (s : State) (n : Fin 6) (d : Bool) : (s.setDir n d).seq = s.seq := rfl
@[simp] theorem State.setDir_pic (s : State) (n : Fin 6) (d : Bool) : (s.setDir n d).pic = s.pic := rfl
@[simp] theorem State.setDir_time (s : State) (n : Fin 6) (d : Bool) : (s.setDir n d).time = s.time := rfl
@[simp] theorem State.setDir_slice (s : State) (n : Fin 6) (d : Bool) : (s.setDir n d).slice = s.slice := rfl
@[simp] theorem State.setDir_mb (s : State) (n : Fin 6) (d : Bool) :
    (s.setDir n d).mb = { s.mb with predDir := s.mb.predDir.set n d } := rfl
@[simp] theorem State.setDir_ctrl (s : State) (n : Fin 6) (d : Bool) : (s.setDir n d).ctrl = s.ctrl := rfl
@[simp] theorem State.setDir_status (s : State) (n : Fin 6) (d : Bool) : (s.setDir n d).status = s.status := rfl
@[simp] theorem State.setDir_stores (s : State) (n : Fin 6) (d : Bool) : (s.setDir n d).stores = s.stores := rfl
@[simp] theorem State.setDir_coloc (s : State) (n : Fin 6) (d : Bool) : (s.setDir n d).coloc = s.coloc := rfl
@[simp] theorem State.setDir_cfg (s : State) (n : Fin 6) (d : Bool) : (s.setDir n d).cfg = s.cfg := rfl
@[simp] theorem State.setDir_port (s : State) (n : Fin 6) (d : Bool) : (s.setDir n d).port = s.port := rfl
@[simp] theorem State.setDir_eng (s : State) (n : Fin 6) (d : Bool) : (s.setDir n d).eng = s.eng := rfl

@[simp] theorem State.setLastIndex_bitpos (s : State) (n : Fin 6) (i : Int) :
    (s.setLastIndex n i).bitpos = s.bitpos := rfl
@[simp] theorem State.setLastIndex_len (s : State) (n : Fin 6) (i : Int) : (s.setLastIndex n i).len = s.len := rfl
@[simp] theorem State.setLastIndex_bs (s : State) (n : Fin 6) (i : Int) : (s.setLastIndex n i).bs = s.bs := rfl
@[simp] theorem State.setLastIndex_fsm (s : State) (n : Fin 6) (i : Int) : (s.setLastIndex n i).fsm = s.fsm := rfl
@[simp] theorem State.setLastIndex_seq (s : State) (n : Fin 6) (i : Int) : (s.setLastIndex n i).seq = s.seq := rfl
@[simp] theorem State.setLastIndex_pic (s : State) (n : Fin 6) (i : Int) : (s.setLastIndex n i).pic = s.pic := rfl
@[simp] theorem State.setLastIndex_time (s : State) (n : Fin 6) (i : Int) : (s.setLastIndex n i).time = s.time := rfl
@[simp] theorem State.setLastIndex_slice (s : State) (n : Fin 6) (i : Int) :
    (s.setLastIndex n i).slice = s.slice := rfl
@[simp] theorem State.setLastIndex_mb (s : State) (n : Fin 6) (i : Int) :
    (s.setLastIndex n i).mb = { s.mb with lastIndex := s.mb.lastIndex.set n (toS 7 i) } := rfl
@[simp] theorem State.setLastIndex_ctrl (s : State) (n : Fin 6) (i : Int) : (s.setLastIndex n i).ctrl = s.ctrl := rfl
@[simp] theorem State.setLastIndex_status (s : State) (n : Fin 6) (i : Int) :
    (s.setLastIndex n i).status = s.status := rfl
@[simp] theorem State.setLastIndex_stores (s : State) (n : Fin 6) (i : Int) :
    (s.setLastIndex n i).stores = s.stores := rfl
@[simp] theorem State.setLastIndex_coloc (s : State) (n : Fin 6) (i : Int) :
    (s.setLastIndex n i).coloc = s.coloc := rfl
@[simp] theorem State.setLastIndex_cfg (s : State) (n : Fin 6) (i : Int) : (s.setLastIndex n i).cfg = s.cfg := rfl
@[simp] theorem State.setLastIndex_port (s : State) (n : Fin 6) (i : Int) : (s.setLastIndex n i).port = s.port := rfl
@[simp] theorem State.setLastIndex_eng (s : State) (n : Fin 6) (i : Int) : (s.setLastIndex n i).eng = s.eng := rfl

/-! ## COLOC -/

/-- A word of COLOC.MBTYPEMEM in a published row reads as it stands. -/
theorem State.colocType_published {s : State} {i : Nat} (h : s.published i = true) :
    s.colocType i = Cells.read MbType.zero s.coloc.mbtype i := if_pos h

/-- A word of COLOC.MVMEM in a published row reads as it stands. -/
theorem State.colocMv_published {s : State} {n : Fin 4} (h : s.published s.mbi = true) :
    s.colocMv n = Cells.read (Vec.zero 16) s.coloc.mvmem (s.blockPos (lumaBlock n)) := if_pos h

/-- When the row of macroblock `i` is published. -/
theorem State.published_iff {s : State} {i : Nat} :
    s.published i = true ↔ i < s.mbTotal ∧ i / s.mbW < s.coloc.rowprog := by
  simp only [State.published, Bool.and_eq_true, decide_eq_true_eq]

end Sys2Proof.Machine
end

