-- ==== Sys2Proof/Laws/Parse.lean ====
section
/-! SUPPORT. The bit reader: what each primitive of Operands.lean answers, said once. -/

namespace Sys2Proof.Machine

variable {α β : Type} {s t : State} {e r : Raise} {n p : Nat}

/-! ## Numbers and registers -/

/-- A number that fits its register is what the register takes. -/
theorem toU_nat {w v : Nat} (h : v < 2 ^ w) : toU w (v : Int) = BitVec.ofNat w v := by
  rw [toU, if_pos ⟨Int.natCast_nonneg v, by simpa using h⟩]
  exact BitVec.ofInt_natCast w v

/-- Reading back an unsigned register that took a number which fits. -/
theorem toNat_toU {w v : Nat} (h : v < 2 ^ w) : (toU w (v : Int)).toNat = v := by
  rw [toU_nat h, BitVec.toNat_ofNat, Nat.mod_eq_of_lt h]

/-- A register written with its own number. -/
theorem toU_toNat {w : Nat} (b : BitVec w) : toU w (b.toNat : Int) = b := by
  rw [toU_nat b.isLt, BitVec.ofNat_toNat, BitVec.setWidth_eq]

theorem fitsS_of_bounds {w : Nat} {v : Int} (h : -(2 ^ w) ≤ 2 * v) (h' : 2 * v < 2 ^ w) :
    (0 ≤ v ∧ 2 * v.toNat < 2 ^ w) ∨ (v < 0 ∧ 2 * (-v).toNat ≤ 2 ^ w) := by
  have e : ((2 ^ w : Nat) : Int) = (2 : Int) ^ w := by push_cast; rfl
  generalize (2 ^ w : Nat) = m at *
  generalize (2 : Int) ^ w = k at *
  subst e
  omega

/-- A value inside the two's-complement range is what a signed register takes. -/
theorem toS_ofInt {w : Nat} {v : Int} (h : -(2 ^ w) ≤ 2 * v) (h' : 2 * v < 2 ^ w) : toS w v = BitVec.ofInt w v := by
  rw [toS, if_pos (fitsS_of_bounds h h')]

/-! ## Positions -/

theorem State.pos_setPos (h : p < 2 ^ s.cfg.cursorBits) : (s.setPos p).pos = p := toNat_toU h

@[simp] theorem State.endPos_setPos : (s.setPos p).endPos = s.endPos := rfl

@[simp] theorem State.setPos_setPos {q : Nat} : (s.setPos p).setPos q = s.setPos q := rfl

theorem State.setPos_pos (h : s.pos < 2 ^ s.cfg.cursorBits) : s.setPos s.pos = s := by
  have e : (toU s.cfg.cursorBits (s.pos : Int)).toNat = s.bitpos := toNat_toU h
  rw [State.setPos, e]

theorem State.bitAt_congr (hb : t.bs = s.bs) (hl : t.len = s.len) : t.bitAt p = s.bitAt p := by
  rw [State.bitAt, State.bitAt, State.endPos, State.endPos, hb, hl]

theorem State.memRead_congr (hb : t.bs = s.bs) (hl : t.len = s.len) : t.memRead p n = s.memRead p n := by
  induction n with
  | zero => rfl
  | succ n ih => rw [State.memRead, State.memRead, ih, State.bitAt_congr hb hl]

@[simp] theorem State.memRead_setPos {q : Nat} : (s.setPos q).memRead p n = s.memRead p n :=
  State.memRead_congr rfl rfl

@[simp] theorem State.bitAt_setPos {q : Nat} : (s.setPos q).bitAt p = s.bitAt p := State.bitAt_congr rfl rfl

theorem State.bitAt_lt_two : s.bitAt p < 2 := by
  rw [State.bitAt]
  split
  · exact Nat.mod_lt _ (by decide)
  · decide

theorem State.memRead_lt : s.memRead p n < 2 ^ n := by
  induction n with
  | zero => exact Nat.one_pos
  | succ n ih =>
    have := @State.bitAt_lt_two s (p + n)
    rw [State.memRead, Nat.pow_succ]
    omega

@[simp] theorem State.memRead_one : s.memRead p 1 = s.bitAt p := by
  rw [State.memRead, State.memRead]
  simp

/-! ## The monad -/

theorem Parse.bind_apply (m : Parse α) (f : α → Parse β) (s : State) :
    (m >>= f) s = match m s with
      | .ok a t => f a t
      | .error e t => .error e t := by
  show EStateM.bind m f s = _
  rw [EStateM.bind]
  cases m s <;> rfl

theorem Parse.bind_ok {m : Parse α} {f : α → Parse β} {a : α} (h : m s = .ok a t) : (m >>= f) s = f a t := by
  rw [Parse.bind_apply, h]

theorem Parse.bind_error {m : Parse α} {f : α → Parse β} (h : m s = .error e t) : (m >>= f) s = .error e t := by
  rw [Parse.bind_apply, h]

theorem Parse.pure_apply (a : α) (s : State) : (pure a : Parse α) s = .ok a s := rfl

theorem raise_apply (s : State) : (raise e : Parse α) s = .error e s := rfl

theorem getState_apply (s : State) : getState s = .ok s s := rfl

theorem update_apply (f : State → State) (s : State) : update f s = .ok () (f s) := rfl

theorem logBit_apply (f : LogFlag) (s : State) : logBit f s = .ok () (s.log f) := rfl

theorem view_apply (f : State → α) (s : State) : view f s = .ok (f s) s := rfl

theorem Parse.getState_bind (f : State → Parse β) (s : State) : (getState >>= f) s = f s s := rfl

theorem Parse.update_bind (f : State → State) (g : Unit → Parse β) (s : State) :
    (update f >>= g) s = g () (f s) := rfl

theorem Parse.pure_bind' (a : α) (f : α → Parse β) (s : State) : ((pure a : Parse α) >>= f) s = f a s := rfl

theorem whenP_true (m : Parse Unit) : whenP true m = m := if_pos rfl

theorem whenP_false (m : Parse Unit) : whenP false m = pure () := if_neg Bool.false_ne_true

theorem forEach_nil (f : α → Parse Unit) : forEach f [] = pure () := rfl

theorem forEach_cons (f : α → Parse Unit) (a : α) (as : List α) :
    forEach f (a :: as) = (do
      f a
      forEach f as) := rfl

theorem withTag_ok {tg : Tag} {m : Parse α} {a : α} (h : m s = .ok a t) : withTag tg m s = .ok a t := by
  rw [withTag, h]

theorem withTag_error {tg : Tag} {m : Parse α} (h : m s = .error r t) :
    withTag tg m s = .error { r with tag := tg } t := by
  rw [withTag, h]

/-! ## Reads -/

theorem getBits_ok (h : s.pos + n ≤ s.endPos) :
    getBits e n s = .ok (s.memRead s.pos n) (s.setPos (s.pos + n)) := by
  show (if s.pos + n ≤ s.endPos then (do
    update (fun s => s.setPos (s.pos + n))
    pure (s.memRead s.pos n)) else raise e : Parse Nat) s = _
  rw [if_pos h]
  rfl

theorem getBits_short (h : s.endPos < s.pos + n) : getBits e n s = .error e s := by
  show (if s.pos + n ≤ s.endPos then _ else raise e : Parse Nat) s = _
  rw [if_neg (by omega)]
  rfl

theorem skipBits_ok (h : s.pos + n ≤ s.endPos) : skipBits e n s = .ok () (s.setPos (s.pos + n)) := by
  show (if s.pos + n ≤ s.endPos then update (fun s => s.setPos (s.pos + n)) else raise e : Parse Unit) s = _
  rw [if_pos h]
  rfl

theorem skipBits_short (h : s.endPos < s.pos + n) : skipBits e n s = .error e s := by
  show (if s.pos + n ≤ s.endPos then _ else raise e : Parse Unit) s = _
  rw [if_neg (by omega)]
  rfl

theorem getFlag_ok (h : s.pos + 1 ≤ s.endPos) :
    getFlag e s = .ok (s.bitAt s.pos == 1) (s.setPos (s.pos + 1)) := by
  rw [getFlag, Parse.bind_ok (getBits_ok h), State.memRead_one]
  rfl

theorem getFlag_short (h : s.endPos < s.pos + 1) : getFlag e s = .error e s := by
  rw [getFlag, Parse.bind_error (getBits_short h)]

theorem getSigned_ok (h : s.pos + n ≤ s.endPos) :
    getSigned e n s = .ok (signed n (s.memRead s.pos n)) (s.setPos (s.pos + n)) := by
  rw [getSigned, Parse.bind_ok (getBits_ok h)]
  rfl

theorem getFolded_ok (h : s.pos + n ≤ s.endPos) :
    getFolded e n s = .ok (unfold n (s.memRead s.pos n)) (s.setPos (s.pos + n)) := by
  rw [getFolded, Parse.bind_ok (getBits_ok h)]
  rfl

/-- A marker bit that is 1. -/
theorem marker_set (h : s.pos + 1 ≤ s.endPos) (hb : s.bitAt s.pos = 1) :
    marker e s = .ok () (s.setPos (s.pos + 1)) := by
  rw [marker, Parse.bind_ok (getFlag_ok h), Parse.getState_bind, hb]
  rfl

/-- A marker bit that is 0, tolerated (30_encoding.md R103). -/
theorem marker_tolerated (h : s.pos + 1 ≤ s.endPos) (hb : s.bitAt s.pos = 0) (hs : s.ctrl.strict = false) :
    marker e s = .ok () ((s.setPos (s.pos + 1)).log .marker) := by
  rw [marker, Parse.bind_ok (getFlag_ok h), Parse.getState_bind, hb]
  show (if s.ctrl.strict = true then raise (invalid e.tag) else logBit .marker : Parse Unit) _ = _
  rw [hs]
  rfl

/-- A marker bit that is 0 under CTRL.STRICT (30_encoding.md R103). -/
theorem marker_strict (h : s.pos + 1 ≤ s.endPos) (hb : s.bitAt s.pos = 0) (hs : s.ctrl.strict = true) :
    marker e s = .error (invalid e.tag) (s.setPos (s.pos + 1)) := by
  rw [marker, Parse.bind_ok (getFlag_ok h), Parse.getState_bind, hb]
  show (if s.ctrl.strict = true then raise (invalid e.tag) else logBit .marker : Parse Unit) _ = _
  rw [hs]
  rfl

/-- A code word of the table stands at the cursor. -/
theorem vlc_found {tb : VlcTable} {row : VlcRow} (h : (s.cfg.table tb).find? s.matchesRow = some row) :
    vlc e tb s = .ok (some row.sym) (s.setPos (s.pos + row.len)) := by
  show (match (s.cfg.table tb).find? s.matchesRow with
    | some r => (do
      update (fun s => s.setPos (s.pos + r.len))
      pure (some r.sym))
    | none => if (s.cfg.table tb).any s.runsOutIn then raise e else pure none : Parse (Option Sym)) s = _
  rw [h]
  rfl

/-- No code word of the table stands at the cursor: INVALID, and nothing is consumed. -/
theorem vlc_none {tb : VlcTable} (h : (s.cfg.table tb).find? s.matchesRow = none)
    (h' : (s.cfg.table tb).any s.runsOutIn = false) : vlc e tb s = .ok none s := by
  show (match (s.cfg.table tb).find? s.matchesRow with
    | some r => (do
      update (fun s => s.setPos (s.pos + r.len))
      pure (some r.sym))
    | none => if (s.cfg.table tb).any s.runsOutIn then raise e else pure none : Parse (Option Sym)) s = _
  rw [h]
  show (if (s.cfg.table tb).any s.runsOutIn = true then raise e else pure none : Parse (Option Sym)) s = _
  rw [h']
  rfl

/-- A row that stands at the cursor lies inside BS. -/
theorem matchesRow_inside {row : VlcRow} (h : s.matchesRow row = true) : s.pos + row.len ≤ s.endPos := by
  rw [State.matchesRow, Bool.and_eq_true, decide_eq_true_eq] at h
  exact h.1

theorem find_inside {tb : VlcTable} {row : VlcRow} (h : (s.cfg.table tb).find? s.matchesRow = some row) :
    s.pos + row.len ≤ s.endPos := matchesRow_inside (List.find?_some h)

/-- vlc(t) of a table of numbers. -/
theorem vlcNumber_found {bad : Raise} {tb : VlcTable} {row : VlcRow} {k : Nat}
    (h : (s.cfg.table tb).find? s.matchesRow = some row) (hk : numberOf tb (some row.sym) = some k) :
    vlcNumber e bad tb s = .ok k (s.setPos (s.pos + row.len)) := by
  rw [vlcNumber, Parse.bind_ok (vlc_found h), hk]
  rfl

/-! ## Operations as outcomes -/

theorem runAt_ok {site : Site} {m : Parse Unit} (h : m s = .ok () t) : runAt site m s = t := by
  rw [runAt, h]

theorem runAt_error {site : Site} {m : Parse Unit} (h : m s = .error r t) : runAt site m s = t.takeRaise site r := by
  rw [runAt, h]

theorem runFor_ok {site : Site} {m : Parse (List Int)} {vs : List Int} (h : m s = .ok vs t) :
    runFor site m s = t.updEng (fun g => { g with ret := vs }) := by
  rw [runFor, h]

theorem runFor_error {site : Site} {m : Parse (List Int)} (h : m s = .error r t) :
    runFor site m s = t.takeRaise site r := by
  rw [runFor, h]

theorem inStores_fits (h : s.fitsStores = true) : inStores s t = .next t := if_pos h

end Sys2Proof.Machine
end

