-- ==== Sys2Proof/Laws/Keeps.lean ====
section
/-! SUPPORT. What a parse keeps: a property of State that holds before it holds after it, and every raise it ends in
meets a condition. One lemma for each combinator and each primitive of the bit reader. -/

namespace Sys2Proof.Machine

variable {α β : Type} {P : State → Prop} {Q : Raise → Prop}

/-- `m` keeps `P`, and ends only in raises that meet `Q`. -/
def Keeps (P : State → Prop) (Q : Raise → Prop) (m : Parse α) : Prop :=
  ∀ s, P s → match m s with
    | .ok _ t => P t
    | .error r t => P t ∧ Q r

theorem Keeps.ok {m : Parse α} (h : Keeps P Q m) {s t : State} {a : α} (hs : P s) (e : m s = .ok a t) : P t := by
  have := h s hs
  rwa [e] at this

theorem Keeps.error {m : Parse α} (h : Keeps P Q m) {s t : State} {r : Raise} (hs : P s) (e : m s = .error r t) :
    P t ∧ Q r := by
  have := h s hs
  rwa [e] at this

theorem Keeps.pure (a : α) : Keeps P Q (Pure.pure a) := fun _ hs => hs

theorem Keeps.bind {m : Parse α} {f : α → Parse β} (h : Keeps P Q m) (h' : ∀ a, Keeps P Q (f a)) :
    Keeps P Q (m >>= f) := by
  intro s hs
  rw [Parse.bind_apply]
  have := h s hs
  cases e : m s with
  | ok a t => rw [e] at this; exact h' a t this
  | error r t => rw [e] at this; exact this

/-- After reading the state `s` the rest may use that `s` has the property. -/
theorem Keeps.getState_bind {f : State → Parse β} (h : ∀ s, P s → Keeps P Q (f s)) : Keeps P Q (getState >>= f) :=
  fun s hs => h s hs s hs

theorem Keeps.raise {r : Raise} (h : Q r) : Keeps P Q (Machine.raise r : Parse α) := fun _ hs => ⟨hs, h⟩

theorem Keeps.update {f : State → State} (h : ∀ s, P s → P (f s)) : Keeps P Q (Machine.update f) := fun s hs => h s hs

theorem Keeps.ite {c : Prop} [Decidable c] {m m' : Parse α} (h : c → Keeps P Q m) (h' : ¬c → Keeps P Q m') :
    Keeps P Q (if c then m else m') := by
  split
  · exact h ‹_›
  · exact h' ‹_›

theorem Keeps.whenP {c : Bool} {m : Parse Unit} (h : c = true → Keeps P Q m) : Keeps P Q (whenP c m) :=
  Keeps.ite h (fun _ => Keeps.pure ())

theorem Keeps.forEach {f : α → Parse Unit} (h : ∀ a, Keeps P Q (f a)) (l : List α) : Keeps P Q (forEach f l) := by
  induction l with
  | nil => exact Keeps.pure ()
  | cons a l ih => exact Keeps.bind (h a) (fun _ => ih)

theorem Keeps.withTag {tg : Tag} {m : Parse α} (h : Keeps P (fun r => Q { r with tag := tg }) m) :
    Keeps P Q (withTag tg m) := by
  intro s hs
  have := h s hs
  rw [Machine.withTag]
  cases e : m s with
  | ok a t => rw [e] at this; exact this
  | error r t => rw [e] at this; exact this

/-- A read keeps whatever moving the cursor forward inside BS keeps. -/
theorem Keeps.getBits {e : Raise} {n : Nat} (hp : ∀ s q, P s → s.pos ≤ q → q ≤ s.endPos → P (s.setPos q)) (hq : Q e) :
    Keeps P Q (getBits e n) := by
  intro s hs
  by_cases h : s.pos + n ≤ s.endPos
  · rw [getBits_ok h]; exact hp s _ hs (Nat.le_add_right _ _) h
  · rw [getBits_short (by omega)]; exact ⟨hs, hq⟩

theorem Keeps.skipBits {e : Raise} {n : Nat} (hp : ∀ s q, P s → s.pos ≤ q → q ≤ s.endPos → P (s.setPos q)) (hq : Q e) :
    Keeps P Q (skipBits e n) := by
  intro s hs
  by_cases h : s.pos + n ≤ s.endPos
  · rw [skipBits_ok h]; exact hp s _ hs (Nat.le_add_right _ _) h
  · rw [skipBits_short (by omega)]; exact ⟨hs, hq⟩

theorem Keeps.getFlag {e : Raise} (hp : ∀ s q, P s → s.pos ≤ q → q ≤ s.endPos → P (s.setPos q)) (hq : Q e) :
    Keeps P Q (getFlag e) :=
  Keeps.bind (Keeps.getBits hp hq) (fun _ => Keeps.pure _)

theorem Keeps.getSigned {e : Raise} {n : Nat} (hp : ∀ s q, P s → s.pos ≤ q → q ≤ s.endPos → P (s.setPos q))
    (hq : Q e) : Keeps P Q (getSigned e n) :=
  Keeps.bind (Keeps.getBits hp hq) (fun _ => Keeps.pure _)

theorem Keeps.getFolded {e : Raise} {n : Nat} (hp : ∀ s q, P s → s.pos ≤ q → q ≤ s.endPos → P (s.setPos q))
    (hq : Q e) : Keeps P Q (getFolded e n) :=
  Keeps.bind (Keeps.getBits hp hq) (fun _ => Keeps.pure _)

theorem Keeps.vlc {e : Raise} {tb : VlcTable} (hp : ∀ s q, P s → s.pos ≤ q → q ≤ s.endPos → P (s.setPos q))
    (hq : Q e) : Keeps P Q (vlc e tb) := by
  intro s hs
  cases h : (s.cfg.table tb).find? s.matchesRow with
  | some row => rw [vlc_found h]; exact hp s _ hs (Nat.le_add_right _ _) (find_inside h)
  | none =>
    by_cases h' : (s.cfg.table tb).any s.runsOutIn = true
    · have : Machine.vlc e tb s = .error e s := by
        show (match (s.cfg.table tb).find? s.matchesRow with
          | some r => (do
            Machine.update (fun s => s.setPos (s.pos + r.len))
            Pure.pure (some r.sym))
          | none => if (s.cfg.table tb).any s.runsOutIn then Machine.raise e else Pure.pure none : Parse (Option Sym)) s = _
        rw [h]
        show (if (s.cfg.table tb).any s.runsOutIn = true then Machine.raise e else Pure.pure none :
          Parse (Option Sym)) s = _
        rw [if_pos h']
        rfl
      rw [this]; exact ⟨hs, hq⟩
    · rw [vlc_none h (by simpa using h')]; exact hs

theorem Keeps.vlcNumber {e bad : Raise} {tb : VlcTable}
    (hp : ∀ s q, P s → s.pos ≤ q → q ≤ s.endPos → P (s.setPos q)) (hq : Q e) (hb : Q bad) :
    Keeps P Q (vlcNumber e bad tb) := by
  refine Keeps.bind (Keeps.vlc hp hq) (fun r => ?_)
  cases numberOf tb r with
  | some n => exact Keeps.pure n
  | none => exact Keeps.raise hb

theorem Keeps.marker {e : Raise} (hp : ∀ s q, P s → s.pos ≤ q → q ≤ s.endPos → P (s.setPos q))
    (hl : ∀ s f, P s → P (s.log f)) (hq : Q e) (hi : Q (invalid e.tag)) : Keeps P Q (marker e) := by
  refine Keeps.bind (Keeps.getFlag hp hq) (fun b => Keeps.getState_bind fun s _ => ?_)
  refine Keeps.ite (fun _ => Keeps.pure ()) (fun _ => Keeps.ite (fun _ => Keeps.raise hi) (fun _ => ?_))
  exact Keeps.update (fun s hs => hl s _ hs)

/-- An operation run at a site keeps what its parse keeps, when taking its raises keeps it. -/
theorem Keeps.runAt {m : Parse Unit} {site : Site} (h : Keeps P Q m) (ht : ∀ s r, P s → Q r → P (s.takeRaise site r))
    {s : State} (hs : P s) : P (runAt site m s) := by
  have := h s hs
  rw [Machine.runAt]
  cases e : m s with
  | ok a t => rw [e] at this; exact this
  | error r t => rw [e] at this; exact ht t r this.1 this.2

theorem Keeps.runFor {m : Parse (List Int)} {site : Site} (h : Keeps P Q m)
    (ht : ∀ s r, P s → Q r → P (s.takeRaise site r)) (hr : ∀ s vs, P s → P (s.updEng (fun g => { g with ret := vs })))
    {s : State} (hs : P s) : P (runFor site m s) := by
  have := h s hs
  rw [Machine.runFor]
  cases e : m s with
  | ok a t => rw [e] at this; exact hr t a this
  | error r t => rw [e] at this; exact ht t r this.1 this.2

end Sys2Proof.Machine
end

