-- ==== Sys2Proof/Laws/Invariant.lean ====
section
/-! SUPPORT. The invariant of Safety.lean field by field, and what each named update of State does to it. -/
namespace Sys2Proof.Machine

/-- The invariant field by field. -/
structure Good (s : State) : Prop where
  bs : Memory.wf s.bs = true
  len : 8 * s.len.toNat < 2 ^ s.cfg.cursorBits ∧ 8 * s.len.toNat < 4294967296
  pos : s.pos ≤ s.endPos
  last : s.slice.lastResyncPos.toNat ≤ s.endPos
  seq : s.seq.legal = true
  pic : s.pic.legal = true
  mb : s.mb.wf = true
  stores : s.stores.wf = true
  quirk : s.ctrl.quirk &&& quirkMask = s.ctrl.quirk
  log : s.status.log &&& 0xFFFF = s.status.log

theorem State.inv_iff {s : State} : s.inv = true ↔ Good s := by
  simp only [State.inv, State.lenFits, Bool.and_eq_true, decide_eq_true_eq]
  constructor
  · rintro ⟨⟨⟨⟨⟨⟨⟨⟨⟨a, b⟩, c⟩, d⟩, e⟩, f⟩, g⟩, h⟩, i⟩, j⟩
    exact ⟨a, b, c, d, e, f, g, h, i, j⟩
  · rintro ⟨a, b, c, d, e, f, g, h, i, j⟩
    exact ⟨⟨⟨⟨⟨⟨⟨⟨⟨a, b⟩, c⟩, d⟩, e⟩, f⟩, g⟩, h⟩, i⟩, j⟩

/-- A part of a bitstream: from bit `start` to the end of its `len` bytes. -/
structure Span where
  len : BitVec 32
  start : Nat

/-- Bit position `p` lies in the part, or right after it. -/
def Span.holds (L : Span) (p : Nat) : Prop := L.start ≤ p ∧ p ≤ 8 * L.len.toNat

/-- The part from bit 0 on. -/
def Span.whole (l : BitVec 32) : Span := ⟨l, 0⟩

theorem Span.whole_holds {l : BitVec 32} {p : Nat} : (Span.whole l).holds p ↔ p ≤ 8 * l.toNat :=
  and_iff_right (Nat.zero_le p)

/-- The invariant, with the cursor in a part of the bitstream. An operation that keeps this for every part never moves
the cursor backward (10_state.md R21). -/
def GoodAt (L : Span) (s : State) : Prop := Good s ∧ s.len = L.len ∧ L.start ≤ s.pos

variable {L : Span} {s t : State} {α : Type}

theorem GoodAt.setPos {p : Nat} (h : GoodAt L s) (hp : L.holds p) : GoodAt L (s.setPos p) := by
  obtain ⟨h, e, _⟩ := h
  obtain ⟨h1, h2⟩ := hp
  rw [← e] at h2
  have k := State.pos_setPos (s := s) (Nat.lt_of_le_of_lt h2 h.len.1)
  refine ⟨⟨h.bs, h.len, ?_, h.last, h.seq, h.pic, h.mb, h.stores, h.quirk, h.log⟩, e, ?_⟩
  · rw [k]; exact h2
  · rw [k]; exact h1

theorem GoodAt.endPos (h : GoodAt L s) : s.endPos = 8 * L.len.toNat := by rw [State.endPos, h.2.1]

theorem GoodAt.fwd (s : State) (q : Nat) (h : GoodAt L s) (h' : s.pos ≤ q) (hq : q ≤ s.endPos) :
    GoodAt L (s.setPos q) := GoodAt.setPos h ⟨le_trans h.2.2 h', by rw [← h.endPos]; exact hq⟩

theorem GoodAt.inside (h : GoodAt L s) : L.holds s.pos := ⟨h.2.2, by rw [← h.endPos]; exact h.1.pos⟩

theorem GoodAt.updSeq {f : Seq → Seq} (h : GoodAt L s) (hf : (f s.seq).legal = true) : GoodAt L (s.updSeq f) :=
  ⟨⟨h.1.bs, h.1.len, h.1.pos, h.1.last, hf, h.1.pic, h.1.mb, h.1.stores, h.1.quirk, h.1.log⟩, h.2⟩
theorem GoodAt.updPic {f : Pic → Pic} (h : GoodAt L s) (hf : (f s.pic).legal = true) : GoodAt L (s.updPic f) :=
  ⟨⟨h.1.bs, h.1.len, h.1.pos, h.1.last, h.1.seq, hf, h.1.mb, h.1.stores, h.1.quirk, h.1.log⟩, h.2⟩
theorem GoodAt.updMb {f : Mb → Mb} (h : GoodAt L s) (hf : (f s.mb).wf = true) : GoodAt L (s.updMb f) :=
  ⟨⟨h.1.bs, h.1.len, h.1.pos, h.1.last, h.1.seq, h.1.pic, hf, h.1.stores, h.1.quirk, h.1.log⟩, h.2⟩
theorem GoodAt.updStores {f : Stores → Stores} (h : GoodAt L s) (hf : (f s.stores).wf = true) : GoodAt L (s.updStores f) :=
  ⟨⟨h.1.bs, h.1.len, h.1.pos, h.1.last, h.1.seq, h.1.pic, h.1.mb, hf, h.1.quirk, h.1.log⟩, h.2⟩
theorem GoodAt.updSlice {f : Slice → Slice} (h : GoodAt L s) (hf : (f s.slice).lastResyncPos.toNat ≤ s.endPos) : GoodAt L (s.updSlice f) :=
  ⟨⟨h.1.bs, h.1.len, h.1.pos, hf, h.1.seq, h.1.pic, h.1.mb, h.1.stores, h.1.quirk, h.1.log⟩, h.2⟩
theorem GoodAt.updTime {f : Time → Time} (h : GoodAt L s) : GoodAt L (s.updTime f) :=
  ⟨⟨h.1.bs, h.1.len, h.1.pos, h.1.last, h.1.seq, h.1.pic, h.1.mb, h.1.stores, h.1.quirk, h.1.log⟩, h.2⟩
theorem GoodAt.updEng {f : Eng → Eng} (h : GoodAt L s) : GoodAt L (s.updEng f) :=
  ⟨⟨h.1.bs, h.1.len, h.1.pos, h.1.last, h.1.seq, h.1.pic, h.1.mb, h.1.stores, h.1.quirk, h.1.log⟩, h.2⟩
theorem GoodAt.emit {r : PortRecord} (h : GoodAt L s) : GoodAt L (s.emit r) :=
  ⟨⟨h.1.bs, h.1.len, h.1.pos, h.1.last, h.1.seq, h.1.pic, h.1.mb, h.1.stores, h.1.quirk, h.1.log⟩, h.2⟩
theorem GoodAt.setFsm {f : Fsm} (h : GoodAt L s) : GoodAt L (s.setFsm f) :=
  ⟨⟨h.1.bs, h.1.len, h.1.pos, h.1.last, h.1.seq, h.1.pic, h.1.mb, h.1.stores, h.1.quirk, h.1.log⟩, h.2⟩
theorem GoodAt.updStatus {f : Status → Status} (h : GoodAt L s) (hf : (f s.status).log &&& 0xFFFF = (f s.status).log) :
    GoodAt L (s.updStatus f) :=
  ⟨⟨h.1.bs, h.1.len, h.1.pos, h.1.last, h.1.seq, h.1.pic, h.1.mb, h.1.stores, h.1.quirk, hf⟩, h.2⟩
theorem GoodAt.updCtrl {f : Ctrl → Ctrl} (h : GoodAt L s) (hf : (f s.ctrl).quirk &&& quirkMask = (f s.ctrl).quirk) :
    GoodAt L (s.updCtrl f) :=
  ⟨⟨h.1.bs, h.1.len, h.1.pos, h.1.last, h.1.seq, h.1.pic, h.1.mb, h.1.stores, hf, h.1.log⟩, h.2⟩
theorem GoodAt.post {c : ResultCode} (h : GoodAt L s) : GoodAt L (s.post c) := h.updStatus h.1.log
theorem LogFlag.mask_low (f : LogFlag) : f.mask &&& 0xFFFF = f.mask := by cases f <;> decide
theorem GoodAt.log (s : State) (f : LogFlag) (h : GoodAt L s) : GoodAt L (s.log f) := by
  refine h.updStatus ?_
  have a := f.mask_low
  have b := h.1.log
  show (s.status.log ||| f.mask) &&& 0xFFFF = s.status.log ||| f.mask
  rw [BitVec.and_comm, BitVec.and_or_distrib_left, BitVec.and_comm, b, BitVec.and_comm, a]

abbrev KG (L : Span) (m : Parse α) : Prop := Keeps (GoodAt L) (fun _ => True) m

end Sys2Proof.Machine
end

