-- ==== Sys2Proof/Laws/InvHeader.lean ====
section
/-! SUPPORT. The header operations keep the invariant. -/

namespace Sys2Proof.Machine

variable {L : Span} {s t : State} {α β : Type}

theorem KG.bits {e : Raise} {n : Nat} : KG L (getBits e n) := Keeps.getBits GoodAt.fwd trivial
theorem KG.flag {e : Raise} : KG L (getFlag e) := Keeps.getFlag GoodAt.fwd trivial
theorem KG.skip {e : Raise} {n : Nat} : KG L (skipBits e n) := Keeps.skipBits GoodAt.fwd trivial
theorem KG.signedBits {e : Raise} {n : Nat} : KG L (getSigned e n) := Keeps.getSigned GoodAt.fwd trivial
theorem KG.folded {e : Raise} {n : Nat} : KG L (getFolded e n) := Keeps.getFolded GoodAt.fwd trivial
theorem KG.mark {e : Raise} : KG L (marker e) := Keeps.marker GoodAt.fwd GoodAt.log trivial trivial
theorem KG.code {e : Raise} {tb : VlcTable} : KG L (vlc e tb) := Keeps.vlc GoodAt.fwd trivial
theorem KG.number {e bad : Raise} {tb : VlcTable} : KG L (vlcNumber e bad tb) :=
  Keeps.vlcNumber GoodAt.fwd trivial trivial
theorem KG.fail {r : Raise} : KG L (raise r : Parse α) := Keeps.raise trivial
theorem KG.pure (a : α) : KG L (Pure.pure a) := Keeps.pure a
theorem KG.bind {m : Parse α} {f : α → Parse β} (h : KG L m) (h' : ∀ a, KG L (f a)) : KG L (m >>= f) :=
  Keeps.bind h h'
theorem KG.state {f : State → Parse β} (h : ∀ s, GoodAt L s → KG L (f s)) : KG L (getState >>= f) :=
  Keeps.getState_bind h
theorem KG.upd {f : State → State} (h : ∀ s, GoodAt L s → GoodAt L (f s)) : KG L (update f) := Keeps.update h
theorem KG.when {c : Bool} {m : Parse Unit} (h : KG L m) : KG L (whenP c m) := Keeps.whenP (fun _ => h)
theorem KG.ite {c : Prop} [Decidable c] {m m' : Parse α} (h : c → KG L m) (h' : ¬c → KG L m') :
    KG L (if c then m else m') := Keeps.ite h h'
theorem KG.logBit {f : LogFlag} : KG L (logBit f) := KG.upd (fun s h => h.log s f)
theorem KG.seq {f : Seq → Seq} (h : ∀ q : Seq, q.legal = true → (f q).legal = true) : KG L (putSeq f) :=
  KG.upd (fun _ g => g.updSeq (h _ g.1.seq))
theorem KG.finish {f : Fsm} : KG L (finishOk f) := KG.upd (fun _ g => g.post.setFsm)
theorem KG.each {f : α → Parse Unit} (h : ∀ a, KG L (f a)) (l : List α) : KG L (forEach f l) := Keeps.forEach h l

theorem toNat_toU_le {w v k : Nat} (h : v ≤ k) (hk : k < 2 ^ w) : (toU w (v : Int)).toNat ≤ k := by
  rw [toNat_toU (lt_of_le_of_lt h hk)]; exact h

/-- SEQ field by field. -/
theorem Seq.legal_iff {q : Seq} : q.legal = true ↔
    q.numSpriteWarpingPoints.toNat ≤ 3 ∧ q.timeIncrementBits.toNat ≤ 16 ∧ 3 ≤ q.quantPrecision.toNat
      ∧ q.quantPrecision.toNat ≤ 9 ∧ q.intraMatrix.length = 64 ∧ q.interMatrix.length = 64
      ∧ q.chromaIntraMatrix.length = 64 ∧ q.chromaInterMatrix.length = 64 ∧ q.userDataLen.toNat ≤ 255
      ∧ Cells.wf 0 q.userData = true := by
  simp only [Seq.legal, Bool.and_eq_true, decide_eq_true_eq, and_assoc]

theorem GoodAt.detectStudio (h : GoodAt L s) : GoodAt L s.detectStudio := by
  unfold State.detectStudio
  exact h.updSeq h.1.seq

/-- An item keeps the invariant, and the position it remembers lies in the part. -/
def KeepsEnv {φ : Type} (L : Span) (m : Parse (Option (Env φ))) : Prop :=
  ∀ s, GoodAt L s → match m s with
    | .ok none t => GoodAt L t
    | .ok (some env) t => GoodAt L t ∧ L.holds env.start
    | .error _ t => GoodAt L t

theorem KeepsEnv.bind {φ : Type} {m : Parse α} {k : α → Parse (Option (Env φ))} (h : KG L m)
    (h' : ∀ a, KeepsEnv L (k a)) : KeepsEnv L (m >>= k) := by
  intro s hs
  rw [Parse.bind_apply]
  have := h s hs
  cases e : m s with
  | ok a t => rw [e] at this; exact h' a t this
  | error r t => rw [e] at this; exact this.1

theorem KeepsEnv.state {φ : Type} {k : State → Parse (Option (Env φ))} (h : ∀ s, GoodAt L s → KeepsEnv L (k s)) :
    KeepsEnv L (getState >>= k) := fun s hs => h s hs s hs

theorem KeepsEnv.some {φ : Type} {env : Env φ} (he : L.holds env.start) : KeepsEnv L (Pure.pure (Option.some env)) :=
  fun _ hs => ⟨hs, he⟩

/-- A header whose fields and acts keep the invariant keeps it, whatever its rows: an act may use that the position to
rewind to lies in the part. -/
theorem runItem_keeps {φ ε : Type} {g : Reader φ ε} (ht : ∀ f v, KG L (g.take f v))
    (ha : ∀ e env, L.holds env.start → KG L (g.act e env)) (env : Env φ) (he : L.holds env.start)
    (i : Item φ ε) : KeepsEnv L (runItem g env i) := by
  cases i with
  | field f w => exact .state fun _ _ => .bind .bits fun v => .bind (ht f v) fun _ => .some he
  | put f v => exact .bind (ht f v) fun _ => .some he
  | skip w => exact .state fun _ _ => .bind .skip fun _ => .some he
  | mark => exact .state fun _ h => .some h.inside
  | marker t => exact .bind .mark fun _ => .some he
  | log f => exact .bind .logBit fun _ => .some he
  | need n =>
    refine .state fun s _ => ?_
    split
    · exact fun _ h => h
    · exact .some he
  | act e => exact .bind (ha e env he) fun _ => .some he
  | leave => exact fun _ h => h

theorem runRows_keeps {φ ε : Type} [DecidableEq φ] {g : Reader φ ε} (ht : ∀ f v, KG L (g.take f v))
    (ha : ∀ e env, L.holds env.start → KG L (g.act e env)) (l : List (Row φ ε)) :
    ∀ env : Env φ, L.holds env.start → KG L (runRows g l env) := by
  induction l with
  | nil => intro env _; exact .pure _
  | cons r rows ih =>
    intro env he
    refine .state fun s _ => .ite (fun _ => ?_) fun _ => ih env he
    intro u hu
    rw [Parse.bind_apply]
    have := runItem_keeps ht ha env he r.item u hu
    cases e : runItem g env r.item u with
    | error r t => rw [e] at this; exact ⟨this, trivial⟩
    | ok o t =>
      rw [e] at this
      cases o with
      | none => exact this
      | some env' => exact ih env' this.2 t this.1

/-- The same of a whole header: the position where it begins lies in the part too. -/
theorem runLayout_keeps {φ ε : Type} [DecidableEq φ] {g : Reader φ ε} (ht : ∀ f v, KG L (g.take f v))
    (ha : ∀ e env, L.holds env.start → KG L (g.act e env)) (l : List (Row φ ε)) : KG L (runLayout g l) :=
  .state fun _ h => runRows_keeps ht ha l _ h.inside

theorem putScan_length (p z : List Nat) (i : Nat) (v : Byte) (m : List Byte) : (putScan p z i v m).length = m.length :=
  List.length_set

theorem putScanList_length (p z : List Nat) (vs : List Byte) :
    ∀ (i : Nat) (m : List Byte), (putScanList p z i vs m).length = m.length := by
  induction vs with
  | nil => intro i m; rfl
  | cons v vs ih => intro i m; rw [putScanList, ih, putScan_length]

theorem fillScan_length (p z : List Nat) (v : Byte) (n : Nat) :
    ∀ (i : Nat) (m : List Byte), (fillScan p z v i n m).length = m.length := by
  induction n with
  | zero => intro i m; rfl
  | succ n ih => intro i m; rw [fillScan, ih, putScan_length]

theorem placedMatrix_length (c : Cfg) (d : List Byte) : (placedMatrix c d).length = 64 := by
  rw [placedMatrix, putScanList_length]; rfl

theorem repermute_length (m : List Byte) (new old : List Nat) : (repermute m new old).length = m.length := by
  have : ∀ (l : List Nat) (acc : List Byte),
      (l.foldl (fun acc j => acc.set (permAt new j) (m.getD (permAt old j) 0)) acc).length = acc.length := by
    intro l
    induction l with
    | nil => intro acc; rfl
    | cons a l ih => intro acc; rw [List.foldl_cons, ih, List.length_set]
  exact this _ _

theorem GoodAt.putMatrix (h : GoodAt L s) (k : MatKind) (i : Nat) (v : Byte) : GoodAt L (s.putMatrix k i v) := by
  have g := Seq.legal_iff.1 h.1.seq
  cases k <;> (unfold State.putMatrix; refine h.updSeq ?_; rw [Seq.legal_iff]; simpa only [putScan_length] using g)

theorem GoodAt.fillMatrix (h : GoodAt L s) (k : MatKind) (v : Byte) (i n : Nat) : GoodAt L (s.fillMatrix k v i n) := by
  have g := Seq.legal_iff.1 h.1.seq
  cases k <;> (unfold State.fillMatrix; refine h.updSeq ?_; rw [Seq.legal_iff]; simpa only [fillScan_length] using g)

theorem matrixEntries_keeps (k : MatKind) (n : Nat) : ∀ i last, KG L (matrixEntries k n i last) := by
  induction n with
  | zero => intro i last; exact .pure _
  | succ n ih =>
    intro i last
    refine .state fun s _ => .ite (fun _ => .fail) fun _ => .bind .bits fun v => .ite (fun _ => ?_) fun _ => ?_
    · exact .upd fun s h => h.fillMatrix _ _ _ _
    · exact .bind (.upd fun s h => h.putMatrix _ _ _) fun _ => ih _ _

theorem GoodAt.defaultMatrices (h : GoodAt L s) : GoodAt L s.defaultMatrices := by
  have g := Seq.legal_iff.1 h.1.seq
  refine h.updSeq (Seq.legal_iff.2 ?_)
  simp only [placedMatrix_length]
  exact ⟨g.1, g.2.1, g.2.2.1, g.2.2.2.1, trivial, trivial, trivial, trivial, g.2.2.2.2.2.2.2.2⟩

theorem GoodAt.addTrash (h : GoodAt L s) (k : Trash) (n : Nat) : GoodAt L (s.addTrash k n) := by
  refine h.updSeq ?_
  cases k <;> exact h.1.seq

theorem GoodAt.clearTrash (h : GoodAt L s) : GoodAt L s.clearTrash := h.updSeq h.1.seq

theorem cplxEstP_keeps : KG L cplxEstP := by
  refine .bind (.upd fun s h => h.clearTrash) fun _ => .state fun s _ =>
    runLayout_keeps (fun f v => ?_) (fun e env he => ?_) _
  · cases f <;> first | exact .pure _ | exact .upd fun _ h => h.addTrash _ _
  · cases e
    exact .upd fun s h => GoodAt.log _ _ (h.setPos he).clearTrash

theorem bitLengthIn_le (fuel : Nat) : ∀ v k, v < 2 ^ k → bitLengthIn fuel v ≤ k := by
  induction fuel with
  | zero => intro v k _; exact Nat.zero_le _
  | succ n ih =>
    intro v k h
    rw [bitLengthIn]
    split
    · exact Nat.zero_le _
    · cases k with
      | zero => omega
      | succ k =>
        have : v / 2 < 2 ^ k := by rw [Nat.pow_succ] at h; omega
        have := ih _ _ this
        omega

theorem GoodAt.setSize (h : GoodAt L s) (a b : Nat) : GoodAt L (s.setSize a b) := by
  rw [State.setSize]
  split
  · exact h
  · exact h.updSeq h.1.seq

theorem takeResolution_keeps (v : Nat) : KG L (takeResolution v) := by
  refine .bind (.seq fun _ h => h) fun _ => .state fun s _ => .ite (fun _ => .fail) fun _ => .seq fun q h => ?_
  have g := Seq.legal_iff.1 h
  refine Seq.legal_iff.2 ⟨g.1, ?_, g.2.2⟩
  have hr := s.seq.timeIncrementResolution.isLt
  exact toNat_toU_le (by
    have := bitLengthIn_le 64 (s.seq.timeIncrementResolution.toNat - 1) 16 (by omega)
    simp only [bitLength]; omega) (by decide)

theorem takeWarpPoints_keeps (n : Nat) : KG L (takeWarpPoints n) := by
  refine .ite (fun _ => .bind (.seq fun q h => ?_) fun _ => .fail) fun hn => .seq fun q h => ?_
  · exact Seq.legal_iff.2 ⟨by simp, (Seq.legal_iff.1 h).2⟩
  · exact Seq.legal_iff.2 ⟨toNat_toU_le (by omega) (by decide), (Seq.legal_iff.1 h).2⟩

theorem putPrecision_keeps (qp : Nat) : KG L (putPrecision qp) := by
  refine .seq fun q h => ?_
  have g := Seq.legal_iff.1 h
  have e : (toU 4 (((if qp < 3 ∨ 9 < qp then 5 else qp : Nat)) : Int)).toNat = if qp < 3 ∨ 9 < qp then 5 else qp :=
    toNat_toU (by split <;> omega)
  refine Seq.legal_iff.2 ⟨g.1, g.2.1, ?_, ?_, g.2.2.2.2⟩
  · show 3 ≤ (toU 4 (((if qp < 3 ∨ 9 < qp then 5 else qp : Nat)) : Int)).toNat
    rw [e]; split <;> omega
  · show (toU 4 (((if qp < 3 ∨ 9 < qp then 5 else qp : Nat)) : Int)).toNat ≤ 9
    rw [e]; split <;> omega

theorem takeSeq_keeps (f : SeqField) (v : Nat) : KG L (takeSeq f v) := by
  cases f <;> first
    | exact .pure _
    | exact takeResolution_keeps v
    | exact takeWarpPoints_keeps v
    | exact putPrecision_keeps v
    | exact .seq fun _ h => h

theorem actSeq_keeps (e : SeqAct) (env : Env SeqField) (he : L.holds env.start) : KG L (actSeq e env) := by
  cases e with
  | detectStudio => exact .upd fun _ h => h.detectStudio
  | clearFieldPeriod => exact .upd fun _ h => h.updTime
  | setSize => exact .upd fun _ h => h.setSize _ _
  | clipPrecision => exact putPrecision_keeps _
  | defaultMatrices => exact .upd fun _ h => h.defaultMatrices
  | loadMatrix k => exact matrixEntries_keeps _ _ _ _
  | scalRewind => exact .upd fun u g => GoodAt.setPos (g.updSeq g.1.seq) he
  | refuseShape => exact .fail
  | refuseChroma => exact .fail

theorem seqRows_keeps (t : Tag) (l : List (Row SeqField SeqAct)) : KG L (runLayout (seqReader t) l) :=
  runLayout_keeps takeSeq_keeps actSeq_keeps l

theorem vosP_keeps : KG L vosP := .state fun _ _ => .bind (seqRows_keeps _ _) fun _ => .finish

theorem voP_keeps : KG L voP := .state fun _ _ => .bind (seqRows_keeps _ _) fun _ => .finish

theorem gopP_keeps : KG L gopP := .state fun _ _ => .bind (seqRows_keeps _ _) fun _ => .finish

theorem volPart_keeps (p : VolPart) : KG L (volPart p) := by
  cases p with
  | rows l => exact seqRows_keeps _ _
  | complexity => exact .state fun _ _ => .when cplxEstP_keeps

theorem volP_keeps : KG L volP :=
  .bind (.seq fun _ h => h) fun _ => .state fun _ _ => .bind (.each volPart_keeps _) fun _ =>
    .bind (.seq fun _ h => h) fun _ => .finish

theorem volStudioP_keeps : KG L volStudioP :=
  .bind (.seq fun _ h => h) fun _ => .state fun _ _ => .bind (seqRows_keeps _ _) fun _ =>
    .bind (.seq fun _ h => h) fun _ => .finish

theorem GoodAt.putMatrixId (h : GoodAt L s) (m : MatId) (i : Nat) (v : Byte) : GoodAt L (s.putMatrixId m i v) := by
  have g := Seq.legal_iff.1 h.1.seq
  cases m <;> (unfold State.putMatrixId; refine h.updSeq ?_; rw [Seq.legal_iff]; simpa only [putScan_length] using g)

theorem extP_keeps : KG L extP := by
  refine .state fun _ _ => .bind (.when (.bind .bits fun _ => .when (.each (fun m => ?_) _))) fun _ => .finish
  exact .bind .flag fun _ => .when (.each (fun i => .bind .bits fun v => .upd fun s h => h.putMatrixId _ _ _) _)

theorem State.textLength_le (s : State) (n : Nat) : ∀ p, s.textLength n p ≤ n := by
  induction n with
  | zero => intro p; exact le_rfl
  | succ n ih =>
    intro p
    rw [State.textLength]
    split
    · exact Nat.zero_le _
    · exact Nat.succ_le_succ (ih _)

theorem State.bytesFrom_length (s : State) (n : Nat) : ∀ p, (s.bytesFrom p n).length = n := by
  induction n with
  | zero => intro p; rfl
  | succ n ih => intro p; rw [State.bytesFrom, List.length_cons, ih]

theorem GoodAt.takeUserData (h : GoodAt L s) : GoodAt L s.takeUserData := by
  rw [State.takeUserData]
  refine GoodAt.setPos (h.updSeq (Seq.legal_iff.2 ?_)) ?_
  · have g := Seq.legal_iff.1 h.1.seq
    refine ⟨g.1, g.2.1, g.2.2.1, g.2.2.2.1, g.2.2.2.2.1, g.2.2.2.2.2.1, g.2.2.2.2.2.2.1, g.2.2.2.2.2.2.2.1, ?_,
      Cells.wf_writeList _ g.2.2.2.2.2.2.2.2.2⟩
    refine toNat_toU_le ?_ (by decide)
    rw [State.bytesFrom_length]
    exact Nat.min_le_right _ _
  · have a := s.textLength_le (s.len.toNat - alignUp s.pos / 8) (alignUp s.pos / 8)
    have b := h.inside
    have c := h.2.1
    rw [c] at a ⊢
    simp only [alignUp, Span.holds] at *
    omega

theorem userdataP_keeps : KG L userdataP := .bind (.upd fun _ h => h.takeUserData) fun _ => .finish

end Sys2Proof.Machine
end

