-- ==== Sys2Proof/Laws/InvPicture.lean ====
section
/-! SUPPORT. The picture header and the residual blocks keep the invariant. -/

namespace Sys2Proof.Machine

variable {L : Span} {s t : State} {α β : Type}

/-- PIC field by field. -/
theorem Pic.legal_iff {p : Pic} : p.legal = true ↔
    p.fCode ≠ 0 ∧ p.bCode ≠ 0 ∧ p.realSpriteWarpingPoints.toNat ≤ 3 := by
  simp only [Pic.legal, Bool.and_eq_true, decide_eq_true_eq, and_assoc]

theorem KG.pic {f : Pic → Pic} (h : ∀ p : Pic, p.legal = true → (f p).legal = true) : KG L (putPic f) :=
  KG.upd (fun _ g => g.updPic (h _ g.1.pic))
theorem KG.mb {f : Mb → Mb} (h : ∀ m : Mb, m.wf = true → (f m).wf = true) : KG L (putMb f) :=
  KG.upd (fun _ g => g.updMb (h _ g.1.mb))

/-! ## VOP -/

theorem timeUnary_keeps (n : Nat) : KG L (timeUnary n) := by
  induction n with
  | zero => exact .fail
  | succ n ih => exact .bind .flag fun _ => .ite (fun _ => .bind (.pic fun _ h => h) fun _ => ih) fun _ => .pure _

theorem timeIncrP_keeps : KG L timeIncrP :=
  .bind (.pic fun _ h => h) fun _ => .state fun _ _ => runLayout_keeps (fun f _ => nomatch f)
    (fun e _ _ => by cases e; exact .state fun _ _ => timeUnary_keeps _) _

theorem State.healWidth_le (s : State) (fuel : Nat) : ∀ n, s.healWidth fuel n ≤ n + fuel := by
  induction fuel with
  | zero => intro n; exact le_rfl
  | succ k ih =>
    intro n
    rw [State.healWidth]
    split
    · omega
    · have := ih (n + 1); omega

theorem GoodAt.tiHeal (h : GoodAt L s) : GoodAt L s.tiHeal := by
  refine GoodAt.log _ _ (GoodAt.updPic (GoodAt.updSeq h ?_) h.1.pic)
  have g := Seq.legal_iff.1 h.1.seq
  exact Seq.legal_iff.2 ⟨g.1, toNat_toU_le (s.healWidth_le 15 1) (by decide), g.2.2⟩

theorem GoodAt.setQscale {q : BitVec 9} (h : GoodAt L s) : GoodAt L (s.setQscale q) := h.updPic h.1.pic

theorem GoodAt.nonBTime (h : GoodAt L s) : GoodAt L s.nonBTime := by
  unfold State.nonBTime
  exact GoodAt.updPic (GoodAt.updTime h) h.1.pic

theorem GoodAt.bTime (h : GoodAt L s) : GoodAt L s.bTime := by
  unfold State.bTime
  exact GoodAt.updPic h h.1.pic

theorem GoodAt.fieldTimes (h : GoodAt L s) : GoodAt L s.fieldTimes := by
  unfold State.fieldTimes
  exact GoodAt.updPic (GoodAt.updTime h) h.1.pic

theorem vopTimes_keeps : KG L vopTimes := by
  have sk : KG L skipInverted := .bind .logBit fun _ => .fail
  refine .state fun s _ => .ite (fun _ => ?_) fun _ => .upd fun _ h => h.nonBTime
  refine .bind (.upd fun _ h => h.bTime) fun _ => .state fun _ _ => .bind (.when sk) fun _ => ?_
  refine .bind (.upd fun _ h => h.fieldTimes) fun _ => .state fun _ _ => .when ?_
  exact .bind (.pic fun _ h => h) fun _ => .state fun _ _ => .when sk

theorem newpredFields_keeps {ends : Tag → Raise} {t : Tag} : KG L (newpredFields ends t) :=
  .state fun _ _ => runLayout_keeps (fun _ _ => .pure _) (fun e _ _ => nomatch e) _

theorem trajComponent_keeps {e bad : Raise} : KG L (trajComponent e bad) :=
  .bind .number fun _ => .ite (fun _ => .pure _) fun _ => .folded

theorem trajPoint_keeps {ex : Tag → Raise} {fam : Tag} {bad : Raise} : KG L (trajPoint ex fam bad) := by
  have k : ∀ l v, KG L (trajItems ex fam bad l v) := by
    intro l
    induction l with
    | nil => intro v; exact .pure _
    | cons i l ih =>
      intro v
      cases i with
      | component c => exact .bind (.bind trajComponent_keeps fun _ => .pure _) fun _ => ih _
      | marker t u => exact .bind (.state fun _ _ => .bind (.when .mark) fun _ => .pure _) fun _ => ih _
  exact .state fun _ _ => k _ _

theorem spriteTrajP_keeps : KG L spriteTrajP :=
  .each (fun _ => .state fun _ _ => .ite (fun _ => .bind trajPoint_keeps fun _ => .upd fun _ h => h.updPic h.1.pic)
    fun _ => .upd fun _ h => h.updPic h.1.pic) _

theorem packetTrajP_keeps : KG L packetTrajP :=
  Keeps.withTag (KG.each (fun _ => .state fun _ _ => .when (.bind trajPoint_keeps fun _ => .pure _)) _)

theorem GoodAt.commitWarp (h : GoodAt L s) {k : Warp} {n : BitVec 3} (hn : n.toNat ≤ 3) : GoodAt L (s.commitWarp k n) :=
  h.updPic (Pic.legal_iff.2 ⟨(Pic.legal_iff.1 h.1.pic).1, (Pic.legal_iff.1 h.1.pic).2.1, hn⟩)

theorem GoodAt.gmcOverflow (h : GoodAt L s) : GoodAt L s.gmcOverflow :=
  GoodAt.log _ _ (h.updPic (Pic.legal_iff.2
    ⟨(Pic.legal_iff.1 h.1.pic).1, (Pic.legal_iff.1 h.1.pic).2.1, show 0 ≤ 3 by decide⟩))

theorem GoodAt.resolveWarp (h : GoodAt L s) : GoodAt L s.resolveWarp := by
  rw [State.resolveWarp]
  dsimp only
  split
  · refine GoodAt.commitWarp ?_ (by decide)
    split
    · exact GoodAt.log _ _ h
    · exact h
  · split
    · exact h.gmcOverflow
    · split
      · exact h.gmcOverflow
      · exact h.commitWarp (Seq.legal_iff.1 h.1.seq).1

theorem gmcResolveP_keeps : KG L gmcResolveP :=
  .state fun _ _ => .ite (fun _ => .fail) fun _ => .upd fun _ h => h.resolveWarp

theorem toU3_ne_zero {f : Nat} (h : f < 2 ^ 3) (hf : f ≠ 0) : toU 3 (f : Int) ≠ 0 := by
  intro e
  have := congrArg BitVec.toNat e
  rw [toNat_toU h] at this
  exact hf this

theorem takeFcode_keeps (f : Nat) : KG L (takeFcode f) := by
  have one : ∀ p : Pic, p.legal = true → ({ p with fCode := 1 } : Pic).legal = true := fun p h =>
    Pic.legal_iff.2 ⟨show (1 : BitVec 3) ≠ 0 by decide, (Pic.legal_iff.1 h).2⟩
  refine .ite (fun _ => .bind (.pic one) fun _ => .fail) fun h0 => .pic fun p h => ?_
  exact Pic.legal_iff.2 ⟨toU3_ne_zero (by omega) (fun e => h0 (Or.inl e)), (Pic.legal_iff.1 h).2⟩

theorem takeBcode_keeps (b : Nat) : KG L (takeBcode b) := by
  have one : ∀ p : Pic, p.legal = true → ({ p with bCode := 1 } : Pic).legal = true := fun p h =>
    Pic.legal_iff.2 ⟨(Pic.legal_iff.1 h).1, show (1 : BitVec 3) ≠ 0 by decide, (Pic.legal_iff.1 h).2.2⟩
  refine .ite (fun _ => .bind (.pic one) fun _ => .fail) fun h0 => .pic fun p h => ?_
  exact Pic.legal_iff.2 ⟨(Pic.legal_iff.1 h).1, toU3_ne_zero (by omega) (fun e => h0 (Or.inl e)),
    (Pic.legal_iff.1 h).2.2⟩

theorem GoodAt.clearPicture (h : GoodAt L s) : GoodAt L s.clearPicture :=
  GoodAt.updSlice (h.updStores rfl) (Nat.zero_le _)

theorem GoodAt.clearUncarried (h : GoodAt L s) : GoodAt L s.clearUncarried := by
  unfold State.clearUncarried
  refine h.updPic (Pic.legal_iff.2 ⟨(Pic.legal_iff.1 h.1.pic).1, (Pic.legal_iff.1 h.1.pic).2.1, ?_⟩)
  dsimp only
  split
  · exact (Pic.legal_iff.1 h.1.pic).2.2
  · exact Nat.zero_le _

theorem GoodAt.pictureStart (h : GoodAt L s) : GoodAt L s.pictureStart := h.clearPicture.clearUncarried.updEng

theorem takeVop_keeps (f : VopField) (v : Nat) : KG L (takeVop f v) := by
  cases f <;> first
    | exact .pure _
    | exact takeFcode_keeps v
    | exact takeBcode_keeps v
    | exact .ite (fun _ => .fail) fun _ => .upd fun _ h => h.setQscale
    | exact .upd fun _ h => GoodAt.updPic h h.1.pic

theorem actVop_keeps (e : VopAct) (env : Env VopField) (_ : L.holds env.start) : KG L (actVop e env) := by
  cases e with
  | repairLowDelay => exact .upd fun _ h => h.updSeq h.1.seq
  | timeIncr => exact timeIncrP_keeps
  | probe => exact .state fun _ _ => .when (.upd fun _ h => h.tiHeal)
  | times => exact vopTimes_keeps
  | notCoded => exact .fail
  | newpred => exact newpredFields_keeps
  | sprite => exact .bind spriteTrajP_keeps fun _ => gmcResolveP_keeps
  | zeroSprite => exact .pic fun _ h => h

theorem vopP_keeps : KG L vopP := by
  refine .bind (.upd fun _ h => GoodAt.updPic (h.updStatus h.1.log) h.1.pic) fun _ => .bind ?_ fun _ =>
    .state fun _ _ => .bind (.each (fun l => runLayout_keeps takeVop_keeps actVop_keeps l) _) fun _ =>
      .bind (.upd fun _ h => h.pictureStart) fun _ => .bind (.upd fun _ h => h.updStatus h.1.log) fun _ => .finish
  exact .state fun _ _ => .ite (fun _ => .fail) fun _ => .pure _

/-! ## Blocks -/

theorem Mb.wf_iff {m : Mb} : m.wf = true ↔ Cells.wf 0 m.block.b0 = true ∧ Cells.wf 0 m.block.b1 = true
    ∧ Cells.wf 0 m.block.b2 = true ∧ Cells.wf 0 m.block.b3 = true ∧ Cells.wf 0 m.block.b4 = true
    ∧ Cells.wf 0 m.block.b5 = true := by
  simp only [Mb.wf, Bool.and_eq_true, and_assoc]

theorem Stores.wf_iff {t : Stores} : t.wf = true ↔ Cells.wf dcUnlisted t.dcLuma = true
    ∧ Cells.wf dcUnlisted t.dcCb = true ∧ Cells.wf dcUnlisted t.dcCr = true ∧ Cells.wf 0 t.acLuma = true
    ∧ Cells.wf 0 t.acCb = true ∧ Cells.wf 0 t.acCr = true ∧ Cells.wf 0 t.qmem = true
    ∧ Cells.wf (Vec.zero 16) t.mvmem = true ∧ Cells.wf MbType.zero t.mbtype = true
    ∧ Cells.wf PartRec.zero t.partmem = true := by
  simp only [Stores.wf, Bool.and_eq_true, and_assoc]

theorem GoodAt.setCoef (h : GoodAt L s) (n : Fin 6) (p : Nat) (v : Int) : GoodAt L (s.setCoef n p v) := by
  refine h.updMb (Mb.wf_iff.2 ?_)
  obtain ⟨a, b, c, d, e, f⟩ := Mb.wf_iff.1 h.1.mb
  fin_cases n
  · exact ⟨Cells.wf_write a, b, c, d, e, f⟩
  · exact ⟨a, Cells.wf_write b, c, d, e, f⟩
  · exact ⟨a, b, Cells.wf_write c, d, e, f⟩
  · exact ⟨a, b, c, Cells.wf_write d, e, f⟩
  · exact ⟨a, b, c, d, Cells.wf_write e, f⟩
  · exact ⟨a, b, c, d, e, Cells.wf_write f⟩

theorem GoodAt.setDir (h : GoodAt L s) (n : Fin 6) (d : Bool) : GoodAt L (s.setDir n d) := h.updMb h.1.mb
theorem GoodAt.setLastIndex (h : GoodAt L s) (n : Fin 6) (i : Int) : GoodAt L (s.setLastIndex n i) := h.updMb h.1.mb

theorem GoodAt.writeDc (h : GoodAt L s) (n : Fin 6) (v : BitVec 16) : GoodAt L (s.writeDc n v) := by
  refine h.updStores ?_
  rw [Stores.wf_iff]
  obtain ⟨a, b, c, r⟩ := Stores.wf_iff.1 h.1.stores
  fin_cases n
  · exact ⟨Cells.wf_write a, b, c, r⟩
  · exact ⟨Cells.wf_write a, b, c, r⟩
  · exact ⟨Cells.wf_write a, b, c, r⟩
  · exact ⟨Cells.wf_write a, b, c, r⟩
  · exact ⟨a, Cells.wf_write b, c, r⟩
  · exact ⟨a, b, Cells.wf_write c, r⟩

theorem GoodAt.writeAc (h : GoodAt L s) (n : Fin 6) (k : Nat) (v : BitVec 16) : GoodAt L (s.writeAc n k v) := by
  refine h.updStores ?_
  rw [Stores.wf_iff]
  obtain ⟨a, b, c, d, e, f, r⟩ := Stores.wf_iff.1 h.1.stores
  fin_cases n
  · exact ⟨a, b, c, Cells.wf_write d, e, f, r⟩
  · exact ⟨a, b, c, Cells.wf_write d, e, f, r⟩
  · exact ⟨a, b, c, Cells.wf_write d, e, f, r⟩
  · exact ⟨a, b, c, Cells.wf_write d, e, f, r⟩
  · exact ⟨a, b, c, d, Cells.wf_write e, f, r⟩
  · exact ⟨a, b, c, d, e, Cells.wf_write f, r⟩

theorem GoodAt.writeQ (h : GoodAt L s) (q : BitVec 9) : GoodAt L (s.writeQ q) := by
  refine h.updStores (Stores.wf_iff.2 ?_)
  obtain ⟨a, b, c, d, e, f, g, r⟩ := Stores.wf_iff.1 h.1.stores
  exact ⟨a, b, c, d, e, f, Cells.wf_write g, r⟩

theorem GoodAt.writeMv (h : GoodAt L s) (n : Fin 4) (v : Mv) : GoodAt L (s.writeMv n v) := by
  refine h.updStores (Stores.wf_iff.2 ?_)
  obtain ⟨a, b, c, d, e, f, g, m, r⟩ := Stores.wf_iff.1 h.1.stores
  exact ⟨a, b, c, d, e, f, g, Cells.wf_write m, r⟩

theorem GoodAt.writeMvAll (h : GoodAt L s) (v : Mv) : GoodAt L (s.writeMvAll v) :=
  (((h.writeMv _ _).writeMv _ _).writeMv _ _).writeMv _ _

theorem GoodAt.writeMbType (h : GoodAt L s) (w : MbType) : GoodAt L (s.writeMbType w) := by
  refine h.updStores (Stores.wf_iff.2 ?_)
  obtain ⟨a, b, c, d, e, f, g, m, x, y⟩ := Stores.wf_iff.1 h.1.stores
  exact ⟨a, b, c, d, e, f, g, m, Cells.wf_write x, y⟩

theorem GoodAt.writePart (h : GoodAt L s) (j : Nat) (p : PartRec) : GoodAt L (s.writePart j p) := by
  refine h.updStores (Stores.wf_iff.2 ?_)
  obtain ⟨a, b, c, d, e, f, g, m, x, y⟩ := Stores.wf_iff.1 h.1.stores
  exact ⟨a, b, c, d, e, f, g, m, x, Cells.wf_write y⟩

theorem GoodAt.publishRow (h : GoodAt L s) (n : Nat) : GoodAt L (s.publishRow n) := h.updStores h.1.stores

theorem dcDiffP_keeps (n : Fin 6) : KG L (dcDiffP n) := by
  refine .bind .number fun z => .ite (fun _ => .fail) fun _ => .ite (fun _ => .pure _) fun _ => .bind ?_ fun _ =>
    .bind (.when .mark) fun _ => .pure _
  refine .state fun _ _ => .ite (fun _ => ?_) fun _ => .folded
  exact .bind .bits fun _ => .ite (fun _ => .pure _) fun _ => .bind .bits fun _ => .pure _

theorem GoodAt.predDcDir (h : GoodAt L s) (n : Fin 6) : GoodAt L (s.predDcDir n) := h.setDir _ _

theorem predDcP_keeps (n : Fin 6) (d : Int) : KG L (predDcP n d) :=
  .state fun _ _ => .bind (.upd fun _ h => h.predDcDir n) fun _ =>
    .bind (.state fun _ _ => .ite (fun _ => .fail) fun _ => .pure _) fun _ =>
    .bind (.upd fun _ h => h.writeDc _ _) fun _ => .pure _

theorem GoodAt.partitionedDc (h : GoodAt L s) (n : Fin 6) : GoodAt L (s.partitionedDc n) := (h.setCoef _ _ _).setDir _ _

theorem withSign_keeps {l : Bool} {r v : Nat} : KG L (withSign l r v) := .bind .flag fun _ => .pure _

theorem coefEsc1P_keeps (t : RlTable) : KG L (coefEsc1P t) := by
  refine .state fun s _ => .bind .code fun r => ?_
  cases entryOf r with
  | some p => exact withSign_keeps
  | none => exact .fail

theorem coefEsc2P_keeps (t : RlTable) : KG L (coefEsc2P t) := by
  refine .state fun s _ => .bind .code fun r => ?_
  cases entryOf r with
  | some p => exact withSign_keeps
  | none => exact .fail

theorem coefEsc3P_keeps : KG L coefEsc3P :=
  .bind .flag fun _ => .bind .bits fun _ => .bind (.state fun _ _ => .ite (fun _ => .signedBits) fun _ =>
    .bind .mark fun _ => .bind .signedBits fun _ => .bind .mark fun _ => .pure _) fun _ => .pure _

theorem coefRvlcP_keeps : KG L coefRvlcP := by
  have m : KG L rvlcMarker := .bind .flag fun _ => .ite (fun _ => .pure _) fun _ => .fail
  exact .bind m fun _ => .bind .flag fun _ => .bind .bits fun _ => .bind m fun _ => .bind .bits fun _ =>
    .bind .bits fun _ => .ite (fun _ => .fail) fun _ => withSign_keeps

theorem tableCoef_keeps {m : Parse Coef} (h : KG L m) : KG L (tableCoef m) := .bind h fun _ => .pure _

theorem nextCoef_keeps (t : RlTable) : KG L (nextCoef t) := by
  refine .bind .code fun r => ?_
  match r with
  | some (.rl _ _ _) => exact tableCoef_keeps withSign_keeps
  | some (.num _) => exact .fail
  | some (.btype _) => exact .fail
  | none => exact .fail
  | some .escape =>
    refine .ite (fun _ => tableCoef_keeps coefRvlcP_keeps) fun _ => .state fun _ _ => ?_
    refine .ite (fun _ => .bind .skip fun _ => tableCoef_keeps (coefEsc1P_keeps t)) fun _ => ?_
    exact .ite (fun _ => .bind .skip fun _ => tableCoef_keeps (coefEsc2P_keeps t)) fun _ =>
      .bind .skip fun _ => .bind coefEsc3P_keeps fun _ => .pure _

theorem valueOf_keeps (d : DeqMode) (k : Taken) : KG L (valueOf d k) :=
  .state fun _ _ => .ite (fun _ => .state fun _ _ => .ite (fun _ => .pure _) fun _ => .ite (fun _ => .fail) fun _ => .pure _)
    fun _ => .pure _

theorem coefLoop_keeps (n : Fin 6) (t : RlTable) (sc : List Nat) (d : DeqMode) (fuel : Nat) :
    ∀ i, KG L (coefLoop n t sc d fuel i) := by
  induction fuel with
  | zero => intro i; exact .pure _
  | succ k ih =>
    intro i
    refine .bind (nextCoef_keeps t) fun c => .bind (valueOf_keeps d c) fun v => .ite (fun _ => ?_) fun _ => ?_
    · exact .ite (fun _ => .fail) fun _ => .bind (.upd fun _ h => h.setCoef _ _ _) fun _ => .pure _
    · exact .bind (.upd fun _ h => h.setCoef _ _ _) fun _ => ih _

theorem GoodAt.foldl {f : State → Nat → State} (hf : ∀ s k, GoodAt L s → GoodAt L (f s k)) (l : List Nat) :
    ∀ s, GoodAt L s → GoodAt L (l.foldl f s) := by
  induction l with
  | nil => intro s h; exact h
  | cons a l ih => intro s h; exact ih _ (hf _ _ h)

theorem GoodAt.predAc (h : GoodAt L s) (n : Fin 6) : GoodAt L (s.predAc n) := by
  have w : ∀ u : State, GoodAt L u → GoodAt L (u.storeAcAll n) := fun u hu =>
    GoodAt.foldl (fun _ _ g => (g.writeAc _ _ _).writeAc _ _ _) _ _ hu
  rw [State.predAc]
  split
  · exact w _ (GoodAt.foldl (fun _ _ g => g.setCoef _ _ _) _ _ h)
  · exact w _ h

theorem blockIntraP_keeps (n : Fin 6) (c : Bool) : KG L (blockIntraP n c) := by
  have cs : ∀ i, KG L (intraCoefs n c i) := fun i => .state fun _ _ =>
    .ite (fun _ => coefLoop_keeps _ _ _ _ _ _) fun _ => .pure _
  refine .state fun _ _ => .ite (fun _ => ?_) fun _ => ?_
  · refine .bind (.state fun _ _ => .ite (fun _ => .upd fun _ h => h.partitionedDc n) fun _ => ?_) fun _ =>
      .bind (cs _) fun _ => .upd fun _ h => (h.predAc n).setLastIndex _ _
    exact .bind (dcDiffP_keeps n) fun _ => .bind (predDcP_keeps n _) fun _ => .upd fun _ h => h.setCoef _ _ _
  · exact .bind (.upd fun _ h => h.predDcDir n) fun _ => .bind (cs _) fun _ => .state fun _ _ =>
      .bind (predDcP_keeps n _) fun _ => .upd fun _ h => ((h.setCoef _ _ _).predAc n).setLastIndex _ _

theorem blockInterP_keeps (n : Fin 6) : KG L (blockInterP n) :=
  .state fun _ _ => .bind (coefLoop_keeps _ _ _ _ _ _) fun _ => .upd fun _ h => h.setLastIndex _ _

end Sys2Proof.Machine
end

