-- ==== Sys2Proof/Laws/InvMacroblock.lean ====
section
/-! SUPPORT. The macroblock layer, the resync unit and the partitions keep the invariant. -/

namespace Sys2Proof.Machine

variable {L : Span} {s t : State} {α β : Type}

/-! ## Macroblocks -/

theorem GoodAt.startMb (h : GoodAt L s) : GoodAt L s.startMb := h.updMb rfl

theorem GoodAt.applyDquant (h : GoodAt L s) (d : Int) : GoodAt L (s.applyDquant d) :=
  GoodAt.updMb (GoodAt.setQscale h) h.1.mb

theorem dquantP_keeps {e : Raise} : KG L (dquantP e) := .bind .bits fun _ => .upd fun _ h => h.applyDquant _

theorem dquantBP_keeps {e : Raise} : KG L (dquantBP e) :=
  .bind .flag fun _ => .when (.bind .bits fun _ => .upd fun _ h => h.applyDquant _)

theorem intraMcbpc_keeps {e : Raise} (n : Nat) : KG L (intraMcbpc e n) := by
  induction n with
  | zero => exact .fail
  | succ n ih => exact .bind .number fun _ => .ite (fun _ => ih) fun _ => .pure _

theorem fieldDct_keeps {e : Raise} {b : Bool} : KG L (fieldDct e b) := .when (.bind .flag fun _ => .mb fun _ h => h)

theorem GoodAt.setCbp (h : GoodAt L s) (n : Nat) : GoodAt L (s.setCbp n) := h.updMb h.1.mb

theorem intraBlocks_keeps : KG L intraBlocks := .each (fun _ => .state fun _ _ => blockIntraP_keeps _ _) _

theorem intraBody_keeps {e : Raise} {b : Bool} : KG L (intraBody e b) :=
  .bind .flag fun _ => .bind (.mb fun _ h => h) fun _ => .bind .number fun _ => .bind (.upd fun _ h => h.setCbp _) fun _ =>
    .bind (.upd fun _ h => h.updEng) fun _ => .bind (.when dquantP_keeps) fun _ => .state fun _ _ =>
    .bind fieldDct_keeps fun _ => intraBlocks_keeps

theorem GoodAt.storeMotion (h : GoodAt L s) : GoodAt L s.storeMotion := by
  rw [State.storeMotion]
  split
  · exact h
  · split
    · exact h.writeMvAll _
    · split
      · exact h.writeMvAll _
      · exact h
      · exact (((h.writeMv _ _).writeMv _ _).writeMv _ _).writeMv _ _

theorem GoodAt.epilogue (h : GoodAt L s) : GoodAt L s.epilogue := by
  have g : GoodAt L ((s.writeQ s.mb.qscale).storeMotion.writeMbType s.mb.typeWord).noteDone :=
    GoodAt.updEng ((h.writeQ _).storeMotion.writeMbType _)
  unfold State.epilogue
  exact GoodAt.updSlice g g.1.last

theorem GoodAt.endMb (h : GoodAt L s) : GoodAt L s.endMb := GoodAt.updEng (GoodAt.setFsm h.epilogue)

theorem GoodAt.advance (h : GoodAt L s) : GoodAt L s.advance := by
  unfold State.advance
  dsimp only
  split
  · exact GoodAt.updSlice (h.publishRow _) h.1.last
  · exact GoodAt.updSlice h h.1.last

theorem mbIP_keeps : KG L mbIP :=
  .bind (.upd fun _ h => h.startMb) fun _ => .state fun _ _ => .bind (intraMcbpc_keeps _) fun _ =>
    .bind (.mb fun _ h => h) fun _ => .bind intraBody_keeps fun _ => .upd fun _ h => h.endMb

theorem mvdP_keeps {p : Int} {f : Nat} : KG L (mvdP p f) :=
  .bind .number fun _ => .ite (fun _ => .pure _) fun _ => .bind .flag fun _ =>
    .bind (.ite (fun _ => .bind .bits fun _ => .pure _) fun _ => .pure _) fun _ => .pure _

theorem mvdPair_keeps {p : IVec} {f : Nat} : KG L (mvdPair p f) :=
  .bind mvdP_keeps fun _ => .bind mvdP_keeps fun _ => .pure _

theorem GoodAt.setMv (h : GoodAt L s) (d : Dir) (i : Fin 4) (v : Mv) : GoodAt L (s.setMv d i v) := by
  refine h.updMb ?_
  cases d <;> exact h.1.mb

theorem GoodAt.setMvType (h : GoodAt L s) (k : MvType) : GoodAt L (s.setMvType k) := h.updMb h.1.mb
theorem GoodAt.setMvDir (h : GoodAt L s) (k : BitVec 2) : GoodAt L (s.setMvDir k) := h.updMb h.1.mb
theorem GoodAt.addDir (h : GoodAt L s) (k : BitVec 2) : GoodAt L (s.addDir k) := h.updMb h.1.mb

theorem motion16_keeps : KG L motion16 :=
  .bind (.upd fun _ h => h.setMvType _) fun _ => .state fun _ _ => .bind mvdPair_keeps fun _ => .upd fun _ h => h.setMv _ _ _

theorem motionField_keeps {e : Raise} : KG L (motionField e) := by
  have m : ∀ p i, KG L (motionField1 p i) := fun p i => .state fun _ _ => .bind mvdPair_keeps fun _ =>
    .upd fun _ h => h.setMv _ _ _
  exact .bind (.upd fun _ h => h.setMvType _) fun _ => .bind .flag fun _ => .bind .flag fun _ => .bind (.mb fun _ h => h)
    fun _ => .state fun _ _ => .bind (m _ _) fun _ => m _ _

theorem interMotion_keeps {e : Raise} {b : Bool} : KG L (interMotion e b) := by
  refine .bind (.upd fun _ h => h.setMvDir _) fun _ => .state fun _ _ => .ite (fun _ => ?_) fun _ => .ite (fun _ => ?_) fun _ => ?_
  · exact .bind (.upd fun _ h => h.setMvType _) fun _ => .each (fun _ => .state fun _ _ => .bind mvdPair_keeps fun _ =>
      .upd fun _ h => (h.setMv _ _ _).writeMv _ _) _
  · exact .upd fun _ h => (h.setMvType _).setMv _ _ _
  · exact .state fun _ _ => .ite (fun _ => .bind .flag fun _ => .ite (fun _ => motionField_keeps) fun _ => motion16_keeps)
      fun _ => motion16_keeps

theorem interBlocks_keeps : KG L interBlocks :=
  .each (fun _ => .state fun _ _ => .ite (fun _ => blockInterP_keeps _) fun _ => .upd fun _ h => h.setLastIndex _ _) _

theorem interMcbpc_keeps {e : Raise} (n : Nat) : KG L (interMcbpc e n) := by
  induction n with
  | zero => exact .fail
  | succ n ih =>
    refine .bind .flag fun _ => .ite (fun _ => .pure _) fun _ => .bind .number fun _ => ?_
    exact .ite (fun _ => ih) fun _ => .pure _

theorem GoodAt.skippedMb (h : GoodAt L s) : GoodAt L s.skippedMb := by
  unfold State.skippedMb
  have g : GoodAt L (s.updMb (fun m =>
    { m with intra := false, lastIndex := Six.all (-1), cbp := 0, mvDir := dirForward, mvType := .mv16x16 })) :=
    h.updMb h.1.mb
  dsimp only
  split
  · exact GoodAt.updMb (g.setMv _ _ _) (g.setMv .fwd 0 s.amvVec).1.mb
  · exact GoodAt.updMb (g.setMv _ _ _) (g.setMv .fwd 0 (Vec.zero 16)).1.mb

theorem codedMb_keeps {e : Raise} (c : Nat) : KG L (codedMb e c) := by
  refine .bind (.mb fun _ h => h) fun _ => .ite (fun _ => intraBody_keeps) fun _ => ?_
  refine .bind ?_ fun _ => .bind .number fun _ => .bind (.upd fun _ h => h.setCbp _) fun _ =>
    .bind (.when dquantP_keeps) fun _ => .state fun _ _ => .bind fieldDct_keeps fun _ =>
    .bind interMotion_keeps fun _ => interBlocks_keeps
  exact .state fun _ _ => .ite (fun _ => .bind .flag fun _ => .mb fun _ h => h) fun _ => .mb fun _ h => h

theorem mbPP_keeps : KG L mbPP := by
  refine .bind (.upd fun _ h => h.startMb) fun _ => .state fun _ _ => .bind (interMcbpc_keeps _) fun r => ?_
  cases r with
  | none => exact .upd fun _ h => h.skippedMb.endMb
  | some c => exact .bind (codedMb_keeps c) fun _ => .upd fun _ h => h.endMb

theorem bMode_keeps : KG L bMode := by
  have fs : KG L fieldSelectFwd := .bind .flag fun _ => .bind .flag fun _ => .mb fun _ h => h
  have bs : KG L fieldSelectBwd := .bind .flag fun _ => .bind .flag fun _ => .mb fun _ h => h
  have ty : KG L bTypeP := by
    refine .bind .code fun r => ?_
    cases btypeOf r with
    | some t => exact .pure _
    | none => exact .fail
  refine .bind .flag fun _ => .ite (fun _ => .bind (.mb fun _ h => h) fun _ => .pure _) fun _ => ?_
  refine .bind .flag fun _ => .bind ty fun t => .bind ?_ fun _ => .state fun _ _ => .bind (.when dquantBP_keeps) fun _ =>
    .bind ?_ fun _ => .pure _
  · exact .ite (fun _ => .mb fun _ h => h) fun _ => .bind .bits fun _ => .mb fun _ h => h
  · refine .state fun _ _ => .ite (fun _ => .bind fieldDct_keeps fun _ => .ite (fun _ => .pure _) fun _ => ?_) fun _ => .pure _
    exact .bind .flag fun _ => .bind (.when fs) fun _ => .bind (.when bs) fun _ => .pure _

theorem GoodAt.setLastMv (h : GoodAt L s) (d : Dir) (v : LastMv) : GoodAt L (s.setLastMv d v) := by
  refine h.updSlice ?_
  cases d <;> exact h.1.last

theorem GoodAt.setDirect (h : GoodAt L s) (i : Fin 4) (p d : IVec) (a b : Int) : GoodAt L (s.setDirect i p d a b) :=
  (h.setMv _ _ _).setMv _ _ _

theorem GoodAt.directField (h : GoodAt L s) (d : IVec) (b : Bool) : GoodAt L (s.directField d b) := h.setDirect _ _ _ _ _

theorem GoodAt.direct (h : GoodAt L s) (d : IVec) : GoodAt L (s.direct d) := by
  have g : GoodAt L (s.setMvDir (dirForward ||| dirBackward)) := h.setMvDir _
  unfold State.direct
  dsimp only
  split
  · exact (((((g.setMvType _).setDirect _ _ _ _ _).setDirect _ _ _ _ _).setDirect _ _ _ _ _).setDirect _ _ _ _ _)
  · exact ((g.setMvType _).directField _ _).directField _ _
  · have k : GoodAt L ((s.setMvDir (dirForward ||| dirBackward)).directOne d 0) := g.setDirect _ _ _ _ _
    exact GoodAt.setMvType (GoodAt.updMb k k.1.mb) _

theorem bCoded_keeps : KG L bCoded := by
  have v1 : ∀ d, KG L (bVector d) := fun d => .bind (.upd fun _ h => h.addDir _) fun _ => .state fun _ _ =>
    .bind mvdPair_keeps fun _ => .upd fun _ h => (h.setMv _ _ _).setLastMv _ _
  have f1 : ∀ d b, KG L (bFieldVector d b) := fun d b => .state fun _ _ => .bind mvdPair_keeps fun _ =>
    .upd fun _ h => (h.setMv _ _ _).setLastMv _ _
  have v2 : ∀ d, KG L (bFieldVectors d) := fun d => .bind (.upd fun _ h => h.addDir _) fun _ => .bind (f1 _ _) fun _ => f1 _ _
  refine .bind bMode_keeps fun m => .bind (.mb fun _ h => h) fun _ => .bind ?_ fun _ => interBlocks_keeps
  refine .ite (fun _ => .ite (fun _ => .upd fun _ h => h.direct _) fun _ => .bind mvdPair_keeps fun _ =>
    .upd fun _ h => h.direct _) fun _ => ?_
  exact .bind (.upd fun _ h => h.setMvType _) fun _ => .bind (.when (.ite (fun _ => v2 _) fun _ => v1 _)) fun _ =>
    .when (.ite (fun _ => v2 _) fun _ => v1 _)

theorem GoodAt.colocSkip (h : GoodAt L s) : GoodAt L s.colocSkip :=
  GoodAt.setMv (GoodAt.setMv (h.updMb h.1.mb) _ _ _) _ _ _

theorem GoodAt.rowStart (h : GoodAt L s) : GoodAt L s.rowStart := by
  rw [State.rowStart]
  split
  · exact h.updSlice h.1.last
  · exact h

theorem mbBP_keeps : KG L mbBP :=
  .bind (.upd fun _ h => h.rowStart) fun _ => .state fun _ _ => .ite (fun _ => .upd fun _ h => h.setFsm) fun _ =>
    .bind (.upd fun _ h => h.startMb) fun _ => .bind (.state fun _ _ => .ite (fun _ => .upd fun _ h => h.colocSkip)
      fun _ => bCoded_keeps) fun _ => .upd fun _ h => h.endMb

theorem mbStudioP_keeps : KG L mbStudioP := .bind (.upd fun _ h => h.startMb) fun _ => .bind .logBit fun _ => .fail

/-! ## The resync unit -/

theorem skipStuffing_keeps (n : Nat) : KG L (skipStuffing n) := by
  induction n with
  | zero => exact .pure _
  | succ n ih => exact .state fun _ _ => .ite (fun _ => .bind .skip fun _ => ih) fun _ => .pure _

theorem resyncPeekP_keeps : KG L resyncPeekP := by
  refine .state fun _ _ => .ite (fun _ => .pure _) fun _ => .bind (skipStuffing_keeps _) fun _ => .state fun _ _ =>
    .ite (fun _ => .pure _) fun _ => .ite (fun _ => ?_) fun _ => .pure _
  exact .state fun _ _ => .ite (fun _ => .pure _) fun _ => .ite (fun _ => .fail) fun _ => .ite (fun _ => .pure _)
    fun _ => .pure _

theorem GoodAt.answer (h : GoodAt L s) (r : Boundary) : GoodAt L (s.answer r) := GoodAt.updEng (GoodAt.setFsm h.post)

theorem peekStep_keeps : KG L peekStep :=
  .bind resyncPeekP_keeps fun _ => .upd fun _ g => GoodAt.answer (GoodAt.advance g.emit) _

theorem packetHeaderP_keeps : KG L packetHeaderP := by
  have pre : ∀ n l, KG L (packetPrefix n l) := by
    intro n
    induction n with
    | zero => intro l; exact .pure _
    | succ n ih => intro l; exact .bind .flag fun _ => .ite (fun _ => .pure _) fun _ => ih _
  have mo : ∀ n, KG L (moduloBase n) := by
    intro n
    induction n with
    | zero => exact .fail
    | succ n ih => exact .bind .flag fun _ => .ite (fun _ => ih) fun _ => .pure _
  have ra : KG L extRange := .bind .bits fun _ => .when .logBit
  have fl : ∀ b, KG L (packetExtFlag b) := fun _ => .ite (fun _ => .flag) fun _ => .pure _
  have ex : KG L packetExtension := .state fun _ _ => .bind (mo _) fun _ => .bind .mark fun _ => .bind .skip fun _ =>
    .bind .mark fun _ => .bind .skip fun _ => .bind .skip fun _ => .bind (.when packetTrajP_keeps) fun _ =>
    .bind (.when ra) fun _ => .when ra
  refine .bind (.state fun _ _ => .ite (fun _ => .fail) fun _ => .bind (pre _ _) fun _ => .ite (fun _ => .pure _) fun _ =>
    .fail) fun _ => .state fun _ _ => .bind (fl _) fun _ => .bind ?_ fun _ => .bind ?_ fun _ => .bind (fl _) fun _ =>
    .bind (.when ex) fun _ => .bind (.when newpredFields_keeps) fun _ =>
    .bind (.upd fun _ h => h.updSlice h.1.last) fun _ => .pure _
  · exact .state fun _ _ => .bind .bits fun _ => .ite (fun _ => .fail) fun _ => .ite (fun _ => .fail) fun _ => .pure _
  · exact .state fun _ _ => .bind .bits fun _ => .when (.upd fun _ h => h.setQscale)

/-! ## Taking a raise -/

theorem GoodAt.recordRaise (h : GoodAt L s) (r : Raise) : GoodAt L (s.recordRaise r) := h.updStatus h.1.log

theorem GoodAt.failFatally (h : GoodAt L s) (site : Site) (tg : Tag) : GoodAt L (s.failFatally site tg) := by
  unfold State.failFatally
  split
  · exact GoodAt.updEng (GoodAt.setFsm (GoodAt.updStatus (h.publishRow _) h.1.log))
  · exact GoodAt.updEng (GoodAt.setFsm (GoodAt.updStatus h h.1.log))

theorem GoodAt.failRecoverably (h : GoodAt L s) (site : Site) (tg : Tag) : GoodAt L (s.failRecoverably site tg) := by
  have g : GoodAt L (s.updSlice (fun l =>
    { l with mbErr := toU 20 (l.mbErr.toNat + s.notConsumed tg site), nextMbi := toU 20 (s.nextAfterFailure tg site) })) :=
    h.updSlice h.1.last
  unfold State.failRecoverably
  dsimp only
  split
  · exact GoodAt.updEng (GoodAt.setFsm g.emit)
  · exact GoodAt.updEng (GoodAt.setFsm g)

theorem GoodAt.takeInvalid (h : GoodAt L s) (tg : Tag) (site : Site) : GoodAt L (s.takeInvalid tg site) := by
  cases site
  · exact h.setFsm
  · exact h.failFatally _ _
  · exact h.failRecoverably _ _
  · exact h.failRecoverably _ _
  · exact h.failRecoverably _ _
  · exact h.failRecoverably _ _
  · exact h.failRecoverably _ _
  · exact h.setFsm

theorem GoodAt.takeRaise (h : GoodAt L s) (site : Site) (r : Raise) : GoodAt L (s.takeRaise site r) := by
  have g := h.recordRaise r
  unfold State.takeRaise
  split <;> first | exact g.takeInvalid _ _ | exact g.failFatally _ _ | exact g.setFsm

theorem KG.runAt {m : Parse Unit} {site : Site} (h : KG L m) (hs : GoodAt L s) : GoodAt L (runAt site m s) :=
  Keeps.runAt h (fun _ r g _ => g.takeRaise site r) hs

theorem KG.runFor {m : Parse (List Int)} {site : Site} (h : KG L m) (hs : GoodAt L s) : GoodAt L (runFor site m s) :=
  Keeps.runFor h (fun _ r g _ => g.takeRaise site r) (fun _ _ g => g.updEng) hs

theorem GoodAt.runPacket (h : GoodAt L s) (hs : s.eng.phase = .search → 27 < s.left) : GoodAt L s.runPacket := by
  have k := packetHeaderP_keeps (L := L) s h
  unfold State.runPacket
  cases e : packetHeaderP s with
  | ok n t =>
    rw [e] at k
    have k : GoodAt L t := k
    show GoodAt L (t.acceptPacket _ n)
    unfold State.acceptPacket
    dsimp only
    split
    · exact GoodAt.updEng (GoodAt.setFsm (GoodAt.post (k.updSlice k.1.last)))
    · exact GoodAt.updEng (GoodAt.setFsm k.post)
  | error r t =>
    rw [e] at k
    dsimp only
    split
    · next c =>
      refine k.1.setPos ?_
      have a := hs (of_decide_eq_true c.1)
      have b := h.inside
      rw [State.left, h.endPos] at a
      simp only [Span.holds] at *
      omega
    · exact (k.1.takeRaise _ _).setPos h.inside

/-! ## The moves of RESYNC_CHECK and SLICE_START -/

theorem GoodAt.sliceStart (h : GoodAt L s) : GoodAt L s.sliceStart := by
  have g : GoodAt L (s.updSlice (fun l =>
    { l with
      resyncMbX := l.mbX, resyncMbY := l.mbY, firstSliceLine := true, lastResyncPos := toU 32 s.bitpos, mbValid := 0
      lastMvFwd := LastMv.zero, lastMvBwd := LastMv.zero })) := by
    refine h.updSlice ?_
    show (toU 32 (s.pos : Int)).toNat ≤ s.endPos
    rw [toNat_toU (Nat.lt_of_le_of_lt h.1.pos h.1.len.2)]
    exact h.1.pos
  unfold State.sliceStart
  dsimp only
  refine GoodAt.setFsm ?_
  split
  · unfold State.clearAround
    refine GoodAt.updStores g (Stores.wf_iff.2 ?_)
    obtain ⟨a, b, c, d, e, f, r⟩ := Stores.wf_iff.1 g.1.stores
    exact ⟨a, b, c, Cells.wf_clear _ d, Cells.wf_clear _ e, Cells.wf_clear _ f, r⟩
  · exact g

theorem GoodAt.endPicture (h : GoodAt L s) : GoodAt L s.endPicture := GoodAt.setFsm h.post

theorem alignUp_le {p l : Nat} (h : p ≤ 8 * l) : alignUp p ≤ 8 * l := by rw [alignUp]; omega

theorem le_alignUp (p : Nat) : p ≤ alignUp p := by rw [alignUp]; omega

theorem GoodAt.align (h : GoodAt L s) : GoodAt L s.align :=
  h.setPos ⟨le_trans h.inside.1 (le_alignUp _), alignUp_le h.inside.2⟩

theorem toHeader_keeps : KG L toHeader := .bind .skip fun _ => .upd fun _ h => GoodAt.updEng h.align

theorem GoodAt.decideBoundary (h : GoodAt L s) (r : Boundary) : GoodAt L (s.decideBoundary r) := by
  unfold State.decideBoundary
  split
  · exact h.endPicture
  · cases r
    · exact h.setFsm
    · exact KG.runAt toHeader_keeps h
    · exact h.updEng

/-- The search begins at the start of the slice, behind the cursor: it is the one backward move of the engine. -/
theorem GoodAt.startRecovery {l : BitVec 32} (h : GoodAt (.whole l) s) : GoodAt (.whole l) s.startRecovery := by
  unfold State.startRecovery
  split
  · exact h.endPicture
  · refine GoodAt.updEng (h.setPos (Span.whole_holds.2 (alignUp_le ?_)))
    have := h.1.last
    rw [h.endPos] at this
    exact this

/-! ## Partitions -/

theorem GoodAt.updPart (h : GoodAt L s) (f : PartRec → PartRec) : GoodAt L (s.updPart f) := h.writePart _ _
theorem KG.part {f : PartRec → PartRec} : KG L (putPart f) := .upd fun _ h => h.updPart f
theorem KG.tag {tg : Tag} {m : Parse α} (h : KG L m) : KG L (withTag tg m) := Keeps.withTag h

theorem partDcs_keeps (tg : Tag) : KG L (partDcs tg) :=
  .each (fun _ => .bind (.tag (dcDiffP_keeps _)) fun _ => .bind .part fun _ => .bind (predDcP_keeps _ _) fun _ =>
    .upd fun _ h => h.updPart _) _

theorem GoodAt.recordQuant (h : GoodAt L s) : GoodAt L s.recordQuant := (h.updPart _).writeQ _

theorem GoodAt.toSliceStart (h : GoodAt L s) : GoodAt L s.toSliceStart := h.updSlice h.1.last
theorem GoodAt.nextInSlice (h : GoodAt L s) : GoodAt L s.nextInSlice := by
  unfold State.nextInSlice
  exact h.updSlice h.1.last

theorem partModeI_keeps (n : Nat) : KG L (partModeI n) := by
  induction n with
  | zero => exact .fail
  | succ n ih =>
    refine .state fun _ _ => .ite (fun _ => .pure _) fun _ => .bind .number fun _ => ?_
    exact .ite (fun _ => ih) fun _ => .pure _

theorem partStepI_keeps : KG L partStepI := by
  refine .state fun _ _ => .bind (partModeI_keeps _) fun r => ?_
  cases r with
  | none => exact .pure _
  | some c => exact .bind (.bind .part fun _ => .bind (.when dquantP_keeps) fun _ => .bind (.upd fun _ h => h.recordQuant)
      fun _ => partDcs_keeps _) fun _ => .pure _

theorem partModeP_keeps (n : Nat) : KG L (partModeP n) := by
  induction n with
  | zero => exact .fail
  | succ n ih =>
    refine .state fun _ _ => .ite (fun _ => .pure _) fun _ => .bind .flag fun _ => ?_
    exact .ite (fun _ => .pure _) fun _ => .bind .number fun _ => .ite (fun _ => ih) fun _ => .pure _

theorem GoodAt.partVector (h : GoodAt L s) (v : Mv) : GoodAt L (s.partVector v) := (h.updPart _).writeMvAll _

theorem partStepP_keeps : KG L partStepP := by
  refine .state fun _ _ => .bind (partModeP_keeps _) fun r => ?_
  cases r with
  | marker => exact .pure _
  | skip => exact .bind (.upd fun _ h => (h.updPart _).partVector _) fun _ => .pure _
  | coded c =>
    refine .bind (.bind .part fun _ => .ite (fun _ => .upd fun _ h => h.partVector _) fun _ => .bind ?_ fun _ => ?_) fun _ => .pure _
    · exact .state fun _ _ => .when (.bind .flag fun _ => .part)
    · refine .state fun _ _ => .bind .part fun _ => .ite (fun _ => .each (fun _ => ?_) _) fun _ =>
        .ite (fun _ => .upd fun _ h => h.partVector _) fun _ => ?_
      · exact .state fun _ _ => .bind (.tag mvdPair_keeps) fun _ => .upd fun _ h => (h.updPart _).writeMv _ _
      · exact .state fun _ _ => .bind (.tag mvdPair_keeps) fun _ => .upd fun _ h => h.partVector _

theorem partALoop_keeps {m : Parse Bool} (h : KG L m) (n : Nat) : ∀ c, KG L (partALoop m n c) := by
  induction n with
  | zero => intro c; exact .pure _
  | succ n ih =>
    intro c
    refine .bind h fun _ => .ite (fun _ => ?_) fun _ => .pure _
    exact .bind (.upd fun _ g => g.nextInSlice) fun _ => ih _

theorem partitionA_keeps {m : Parse Bool} (h : KG L m) (a : Nat) (b c : ResyncPatterns → Nat) :
    KG L (partitionA m a b c) := by
  have st : ∀ n k, KG L (partStuffing n k) := by
    intro n k
    induction k with
    | zero => exact .pure _
    | succ k ih => exact .state fun _ _ => .ite (fun _ => .bind .skip fun _ => ih) fun _ => .pure _
  refine .bind (.upd fun _ g => g.toSliceStart) fun _ => .state fun _ _ => .bind (partALoop_keeps h _ _) fun _ =>
    .bind (.state fun _ _ => .ite (fun _ => .fail) fun _ => .pure _) fun _ => .state fun _ _ => .bind (st _ _) fun _ =>
    .bind (.bind .bits fun _ => .ite (fun _ => .pure _) fun _ => .fail) fun _ => .bind (.upd fun u g => ?_) fun _ => .finish
  exact GoodAt.updPic (g.updSlice g.1.last) g.1.pic

theorem partitionB_keeps {m : Parse Unit} (h : KG L m) : KG L (partitionB m) := by
  have lp : ∀ n, KG L (partBLoop m n) := by
    intro n
    induction n with
    | zero => exact .pure _
    | succ n ih => exact .bind h fun _ => .bind (.upd fun _ g => g.nextInSlice) fun _ => ih
  exact .bind (.upd fun _ g => g.toSliceStart) fun _ => .state fun _ _ => .bind (lp _) fun _ =>
    .bind (.upd fun _ g => GoodAt.updPic g.toSliceStart g.1.pic) fun _ => .finish

theorem partBStepI_keeps : KG L partBStepI :=
  .bind (.bind .flag fun _ => .part) fun _ => .bind .number fun _ => .upd fun _ h => h.updPart _

theorem partBStepP_keeps : KG L partBStepP := by
  have dq : KG L partDquant := .state fun _ _ => .when dquantP_keeps
  refine .state fun _ _ => .ite (fun _ => ?_) fun _ => .ite (fun _ => .upd fun _ h => h.recordQuant.updPart _) fun _ => ?_
  · exact .bind (.bind .flag fun _ => .part) fun _ => .bind .number fun _ => .bind dq fun _ =>
      .bind (.upd fun _ h => h.recordQuant) fun _ => .bind (partDcs_keeps _) fun _ => .upd fun _ h => h.updPart _
  · exact .bind .number fun _ => .bind dq fun _ => .upd fun _ h => h.recordQuant.updPart _

theorem GoodAt.loadPart (h : GoodAt L s) : GoodAt L s.loadPart := by
  unfold State.loadPart
  exact GoodAt.updMb (GoodAt.updPic (GoodAt.updEng h) h.1.pic) h.1.mb

theorem mbPartitionedP_keeps : KG L mbPartitionedP := by
  refine .bind (.upd fun _ h => h.startMb) fun _ => .bind (.upd fun _ h => h.loadPart) fun _ => .bind ?_ fun _ =>
    .bind (.upd fun _ h => h.updSlice h.1.last) fun _ => .bind resyncPeekP_keeps fun _ =>
    .upd fun _ h => GoodAt.answer (GoodAt.advance h.epilogue.emit) _
  refine .state fun _ _ => .ite (fun _ => .upd fun _ h => h.updMb h.1.mb) fun _ => .tag (.each (fun _ => ?_) _)
  exact .state fun _ _ => .ite (fun _ => blockIntraP_keeps _ _) fun _ => .ite (fun _ => blockInterP_keeps _) fun _ =>
    .upd fun _ h => h.setLastIndex _ _

end Sys2Proof.Machine
end

