-- ==== Sys2Proof/Laws/InvControl.lean ====
section
/-! SUPPORT. The resolver, the commands, the start codes and the moves of FSM keep the invariant. -/

namespace Sys2Proof.Machine

variable {L : Span} {s t : State} {α β : Type}

theorem Seq.legal_takeSignatures (q : Seq) (x : List Byte) (h : q.legal = true) : (q.takeSignatures x).legal = true := by
  have a : (q.takeDivx x).legal = true := by
    unfold Seq.takeDivx
    split <;> exact h
  have b : ((q.takeDivx x).takeLavc x).legal = true := by
    unfold Seq.takeLavc
    split <;> exact a
  unfold Seq.takeSignatures Seq.takeXvid
  split <;> exact b

theorem Seq.legal_resolveVersions (q : Seq) (x : List Byte) (w : BitVec 32) (h : q.legal = true) :
    (q.resolveVersions x w).legal = true := by
  have a := q.legal_takeSignatures x h
  have b : ((q.takeSignatures x).tagDefaults w).legal = true := by
    unfold Seq.tagDefaults
    split
    · split
      · exact a
      · split <;> exact a
    · exact a
  unfold Seq.resolveVersions Seq.cancelDivx
  split <;> exact b

theorem Seq.legal_repermuted (q : Seq) (a b : List Nat) (h : q.legal = true) : (q.repermuted a b).legal = true := by
  have g := Seq.legal_iff.1 h
  rw [Seq.legal_iff]
  unfold Seq.repermuted
  simpa only [repermute_length] using g

theorem quirkWord_masked (q : Seq) (w' : BitVec 32) (p : Bool) :
    quirkWord q w' p &&& quirkMask = quirkWord q w' p := by
  have m : ∀ f : QuirkFlag, f.mask &&& quirkMask = f.mask := by intro f; cases f <;> decide
  have k : ∀ (l : List QuirkFlag) (v : BitVec 32), v &&& quirkMask = v →
      (l.foldl (fun w f => if quirkSet q w' p f then w ||| f.mask else w) v) &&& quirkMask =
        l.foldl (fun w f => if quirkSet q w' p f then w ||| f.mask else w) v := by
    intro l
    induction l with
    | nil => intro v hv; exact hv
    | cons f l ih =>
      intro v hv
      refine ih _ ?_
      dsimp only
      split
      · have a := m f
        rw [BitVec.and_comm, BitVec.and_or_distrib_left, BitVec.and_comm, hv, BitVec.and_comm, a]
      · exact hv
  exact k _ _ (by decide)

theorem GoodAt.resolveQuirks (h : GoodAt L s) : GoodAt L s.resolveQuirks := by
  have g : GoodAt L ((s.updSeq (fun _ => s.seq.resolveVersions s.text s.ctrl.codecTag)).updCtrl (fun c =>
      { c with quirk := quirkWord (s.seq.resolveVersions s.text s.ctrl.codecTag) s.ctrl.codecTag (packedText s.text) })) :=
    GoodAt.updCtrl (h.updSeq (Seq.legal_resolveVersions _ _ _ h.1.seq)) (quirkWord_masked _ _ _)
  unfold State.resolveQuirks State.switchPermutation
  dsimp only
  split
  · have k := GoodAt.updSeq (f := fun q => q.repermuted s.cfg.xvidIdctPerm s.cfg.idctPerm) g
      (Seq.legal_repermuted _ _ _ g.1.seq)
    exact ⟨⟨k.1.bs, k.1.len, k.1.pos, k.1.last, k.1.seq, k.1.pic, k.1.mb, k.1.stores, k.1.quirk, k.1.log⟩, k.2⟩
  · exact g

theorem quirkResolveP_keeps : KG L quirkResolveP := .upd fun _ h => h.resolveQuirks.post

theorem GoodAt.accept (h : GoodAt L s) : GoodAt L s.accept := h.updStatus h.1.log

theorem badCommand_keeps : KG L badCommand := .fail

/-- The host may move the cursor backward. -/
theorem setposP_keeps {l : BitVec 32} : KG (.whole l) setposP := by
  intro u hu
  have e : setposP u = (if u.ctrl.pos.toNat ≤ u.endPos then (do
      update (fun s => s.setPos s.ctrl.pos.toNat)
      finishOk .done) else badCommand : Parse Unit) u := rfl
  rw [e]
  by_cases hc : u.ctrl.pos.toNat ≤ u.endPos
  · rw [if_pos hc]
    exact GoodAt.setFsm (GoodAt.post (GoodAt.setPos hu (Span.whole_holds.2 (by have := hu.endPos; rw [this] at hc; exact hc))))
  · rw [if_neg hc]
    exact ⟨hu, trivial⟩

theorem resolveQuirksP_keeps : KG L resolveQuirksP := .bind quirkResolveP_keeps fun _ => .finish

theorem clrlogP_keeps : KG L clrlogP := .bind (.upd fun _ h => h.updStatus (show (0 : BitVec 32) &&& 0xFFFF = 0 by decide)) fun _ => .finish

theorem startCodeEffect_keeps (c : ScClass) : KG L (startCodeEffect c) := by
  have r : ∀ s, GoodAt L s → GoodAt L s.reachVop := by
    intro s h
    unfold State.reachVop
    split
    · exact GoodAt.setFsm h.post
    · exact h.setFsm
  cases c with
  | vop => exact .upd r
  | ext => exact extP_keeps
  | _ => exact .upd fun _ h => h.setFsm

theorem noStartCode_keeps : KG L noStartCode := by
  refine .bind (.upd fun s h => h.setPos ?_) fun _ => .fail
  rw [h.endPos]
  exact ⟨le_trans h.inside.1 h.inside.2, le_rfl⟩

theorem takeStartCode_keeps (c : ScClass) : KG L (takeStartCode c) := by
  intro u hu
  have e : takeStartCode c u = (if u.len.toNat < u.scanByte + 4 then noStartCode else (do
      update (fun s => s.setPos (8 * (s.scanByte + 4)))
      startCodeEffect c) : Parse Unit) u := rfl
  rw [e]
  by_cases hc : u.len.toNat < u.scanByte + 4
  · rw [if_pos hc]
    exact noStartCode_keeps u hu
  · rw [if_neg hc, Parse.update_bind]
    refine startCodeEffect_keeps c _ (hu.setPos ?_)
    have b := hu.inside
    rw [hu.2.1] at hc
    simp only [Span.holds, State.scanByte, alignUp] at *
    omega

theorem State.findStartCode_le (s : State) (n : Nat) : ∀ p q, s.findStartCode n p = some q → q + 4 ≤ s.len.toNat := by
  induction n with
  | zero => intro p q h; cases h
  | succ n ih =>
    intro p q h
    rw [State.findStartCode] at h
    split at h
    · cases h
    · split at h
      · cases h; omega
      · exact ih _ _ h

theorem State.le_findStartCode (s : State) (n : Nat) : ∀ p q, s.findStartCode n p = some q → p ≤ q := by
  induction n with
  | zero => intro p q h; cases h
  | succ n ih =>
    intro p q h
    rw [State.findStartCode] at h
    split at h
    · cases h
    · split at h
      · cases h; exact le_rfl
      · exact le_trans (Nat.le_succ p) (ih _ _ h)

theorem scanP_keeps : KG L scanP := by
  refine .state fun s h => ?_
  cases e : s.findStartCode (s.len.toNat - s.scanByte) s.scanByte with
  | some p =>
    refine .bind (.upd fun u g => g.setPos ?_) fun _ => startCodeEffect_keeps _
    have a := s.findStartCode_le _ _ _ e
    have b := s.le_findStartCode _ _ _ e
    have c := h.inside
    rw [h.2.1] at a
    simp only [Span.holds, State.scanByte, alignUp] at *
    omega
  | none => exact noStartCode_keeps

theorem GoodAt.acknowledge (h : GoodAt L s) : GoodAt L s.acknowledge := by
  unfold State.acknowledge
  split
  · exact GoodAt.updSeq (GoodAt.updCtrl (GoodAt.setFsm h) h.1.quirk) h.1.seq
  · exact h

end Sys2Proof.Machine
end

