-- ==== Sys2Proof/Laws/PerInstr.lean ====
section
/-! SUPPORT. One family of statements made for each instruction: its encoding. -/

namespace Sys2Proof.Laws

/-- The code word of `i` is at most one start code long, and the decoder reads no byte beyond it: whatever bytes
follow, the answer is the same (30_encoding.md R101, R108, R130). -/
def EncodingWellFormed.Statement (i : Instr) : Prop :=
  (encode i).2.length ≤ 4 ∧
    ∀ rest : List Byte, decode (encode i).1 ((encode i).2 ++ rest) = decode (encode i).1 (encode i).2

theorem EncodingWellFormed.scVoObj (c : Byte) : EncodingWellFormed.Statement (.scVoObj c) :=
  ⟨Nat.le_of_ble_eq_true rfl, fun _ => rfl⟩

theorem EncodingWellFormed.scVol (c : Byte) : EncodingWellFormed.Statement (.scVol c) :=
  ⟨Nat.le_of_ble_eq_true rfl, fun _ => rfl⟩

theorem EncodingWellFormed.scReserved (c : Byte) : EncodingWellFormed.Statement (.scReserved c) :=
  ⟨Nat.le_of_ble_eq_true rfl, fun _ => rfl⟩

theorem EncodingWellFormed.scVos : EncodingWellFormed.Statement .scVos :=
  ⟨Nat.le_of_ble_eq_true rfl, fun _ => rfl⟩

theorem EncodingWellFormed.scVosEnd : EncodingWellFormed.Statement .scVosEnd :=
  ⟨Nat.le_of_ble_eq_true rfl, fun _ => rfl⟩

theorem EncodingWellFormed.scUser : EncodingWellFormed.Statement .scUser :=
  ⟨Nat.le_of_ble_eq_true rfl, fun _ => rfl⟩

theorem EncodingWellFormed.scGop : EncodingWellFormed.Statement .scGop :=
  ⟨Nat.le_of_ble_eq_true rfl, fun _ => rfl⟩

theorem EncodingWellFormed.scSessionErr : EncodingWellFormed.Statement .scSessionErr :=
  ⟨Nat.le_of_ble_eq_true rfl, fun _ => rfl⟩

theorem EncodingWellFormed.scVisobj : EncodingWellFormed.Statement .scVisobj :=
  ⟨Nat.le_of_ble_eq_true rfl, fun _ => rfl⟩

theorem EncodingWellFormed.scVop : EncodingWellFormed.Statement .scVop :=
  ⟨Nat.le_of_ble_eq_true rfl, fun _ => rfl⟩

theorem EncodingWellFormed.scSlice : EncodingWellFormed.Statement .scSlice :=
  ⟨Nat.le_of_ble_eq_true rfl, fun _ => rfl⟩

theorem EncodingWellFormed.scExt : EncodingWellFormed.Statement .scExt :=
  ⟨Nat.le_of_ble_eq_true rfl, fun _ => rfl⟩

theorem EncodingWellFormed.scOther (c : Byte) : EncodingWellFormed.Statement (.scOther c) :=
  ⟨Nat.le_of_ble_eq_true rfl, fun _ => rfl⟩

theorem EncodingWellFormed.scan : EncodingWellFormed.Statement .scan :=
  ⟨Nat.le_of_ble_eq_true rfl, fun _ => rfl⟩

theorem EncodingWellFormed.vos : EncodingWellFormed.Statement .vos :=
  ⟨Nat.le_of_ble_eq_true rfl, fun _ => rfl⟩

theorem EncodingWellFormed.vo : EncodingWellFormed.Statement .vo :=
  ⟨Nat.le_of_ble_eq_true rfl, fun _ => rfl⟩

theorem EncodingWellFormed.vol : EncodingWellFormed.Statement .vol :=
  ⟨Nat.le_of_ble_eq_true rfl, fun _ => rfl⟩

theorem EncodingWellFormed.volStudio : EncodingWellFormed.Statement .volStudio :=
  ⟨Nat.le_of_ble_eq_true rfl, fun _ => rfl⟩

theorem EncodingWellFormed.loadQmatrix (k : MatKind) : EncodingWellFormed.Statement (.loadQmatrix k) :=
  ⟨Nat.le_of_ble_eq_true rfl, fun _ => rfl⟩

theorem EncodingWellFormed.cplxEst : EncodingWellFormed.Statement .cplxEst :=
  ⟨Nat.le_of_ble_eq_true rfl, fun _ => rfl⟩

theorem EncodingWellFormed.extUnit : EncodingWellFormed.Statement .extUnit :=
  ⟨Nat.le_of_ble_eq_true rfl, fun _ => rfl⟩

theorem EncodingWellFormed.gop : EncodingWellFormed.Statement .gop :=
  ⟨Nat.le_of_ble_eq_true rfl, fun _ => rfl⟩

theorem EncodingWellFormed.userdata : EncodingWellFormed.Statement .userdata :=
  ⟨Nat.le_of_ble_eq_true rfl, fun _ => rfl⟩

theorem EncodingWellFormed.vop : EncodingWellFormed.Statement .vop :=
  ⟨Nat.le_of_ble_eq_true rfl, fun _ => rfl⟩

theorem EncodingWellFormed.timeIncr : EncodingWellFormed.Statement .timeIncr :=
  ⟨Nat.le_of_ble_eq_true rfl, fun _ => rfl⟩

theorem EncodingWellFormed.tiHeal : EncodingWellFormed.Statement .tiHeal :=
  ⟨Nat.le_of_ble_eq_true rfl, fun _ => rfl⟩

theorem EncodingWellFormed.spriteTraj : EncodingWellFormed.Statement .spriteTraj :=
  ⟨Nat.le_of_ble_eq_true rfl, fun _ => rfl⟩

theorem EncodingWellFormed.gmcResolve : EncodingWellFormed.Statement .gmcResolve :=
  ⟨Nat.le_of_ble_eq_true rfl, fun _ => rfl⟩

theorem EncodingWellFormed.getAmv (n : Comp) : EncodingWellFormed.Statement (.getAmv n) :=
  ⟨Nat.le_of_ble_eq_true rfl, fun _ => rfl⟩

theorem EncodingWellFormed.mbI : EncodingWellFormed.Statement .mbI :=
  ⟨Nat.le_of_ble_eq_true rfl, fun _ => rfl⟩

theorem EncodingWellFormed.mbP : EncodingWellFormed.Statement .mbP :=
  ⟨Nat.le_of_ble_eq_true rfl, fun _ => rfl⟩

theorem EncodingWellFormed.mbB : EncodingWellFormed.Statement .mbB :=
  ⟨Nat.le_of_ble_eq_true rfl, fun _ => rfl⟩

theorem EncodingWellFormed.mbStudio : EncodingWellFormed.Statement .mbStudio :=
  ⟨Nat.le_of_ble_eq_true rfl, fun _ => rfl⟩

theorem EncodingWellFormed.mvd (p : Int) (fc : Nat) : EncodingWellFormed.Statement (.mvd p fc) :=
  ⟨Nat.le_of_ble_eq_true rfl, fun _ => rfl⟩

theorem EncodingWellFormed.dquant : EncodingWellFormed.Statement .dquant :=
  ⟨Nat.le_of_ble_eq_true rfl, fun _ => rfl⟩

theorem EncodingWellFormed.blockIntra (n : Fin 6) (b : Bool) : EncodingWellFormed.Statement (.blockIntra n b) :=
  ⟨Nat.le_of_ble_eq_true rfl, fun _ => rfl⟩

theorem EncodingWellFormed.blockInter (n : Fin 6) : EncodingWellFormed.Statement (.blockInter n) :=
  ⟨Nat.le_of_ble_eq_true rfl, fun _ => rfl⟩

theorem EncodingWellFormed.coefDirect (l : Bool) (r : Nat) (v : Nat) : EncodingWellFormed.Statement (.coefDirect l r v) :=
  ⟨Nat.le_of_ble_eq_true rfl, fun _ => rfl⟩

theorem EncodingWellFormed.coefEsc1 (t : RlTable) : EncodingWellFormed.Statement (.coefEsc1 t) :=
  ⟨Nat.le_of_ble_eq_true rfl, fun _ => rfl⟩

theorem EncodingWellFormed.coefEsc2 (t : RlTable) : EncodingWellFormed.Statement (.coefEsc2 t) :=
  ⟨Nat.le_of_ble_eq_true rfl, fun _ => rfl⟩

theorem EncodingWellFormed.coefEsc3 : EncodingWellFormed.Statement .coefEsc3 :=
  ⟨Nat.le_of_ble_eq_true rfl, fun _ => rfl⟩

theorem EncodingWellFormed.predDc (n : Fin 6) (d : Int) : EncodingWellFormed.Statement (.predDc n d) :=
  ⟨Nat.le_of_ble_eq_true rfl, fun _ => rfl⟩

theorem EncodingWellFormed.predAc (n : Fin 6) : EncodingWellFormed.Statement (.predAc n) :=
  ⟨Nat.le_of_ble_eq_true rfl, fun _ => rfl⟩

theorem EncodingWellFormed.resyncPeek : EncodingWellFormed.Statement .resyncPeek :=
  ⟨Nat.le_of_ble_eq_true rfl, fun _ => rfl⟩

theorem EncodingWellFormed.videoPacketHeader : EncodingWellFormed.Statement .videoPacketHeader :=
  ⟨Nat.le_of_ble_eq_true rfl, fun _ => rfl⟩

theorem EncodingWellFormed.partitionAI : EncodingWellFormed.Statement .partitionAI :=
  ⟨Nat.le_of_ble_eq_true rfl, fun _ => rfl⟩

theorem EncodingWellFormed.partitionAP : EncodingWellFormed.Statement .partitionAP :=
  ⟨Nat.le_of_ble_eq_true rfl, fun _ => rfl⟩

theorem EncodingWellFormed.partitionBI : EncodingWellFormed.Statement .partitionBI :=
  ⟨Nat.le_of_ble_eq_true rfl, fun _ => rfl⟩

theorem EncodingWellFormed.partitionBP : EncodingWellFormed.Statement .partitionBP :=
  ⟨Nat.le_of_ble_eq_true rfl, fun _ => rfl⟩

theorem EncodingWellFormed.mbPartitioned : EncodingWellFormed.Statement .mbPartitioned :=
  ⟨Nat.le_of_ble_eq_true rfl, fun _ => rfl⟩

theorem EncodingWellFormed.quirkResolve : EncodingWellFormed.Statement .quirkResolve :=
  ⟨Nat.le_of_ble_eq_true rfl, fun _ => rfl⟩

theorem EncodingWellFormed.cmdNop : EncodingWellFormed.Statement .cmdNop :=
  ⟨Nat.le_of_ble_eq_true rfl, fun _ => rfl⟩

theorem EncodingWellFormed.cmdScanHeaders : EncodingWellFormed.Statement .cmdScanHeaders :=
  ⟨Nat.le_of_ble_eq_true rfl, fun _ => rfl⟩

theorem EncodingWellFormed.cmdDecodePicture : EncodingWellFormed.Statement .cmdDecodePicture :=
  ⟨Nat.le_of_ble_eq_true rfl, fun _ => rfl⟩

theorem EncodingWellFormed.cmdSetpos : EncodingWellFormed.Statement .cmdSetpos :=
  ⟨Nat.le_of_ble_eq_true rfl, fun _ => rfl⟩

theorem EncodingWellFormed.cmdResolveQuirks : EncodingWellFormed.Statement .cmdResolveQuirks :=
  ⟨Nat.le_of_ble_eq_true rfl, fun _ => rfl⟩

theorem EncodingWellFormed.cmdClrlog : EncodingWellFormed.Statement .cmdClrlog :=
  ⟨Nat.le_of_ble_eq_true rfl, fun _ => rfl⟩

theorem EncodingWellFormed.cmdReserved6 : EncodingWellFormed.Statement .cmdReserved6 :=
  ⟨Nat.le_of_ble_eq_true rfl, fun _ => rfl⟩

theorem EncodingWellFormed.cmdReserved7 : EncodingWellFormed.Statement .cmdReserved7 :=
  ⟨Nat.le_of_ble_eq_true rfl, fun _ => rfl⟩

theorem EncodingWellFormed.cmdReserved8 : EncodingWellFormed.Statement .cmdReserved8 :=
  ⟨Nat.le_of_ble_eq_true rfl, fun _ => rfl⟩

theorem EncodingWellFormed.cmdReserved9 : EncodingWellFormed.Statement .cmdReserved9 :=
  ⟨Nat.le_of_ble_eq_true rfl, fun _ => rfl⟩

theorem EncodingWellFormed.cmdReserved10 : EncodingWellFormed.Statement .cmdReserved10 :=
  ⟨Nat.le_of_ble_eq_true rfl, fun _ => rfl⟩

theorem EncodingWellFormed.cmdReserved11 : EncodingWellFormed.Statement .cmdReserved11 :=
  ⟨Nat.le_of_ble_eq_true rfl, fun _ => rfl⟩

theorem EncodingWellFormed.cmdReserved12 : EncodingWellFormed.Statement .cmdReserved12 :=
  ⟨Nat.le_of_ble_eq_true rfl, fun _ => rfl⟩

theorem EncodingWellFormed.cmdReserved13 : EncodingWellFormed.Statement .cmdReserved13 :=
  ⟨Nat.le_of_ble_eq_true rfl, fun _ => rfl⟩

theorem EncodingWellFormed.cmdReserved14 : EncodingWellFormed.Statement .cmdReserved14 :=
  ⟨Nat.le_of_ble_eq_true rfl, fun _ => rfl⟩

theorem EncodingWellFormed.cmdReserved15 : EncodingWellFormed.Statement .cmdReserved15 :=
  ⟨Nat.le_of_ble_eq_true rfl, fun _ => rfl⟩

end Sys2Proof.Laws
end

