-- ==== Sys2Proof/Laws/Rows.lean ====
section
/-! SUPPORT. The small lemmas of Machine/Rows.lean: what a field, a condition and a row of a header's grammar are, said
once. -/

namespace Sys2Proof.Machine

variable {φ ε : Type} [DecidableEq φ] {g : Reader φ ε} {s t u : State} {env env' : Env φ} {r : Row φ ε}
  {rows : List (Row φ ε)} {f : φ} {w : Width} {v n : Nat} {c d : Cond φ} {x : Raise}

/-- A one-bit field as a flag. -/
theorem flagOf_bit {b : Nat} (h : b < 2) : flagOf (b : Int) = (b == 1) := by
  have : b = 0 ∨ b = 1 := by omega
  rcases this with rfl | rfl <;> decide

/-- The complement of a one-bit field as a flag. -/
theorem flagOf_not_bit {b : Nat} (h : b < 2) : flagOf (1 - (b : Int)) = (b == 0) := by
  have : b = 0 ∨ b = 1 := by omega
  rcases this with rfl | rfl <;> decide

@[simp] theorem bitOf_eq_one {b : Bool} : (bitOf b == 1) = b := by cases b <;> rfl
@[simp] theorem bitOf_eq_zero {b : Bool} : (bitOf b == 0) = !b := by cases b <;> rfl

@[simp] theorem State.widthOf_bits : s.widthOf (.bits n) = n := rfl
@[simp] theorem State.widthOf_timeIncrement : s.widthOf .timeIncrement = s.seq.timeIncrementBits.toNat := rfl
@[simp] theorem State.widthOf_quantPrecision : s.widthOf .quantPrecision = s.seq.quantPrecision.toNat := rfl
@[simp] theorem State.widthOf_trash {k : Trash} : s.widthOf (.trash k) = (s.trashOf k).toNat := rfl

@[simp] theorem condHolds_read : condHolds s env (.read f v) = (env.find f == some v) := rfl
@[simp] theorem condHolds_reg {k : HeaderReg} : condHolds s env (.reg k v) = (s.headerReg k == v) := rfl
@[simp] theorem condHolds_not : condHolds s env (.not c) = !condHolds s env c := rfl
@[simp] theorem condHolds_and : condHolds s env (.and c d) = (condHolds s env c && condHolds s env d) := rfl
@[simp] theorem condHolds_or : condHolds s env (.or c d) = (condHolds s env c || condHolds s env d) := rfl

@[simp] theorem rowRuns_nil {i : Item φ ε} : rowRuns s env ⟨[], i⟩ = true := rfl
@[simp] theorem rowRuns_cons {l : List (Cond φ)} {i : Item φ ε} :
    rowRuns s env ⟨c :: l, i⟩ = (condHolds s env c && rowRuns s env ⟨l, i⟩) := rfl

@[simp] theorem runRows_nil : runRows g [] env s = .ok () s := rfl

/-- The first row decides how the rest goes on. -/
theorem runRows_cons : runRows g (r :: rows) env s =
    (if rowRuns s env r then runItem g env r.item >>= fun next => match next with
      | some e => runRows g rows e
      | none => pure ()
    else runRows g rows env : Parse Unit) s := rfl

/-- A row whose guard fails is passed over. -/
theorem runRows_skip (h : rowRuns s env r = false) : runRows g (r :: rows) env s = runRows g rows env s := by
  rw [runRows_cons, if_neg (by simp [h])]

/-- A row whose guard holds is run, and the rest goes on with what it read. -/
theorem runRows_run (h : rowRuns s env r = true) (h' : runItem g env r.item s = .ok (some env') t) :
    runRows g (r :: rows) env s = runRows g rows env' t := by
  rw [runRows_cons, if_pos h, Parse.bind_apply, h']

/-- A row that leaves ends the header's rows. -/
theorem runRows_leave (h : rowRuns s env r = true) (h' : runItem g env r.item s = .ok none t) :
    runRows g (r :: rows) env s = .ok () t := by
  rw [runRows_cons, if_pos h, Parse.bind_apply, h']
  rfl

/-- A raise of a row is the header's. -/
theorem runRows_raise (h : rowRuns s env r = true) (h' : runItem g env r.item s = .error x t) :
    runRows g (r :: rows) env s = .error x t := by
  rw [runRows_cons, if_pos h, Parse.bind_apply, h']

/-- A header is its rows, the position to rewind to where they begin. -/
theorem runLayout_apply : runLayout g rows s = runRows g rows (.at s.pos) s := rfl

omit [DecidableEq φ] in
/-- A field that stands whole inside BS is read, taken and remembered. -/
theorem runItem_field (h : s.pos + s.widthOf w ≤ s.endPos)
    (h' : g.take f (s.memRead s.pos (s.widthOf w)) (s.setPos (s.pos + s.widthOf w)) = .ok () t) :
    runItem g env (.field f w) s
      = .ok (some { env with fields := (f, s.memRead s.pos (s.widthOf w)) :: env.fields }) t := by
  show (getBits (g.ends g.family) (s.widthOf w) >>= fun v => g.take f v >>= fun _ =>
    pure (some { env with fields := (f, v) :: env.fields }) : Parse (Option (Env φ))) s = _
  rw [Parse.bind_apply, getBits_ok h]
  dsimp only
  rw [Parse.bind_apply, h']
  rfl

omit [DecidableEq φ] in
/-- A field that BS cuts off raises. -/
theorem runItem_field_short (h : s.endPos < s.pos + s.widthOf w) :
    runItem g env (.field f w) s = .error (g.ends g.family) s := by
  show (getBits (g.ends g.family) (s.widthOf w) >>= fun v => g.take f v >>= fun _ =>
    pure (some { env with fields := (f, v) :: env.fields }) : Parse (Option (Env φ))) s = _
  rw [Parse.bind_apply, getBits_short h]

omit [DecidableEq φ] in
/-- Bits passed over inside BS. -/
theorem runItem_skip (h : s.pos + s.widthOf w ≤ s.endPos) :
    runItem g env (.skip w) s = .ok (some env) (s.setPos (s.pos + s.widthOf w)) := by
  show (skipBits (g.ends g.family) (s.widthOf w) >>= fun _ => pure (some env) : Parse (Option (Env φ))) s = _
  rw [Parse.bind_apply, skipBits_ok h]
  rfl

end Sys2Proof.Machine
end

