-- ==== Sys2Proof/Tests/Slice0.lean ====
section
/-! SUPPORT. The model's own tests: ill-formed terms that WellFormed refuses, words written out from the encodings, the
spec's worked examples, and for each statement a state that meets its hypotheses. The code tables are the test tables
of 95_test_vectors.md with two more run-level rows. -/

namespace Sys2Proof.Tests

open Sys2Proof.Machine

/-! ## Small states -/

/-- The run-level rows of 95_test_vectors.md, and two with runs of 40. -/
def rlRows : List VlcRow :=
  [⟨2, 2, .rl false 0 1⟩, ⟨3, 6, .rl false 1 1⟩, ⟨4, 14, .rl false 0 2⟩, ⟨4, 7, .rl true 0 1⟩, ⟨4, 6, .rl true 1 1⟩,
   ⟨7, 3, .escape⟩, ⟨5, 1, .rl false 40 1⟩, ⟨5, 2, .rl true 40 1⟩]

/-- The test tables of 95_test_vectors.md. -/
def tables : VlcTables where
  dcLum := [⟨3, 3, .num 0⟩, ⟨2, 3, .num 1⟩, ⟨2, 2, .num 2⟩, ⟨3, 2, .num 3⟩]
  dcChrom := [⟨2, 3, .num 0⟩, ⟨2, 2, .num 1⟩, ⟨2, 1, .num 2⟩]
  rlIntra := rlRows
  rlInter := rlRows
  rlRvlcIntra := []
  rlRvlcInter := []
  spriteTraj := [⟨2, 0, .num 0⟩, ⟨2, 1, .num 1⟩, ⟨2, 2, .num 2⟩, ⟨3, 6, .num 3⟩]
  mbTypeB := Config.mbTypeB
  intraMcbpc := [⟨1, 1, .num 0⟩, ⟨3, 1, .num 3⟩, ⟨4, 1, .num 4⟩, ⟨9, 1, .num 8⟩]
  interMcbpc := [⟨1, 1, .num 0⟩, ⟨9, 1, .num 20⟩]
  cbpy := [⟨2, 3, .num 15⟩, ⟨2, 2, .num 8⟩, ⟨2, 1, .num 0⟩]
  mv := [⟨1, 1, .num 0⟩, ⟨2, 1, .num 1⟩, ⟨3, 1, .num 2⟩, ⟨4, 1, .num 3⟩]
  studioIntra := []
  studioLumaDc := []
  studioChromaDc := []

/-- The configuration of the tests. -/
def cfg : Cfg :=
  { Config.initial with vlc := tables, defaultIntra := List.replicate 64 16, defaultInter := List.replicate 64 17 }

/-- A 32x32 layer with every kind of register away from its reset value. -/
def seq : Seq :=
  { Seq.reset cfg with
    width := 32, height := 32, valid := true, timeIncrementBits := 5, timeIncrementResolution := 25, profile := 3
    level := 2, resyncMarker := true, lowDelay := true, contextReinit := true, trashB := 3
    userData := [(0, 65), (2, 66)], userDataLen := 3, enhancementType := true }

/-- A picture with every register away from its reset value. -/
def pic : Pic :=
  { Pic.reset with
    qscale := 7, chromaQscale := 6, fCode := 2, bCode := 3, noRounding := true, timeIncr := 9, timeIncrement := 8
    time := 77, ppTime := 6, pbTime := 2, ppFieldTime := 5, pbFieldTime := 3, spriteOffsetLuma := ⟨6, -4⟩
    spriteDeltaX := ⟨2, 1⟩, spriteDeltaY := ⟨1, 2⟩, realSpriteWarpingPoints := 1
    spriteTraj := ⟨⟨3, -2⟩, ⟨1, 1⟩, ⟨2, 2⟩, ⟨3, 3⟩⟩
    tiHealed := true, topFieldFirst := true, vopCoded := true }

/-- The prediction stores with a word in each. -/
def stores : Stores where
  dcLuma := [(1, 800), (3, 900)]
  dcCb := [(0, 700)]
  dcCr := [(0, 600)]
  acLuma := [(17, 5), (25, -7)]
  acCb := [(1, 4)]
  acCr := [(9, -4)]
  qmem := [(0, 4)]
  mvmem := [(1, ⟨3, -1⟩), (2, ⟨5, 6⟩)]
  mbtype := [(0, { MbType.zero with intra := true })]
  partmem := [(1, { PartRec.zero with skipped := true })]
  rowprog := 0

/-- The second macroblock of a slice. -/
def slice : Slice :=
  { Slice.reset with
    mbX := 1, firstSliceLine := true, mbNumLeft := 1, mbValid := 3, mbErr := 2, lastResyncPos := 3, nextMbi := 1
    lastMvFwd := ⟨⟨1, 2⟩, ⟨3, 4⟩⟩, lastMvBwd := ⟨⟨5, 6⟩, ⟨7, 8⟩⟩ }

/-- A macroblock record away from its reset value. -/
def mb : Mb :=
  { Mb.reset with
    mcsel := true, mvFwd := Quad.all ⟨1, 1⟩, qscale := 9, cbpc := 2
    block := ⟨[(0, 3), (8, 2)], [], [], [(1, 4)], [], []⟩
    predDir := Six.all true }

/-- A machine in the middle of a picture. -/
def base : State :=
  { State.resetUnder cfg ⟨[(0, ⟨4, 6⟩), (2, ⟨4, 6⟩)], [(3, { MbType.zero with skipped := true })], 5⟩ with
    fsm := .mb, seq := seq, pic := pic, stores := stores, slice := slice, mb := mb
    time := ⟨3, 2, 80, 6, 1⟩, status := ⟨.ok, .vop, 12, true, 0x20⟩, ctrl := ⟨2, false, 0, 0x34504D55, 5, false⟩
    port := [.failed 0 0], eng := ⟨.peek, true, [4], []⟩ }

/-- The `n` bits of `v`, the most significant first. -/
def field : (n v : Nat) → List Bool
  | 0, _ => []
  | n + 1, v => (v / 2 ^ n % 2 == 1) :: field n v

/-- The number that bits stand for. -/
def numberOfBits (l : List Bool) : Nat := l.foldl (fun a b => 2 * a + (if b then 1 else 0)) 0

/-- Bits as bytes, at most `n` of them, the last one filled with zeros. -/
def packBytes : (n : Nat) → List Bool → List Byte
  | 0, _ => []
  | _ + 1, [] => []
  | n + 1, b :: l =>
    BitVec.ofNat 8 (numberOfBits (((b :: l) ++ List.replicate 7 false).take 8)) :: packBytes n ((b :: l).drop 8)

/-- `s` with fields of the given widths and values in BS from bit 0 up, and the cursor at bit `p`. -/
def holding (s : State) (p : Nat) (l : List (Nat × Nat)) : State :=
  let bytes := packBytes 200 (l.flatMap (fun a => field a.1 a.2))
  { s with bs := Memory.writeBytes [] 0 bytes, len := BitVec.ofNat 32 bytes.length, bitpos := p }

/-- `s` with three bits before the cursor, then fields of the given widths and values. -/
def at3 (s : State) (l : List (Nat × Nat)) : State := holding s 3 ((3, 5) :: l)

/-- A property of the next state. -/
def onNext (o : Host.Outcome State Fault Refusal) (p : State → Bool) : Bool :=
  match o with
  | .next t => p t
  | .fault _ => false
  | .refused _ => false

/-! ## Ill-formed terms that WellFormed refuses -/

theorem test_wf_voObj : (Instr.scVoObj 0x20).wellFormed = false := by decide
theorem test_wf_vol_low : (Instr.scVol 0x1F).wellFormed = false := by decide
theorem test_wf_vol_high : (Instr.scVol 0x30).wellFormed = false := by decide
theorem test_wf_reserved_low : (Instr.scReserved 0x2F).wellFormed = false := by decide
theorem test_wf_reserved_high : (Instr.scReserved 0xB0).wellFormed = false := by decide
theorem test_wf_other : (Instr.scOther 0xB8).wellFormed = false := by decide
theorem test_wf_mvd_pred : (Instr.mvd 32768 1).wellFormed = false := by decide
theorem test_wf_mvd_predLow : (Instr.mvd (-32769) 1).wellFormed = false := by decide
theorem test_wf_mvd_range : (Instr.mvd 0 0).wellFormed = false := by decide
theorem test_wf_mvd_rangeHigh : (Instr.mvd 0 8).wellFormed = false := by decide
theorem test_wf_coef_run : (Instr.coefDirect false 64 1).wellFormed = false := by decide
theorem test_wf_coef_level : (Instr.coefDirect false 0 0).wellFormed = false := by decide
theorem test_wf_esc1 : (Instr.coefEsc1 .rvlcIntra).wellFormed = false := by decide
theorem test_wf_esc2 : (Instr.coefEsc2 .rvlcInter).wellFormed = false := by decide
theorem test_wf_predDc : (Instr.predDc 0 40000).wellFormed = false := by decide

/-! ## Decoding: words and selections written out from 30_encoding.md R101, R102, R108, R111, R130 -/

theorem test_decode_startCodes :
    [0x00000100, 0x0000011F, 0x00000120, 0x0000012F, 0x00000130, 0x000001AF, 0x000001B0, 0x000001B1, 0x000001B2,
      0x000001B3, 0x000001B4, 0x000001B5, 0x000001B6, 0x000001B7, 0x000001B8, 0x000001B9, 0x000001FF].map
        (decodeTableWord 32) =
    [Instr.scVoObj 0x00, .scVoObj 0x1F, .scVol 0x20, .scVol 0x2F, .scReserved 0x30, .scReserved 0xAF, .scVos,
      .scVosEnd, .scUser, .scGop, .scSessionErr, .scVisobj, .scVop, .scSlice, .scExt, .scOther 0xB9,
      .scOther 0xFF].map some := by
  decide
theorem test_decode_notStartCode : [0x00000000, 0x000002B6, 0x010001B6].map (decodeTableWord 32) =
    [none, none, none] := by decide
theorem test_decode_commands :
    (List.range 17).map (decodeTableWord 8) =
    [some .cmdNop, some .cmdScanHeaders, some .cmdDecodePicture, some .cmdSetpos, some .cmdResolveQuirks,
      some .cmdClrlog, some .cmdReserved6, some .cmdReserved7, some .cmdReserved8, some .cmdReserved9,
      some .cmdReserved10, some .cmdReserved11, some .cmdReserved12, some .cmdReserved13, some .cmdReserved14,
      some .cmdReserved15, none] := by
  decide
theorem test_decode_headers :
    [Fsm.scan, .hdrVos, .hdrVo, .hdrVol, .hdrVolStudio, .hdrGop, .hdrUser, .hdrVop].map
        (fun f => okOrNone (decode (.state f false false .i) [])) =
    [Instr.scan, .vos, .vo, .vol, .volStudio, .gop, .userdata, .vop].map some := by decide
theorem test_decode_macroblocks :
    [(false, false, PictType.i), (false, false, .p), (false, false, .s), (false, false, .b), (false, true, .i),
      (false, true, .p), (false, true, .s), (true, false, .i), (true, true, .p)].map
        (fun a => okOrNone (decode (.state .mb a.1 a.2.1 a.2.2) [])) =
    [Instr.mbI, .mbP, .mbP, .mbB, .mbPartitioned, .mbPartitioned, .mbPartitioned, .mbStudio, .mbStudio].map some := by
  decide
theorem test_decode_partitions :
    [(Fsm.partA, PictType.i), (.partA, .p), (.partA, .s), (.partB, .i), (.partB, .p), (.partB, .s)].map
        (fun a => okOrNone (decode (.state a.1 false true a.2) [])) =
    [Instr.partitionAI, .partitionAP, .partitionAP, .partitionBI, .partitionBP, .partitionBP].map some := by decide
theorem test_decode_noOperation :
    [Fsm.idle, .sliceStart, .resyncCheck, .waitRow, .done, .error].map
        (fun f => okOrNone (decode (.state f false false .i) [])) = [none, none, none, none, none, none] := by decide
theorem test_decode_escapes :
    [(false, 0x7F), (false, 0x80), (false, 0xBF), (false, 0xC0), (true, 0x80), (true, 0x7F), (true, 0x3F)].map
        (fun a : Bool × Byte => okOrNone (decode (.coefficient a.1 .intra .escape) [a.2])) =
    [Instr.coefEsc1 .intra, .coefEsc2 .intra, .coefEsc2 .intra, .coefEsc3, .coefEsc1 .intra, .coefEsc2 .intra,
      .coefEsc3].map some := by decide
theorem test_decode_inside :
    [Selector.boundary, .packet, .volLoadFlag .inter, .volComplexity, .extension, .vopTime,
      .vopMarkerAbsent, .vopSprite, .trajectoryRead, .globalMotion .y, .vectorComponent 2 3, .quantFlag, .intraBlock 4 true, .interBlock 2,
      .coefficient false .inter (.rl true 3 2), .dcOf 1 5, .acOf 3, .quirks].map (fun a => okOrNone (decode a [])) =
    [Instr.resyncPeek, .videoPacketHeader, .loadQmatrix .inter, .cplxEst, .extUnit, .timeIncr, .tiHeal, .spriteTraj,
      .gmcResolve, .getAmv .y, .mvd 2 3, .dquant, .blockIntra 4 true, .blockInter 2, .coefDirect true 3 2,
      .predDc 1 5, .predAc 3, .quirkResolve].map some := by decide

/-! ## Worked examples of the spec -/

/-- 40_header_vol.md R141: BS = 12 00 00 01 B6 40. -/
theorem test_scan : onNext (exec .scan (holding { base with ctrl := { base.ctrl with cmd := 2 } } 0
    [(8, 0x12), (24, 1), (8, 0xB6), (8, 0x40)])) (fun t => t.bitpos == 40 && t.fsm == .hdrVop) = true := by decide
/-- 40_header_vol.md R143: byte E1. -/
theorem test_vos : onNext (exec .vos (at3 base [(8, 0xE1)]))
    (fun t => t.seq.profile == 14 && t.seq.level == 1 && t.seq.studioProfile) = true := by decide
set_option maxRecDepth 8000 in
/-- 40_header_vol.md R160: the stream 5, 3, 0. -/
theorem test_loadQmatrix : onNext (exec (.loadQmatrix .intra) (at3 base [(8, 5), (8, 3), (8, 0)]))
    (fun t => t.bitpos == 27 && t.seq.intraMatrix.getD 0 0 == 5 && t.seq.intraMatrix.getD 1 0 == 3
      && t.seq.chromaIntraMatrix.getD 63 0 == 3) = true := by decide
/-- 41_header_vop.md R184: bits 1 1 0. -/
theorem test_timeIncr : onNext (exec .timeIncr (at3 base [(4, 13)]))
    (fun t => t.pic.timeIncr == 2 && t.bitpos == 7) = true := by
  decide
/-- 42_gmc.md R232: one real point (6, -4). -/
theorem test_getAmv : [Comp.x, .y].map (fun n => onNext (exec (.getAmv n)
    { base with pic := { base.pic with fCode := 1 } })
    (fun t => t.eng.ret == (if n = .x then [6] else [-4]))) = [true, true] := by decide
/-- 42_gmc.md R232: sums 40 and -40 under f_code 1. -/
theorem test_getAmv_clamp : [Comp.x, .y].map (fun n => onNext (exec (.getAmv n)
    { base with pic := { base.pic with fCode := 1, spriteOffsetLuma := ⟨40, -40⟩ } })
    (fun t => t.eng.ret == (if n = .x then [31] else [-32]))) = [true, true] := by decide
/-- 95_test_vectors.md A2: one point (3, -2), accuracy 0. -/
theorem test_gmcResolve : onNext (exec .gmcResolve { base with seq := { base.seq with numSpriteWarpingPoints := 1 } })
    (fun t => t.pic.spriteOffsetLuma == ⟨6, -4⟩ && t.pic.spriteOffsetChroma == ⟨3, -2⟩
      && t.pic.spriteDeltaX == ⟨2, 0⟩ && t.pic.spriteDeltaY == ⟨0, 2⟩) = true := by decide
/-- 43_macroblock.md R246, R247: bits 01 at the quantiser 1. -/
theorem test_dquant : onNext (exec .dquant (at3 { base with pic := { base.pic with qscale := 1 } } [(2, 1)]))
    (fun t => t.mb.dquant == -2 && t.pic.qscale == 1) = true := by decide
/-- 43_macroblock.md R257: fc = 1, pred = 2, code 3, sign 1. -/
theorem test_mvd : onNext (exec (.mvd 2 1) (at3 base [(4, 1), (1, 1)]))
    (fun t => t.eng.ret == [-1]) = true := by decide
/-- 43_macroblock.md R257: fc = 2, pred = 0, code 2, sign 0, residual bit 1. -/
theorem test_mvd_shift : onNext (exec (.mvd 0 2) (at3 base [(3, 1), (1, 0), (1, 1)]))
    (fun t => t.eng.ret == [4]) = true := by
  decide
/-- 43_macroblock.md R258: fc = 1, the value 33. -/
theorem test_wrapMv : wrapMv 33 1 = -31 := by decide
/-- 44_residual.md R300: bits 1 000011 1 111111111101 1. -/
theorem test_coefEsc3 : onNext (exec .coefEsc3 (at3 base [(1, 1), (6, 3), (1, 1), (12, 0xFFD), (1, 1)]))
    (fun t => t.eng.ret == [1, 3, -3]) = true := by decide
/-- 44_residual.md R301: level 5, sign bit 1. -/
theorem test_coefDirect : onNext (exec (.coefDirect false 2 5) (at3 base [(1, 1)]))
    (fun t => t.eng.ret == [0, 2, -5]) = true := by
  decide
/-- 44_residual.md R304 on the test table: entry (0, 0, 1) has the greatest level 2. -/
theorem test_coefEsc1 : onNext (exec (.coefEsc1 .intra) (at3 base [(2, 2), (1, 0)]))
    (fun t => t.eng.ret == [0, 0, 3]) = true := by
  decide
/-- 44_residual.md R304 on the test table: entry (1, 0, 1) has the greatest run 40. -/
theorem test_coefEsc2 : onNext (exec (.coefEsc2 .inter) (at3 base [(4, 7), (1, 1)]))
    (fun t => t.eng.ret == [1, 41, -1]) = true := by
  decide
/-- 44_residual.md R312: a tie goes to the top; (800, 1024, 1024) to the left. -/
theorem test_dcTop : [dcTop true ⟨1024, 1024, 1024⟩, dcTop true ⟨800, 1024, 1024⟩] = [true, false] := by decide
/-- 95_test_vectors.md A3 with the quantiser 4: the sentinel gives the level 128. -/
theorem test_predDc : onNext (exec (.predDc 0 0)
    { base with slice := { base.slice with resyncMbX := 1 }, pic := { base.pic with qscale := 4 } })
    (fun t => t.eng.ret == [128] && t.mb.predDir.b0) = true := by decide
/-- 44_residual.md R319: -7 * 4 rescaled by 6. -/
theorem test_roundedDiv : roundedDiv (-28) 6 = -5 := by decide
/-- 45_resync.md R332: 98 needs 7 bits. -/
theorem test_bitLength : bitLength 98 = 7 := by decide
/-- 45_resync.md R337: sixteen zeros, 1, number 22, quantiser 8, no extension, in a picture of 99 macroblocks. -/
theorem test_packetHeader : onNext (exec .videoPacketHeader (at3
    { base with seq := { base.seq with width := 176, height := 144 }, pic := { base.pic with pictType := .i } }
    [(17, 1), (7, 22), (5, 8), (1, 0)]))
    (fun t => t.bitpos == 33 && t.slice.mbX == 0 && t.slice.mbY == 2 && t.pic.qscale == 8
      && t.fsm == .sliceStart) = true := by
  decide
/-- 46_quirks.md R362, R363: the text XviD0012 gives the build 12. -/
theorem test_quirkResolve : onNext (exec .quirkResolve { base with
    seq := { base.seq with
      userData := [(0, 0x58), (1, 0x76), (2, 0x69), (3, 0x44), (4, 0x30), (5, 0x30), (6, 0x31), (7, 0x32)]
      userDataLen := 8 } })
    (fun t => t.seq.xvidBuild == 12 && t.quirk .edge && t.quirk .dcClip && t.quirk .ump4
      && !t.quirk .hpelChroma) = true := by
  decide

/-- 30_encoding.md R133: the peek's answer emits the record. -/
theorem test_peek_emits : onNext (exec .resyncPeek { base with
    ctrl := { base.ctrl with quirk := 4 }, seq := { base.seq with resyncMarker := false } })
    (fun t => t.port == [.failed 0 0, .decoded 1 0 base.mb] && t.slice.mbX == 0 && t.slice.mbY == 1) = true := by decide
/-- 70_reset_and_hazards.md R413: a lost macroblock shows zero vectors to the peer, its neighbour its own. -/
theorem test_publishedMv :
    ({ base with eng := { base.eng with failed := [0] } } : State).publishedMv = [(2, ⟨5, 6⟩)] := by decide

/-! ## For each statement with hypotheses, states that meet them -/

/-- IDLE with SETPOS in CTRL.CMD. -/
def sIdle : State := { at3 base [(8, 1)] with fsm := .idle, ctrl := { base.ctrl with cmd := 3, pos := 11 } }
/-- SCAN before a start code with suffix `c`, at the aligned cursor. -/
def sCode (c : Nat) : State := { holding base 3 [(8, 9), (24, 1), (8, c)] with fsm := .scan }

theorem witness_DecodeEncodeRoundTrip : (Instr.mvd (-32768) 7).wellFormed = true := by decide
theorem witness_StepRunsDecoded :
    (engineMove sIdle = none ∧ decode (fetch sIdle).1 (fetch sIdle).2 = .ok .cmdSetpos
        ∧ Instr.wellFormed .cmdSetpos = true)
      ∧ engineMove { sIdle with fsm := .done } = some { sIdle with fsm := .done } := ⟨⟨rfl, rfl, rfl⟩, rfl⟩
theorem witness_StepInScanAndIdle :
    (let s := sCode 0xB6;
      s.fsm = .scan ∧ s.scanByte + 4 ≤ s.len.toNat ∧ s.byteAt s.scanByte = 0 ∧ s.byteAt (s.scanByte + 1) = 0
        ∧ s.byteAt (s.scanByte + 2) = 1 ∧ s.byteAt (s.scanByte + 3) = 0xB6)
      ∧ sIdle.fsm = .idle := by decide
theorem witness_StepKeepsInvariantAndGoesForward :
    ((sIdle.inv = true ∧ sIdle.fsm = .idle ∧ sIdle.ctrl.cmd = 3) ∧ ∃ t, step sIdle = .next t)
      ∧ ((sCode 0xB6).inv = true ∧ (sCode 0xB6).fsm = .scan) ∧ ∃ t, step (sCode 0xB6) = .next t :=
  ⟨⟨by decide, _, rfl⟩, by decide, _, rfl⟩
theorem witness_FsmMovesAreLegal : ∃ t, step (sCode 0xB6) = .next t := ⟨_, rfl⟩
theorem witness_BitstreamIsReadOnly :
    (∃ t, exec .cmdSetpos sIdle = .next t) ∧ Instr.cmdSetpos ≠ .quirkResolve ∧ Instr.cmdSetpos ≠ .cmdResolveQuirks :=
  ⟨⟨_, rfl⟩, by decide, by decide⟩
theorem witness_ResetLeavesTheSpecsValues :
    isPerm64 base.cfg.idctPermInit = true ∧ isPerm64 base.cfg.zigzag = true ∧ base.cfg.defaultIntra.length = 64
      ∧ base.cfg.defaultInter.length = 64 := by decide
theorem witness_NoOpStartCodesScanOn :
    (sCode 0xB1).lenFits = true ∧ (sCode 0xB1).scanByte + 4 ≤ (sCode 0xB1).len.toNat ∧ (0x1F : Byte).toNat ≤ 0x1F
      ∧ 0x30 ≤ (0x30 : Byte).toNat ∧ (0xAF : Byte).toNat ≤ 0xAF ∧ 0xB9 ≤ (0xB9 : Byte).toNat := by decide
theorem witness_HeaderStartCodesSelectTheirHeader :
    (sCode 0x20).lenFits = true ∧ (sCode 0x20).scanByte + 4 ≤ (sCode 0x20).len.toNat ∧ 0x20 ≤ (0x20 : Byte).toNat
      ∧ (0x2F : Byte).toNat ≤ 0x2F := by decide

/-- A studio stream with fields at the cursor. -/
def sStudio (l : List (Nat × Nat)) : State :=
  let s := at3 base l
  { s with seq := { s.seq with studioProfile := true } }
/-- The 64 values 1 to 64. -/
def sixtyFour : List Byte := (List.range 64).map (fun k => BitVec.ofNat 8 (k + 1))
/-- 64 bytes of 1 to 64. -/
def sixtyFourFields : List (Nat × Nat) := (List.range 64).map (fun k => (8, k + 1))
/-- An extension unit that loads the intra matrix. -/
def sExtMatrix : State := sStudio ([(5, 7)] ++ sixtyFourFields ++ [(3, 0)])

theorem witness_ExtLoadsMatricesInAStudioStream :
    (base.lenFits = true ∧ base.seq.studioProfile = false)
      ∧ (let s := sStudio [(4, 4)]
        s.lenFits = true ∧ s.seq.studioProfile = true ∧ s.pos + 4 ≤ s.endPos ∧ s.memRead s.pos 4 ≠ 3)
      ∧ (let s := sStudio [(8, 0x30)]
        s.lenFits = true ∧ s.seq.studioProfile = true ∧ s.bitsAre s.pos 8 0x30 = true)
      ∧ ((sCode 0xB8).scanByte + 4 ≤ (sCode 0xB8).len.toNat ∧ (sCode 0xB8).seq.studioProfile = false) := by decide
set_option maxRecDepth 20000 in
theorem witness_ExtLoadsMatricesInAStudioStream_matrix :
    let s := sExtMatrix
    s.lenFits = true ∧ s.seq.studioProfile = true ∧ sixtyFour.length = 64 ∧ s.bitsAre s.pos 5 7 = true
      ∧ (∀ k, k < 64 → s.memRead (s.pos + 5 + 8 * k) 8 = (sixtyFour.getD k 0).toNat)
      ∧ s.bitsAre (s.pos + 517) 3 0 = true := by decide

/-- Bytes before the first start code. -/
def sScan : State := holding base 1 [(8, 0x12), (8, 0), (8, 0), (8, 0), (8, 1), (8, 0xB6), (8, 0x40)]
/-- No start code with its suffix. -/
def sScanEnd : State := holding base 1 [(8, 0x12), (8, 0x34), (8, 0), (8, 0), (8, 1)]

theorem witness_ScanFindsTheFirstStartCode :
    (sScan.lenFits = true ∧ sScan.scanByte ≤ 2 ∧ 2 + 4 ≤ sScan.len.toNat ∧ sScan.prefixAt 2 = true
        ∧ ∀ q, q < 2 → sScan.scanByte ≤ q → sScan.prefixAt q = false)
      ∧ (sScanEnd.lenFits = true
        ∧ ∀ p, p < 6 → sScanEnd.scanByte ≤ p → p + 4 ≤ sScanEnd.len.toNat → sScanEnd.prefixAt p = false) := by decide
theorem witness_VosTellsAStudioStream :
    (let s := at3 base [(8, 0x08)];
      s.lenFits = true ∧ s.cfg.layout = Config.layout ∧ s.pos + 8 ≤ s.endPos)
      ∧ (let s := at3 base [(5, 31)]
      s.lenFits = true ∧ s.cfg.layout = Config.layout ∧ s.endPos < s.pos + 8) := by decide

/-- A VO header with every optional field. -/
def sVo : State := at3 base [(1, 1), (4, 5), (3, 2), (4, 1), (1, 1), (4, 3), (1, 1), (24, 7)]

theorem witness_VoConsumesItsFields :
    let s := sVo
    let a := s.pos + (if s.bitAt s.pos = 1 then 8 else 1)
    let video := s.memRead a 4 = 1 ∨ s.memRead a 4 = 2
    let stop := a + 4 + (if video then (if s.bitAt (a + 4) = 1 then (if s.bitAt (a + 9) = 1 then 30 else 6) else 1)
      else 0)
    s.lenFits = true ∧ s.cfg.layout = Config.layout ∧ stop ≤ s.endPos ∧ stop = s.pos + 42 := by decide

/-- A GOP header with marker `m`. -/
def sGop (m : Nat) (strict : Bool) : State :=
  let s := at3 base [(11, 9), (1, m), (8, 200)]
  { s with ctrl := { s.ctrl with strict := strict } }

theorem witness_GopConsumesTwentyBits :
    (let s := sGop 1 true;
      s.lenFits = true ∧ s.cfg.layout = Config.layout ∧ s.pos + 20 ≤ s.endPos ∧ s.bitAt (s.pos + 11) = 1)
      ∧ (let s := sGop 0 false
      s.lenFits = true ∧ s.cfg.layout = Config.layout ∧ s.pos + 20 ≤ s.endPos ∧ s.bitAt (s.pos + 11) = 0
        ∧ s.ctrl.strict = false)
      ∧ (let s := sGop 0 true
      s.lenFits = true ∧ s.cfg.layout = Config.layout ∧ s.pos + 20 ≤ s.endPos ∧ s.bitAt (s.pos + 11) = 0
        ∧ s.ctrl.strict = true) := by decide

/-- Three bytes of text before a start code. -/
def sText : State := holding base 3 [(8, 1), (8, 0x41), (8, 0), (8, 0x42), (24, 1), (8, 0xB6)]

theorem witness_UserdataCopiesTheText :
    let s := sText
    s.lenFits = true ∧ Cells.wf 0 s.seq.userData = true ∧ s.scanByte + 3 ≤ s.len.toNat
      ∧ (∀ q, q < s.scanByte + 3 → s.scanByte ≤ q → s.prefixAt q = false)
      ∧ (s.prefixAt (s.scanByte + 3) = true ∨ s.scanByte + 3 = s.len.toNat) := by decide

/-- A VOL header of a 48x16 rectangular layer in the shortest form. -/
def sVol : State :=
  at3 base [(9, 3), (1, 0), (4, 1), (3, 0), (1, 1), (16, 30), (3, 5), (13, 48), (1, 1), (13, 16), (1, 1), (1, 1),
    (1, 0), (4, 1), (1, 0), (2, 0)]

theorem witness_VolWritesAndValidatesSeq :
    let s := sVol
    let p := s.pos
    s.lenFits = true ∧ s.cfg.layout = Config.layout ∧ p + 74 ≤ s.endPos ∧ s.memRead (p + 10) 4 ≠ 15
      ∧ s.memRead (p + 18) 16 ≠ 0
      ∧ s.memRead (p + 37) 13 ≠ 0 ∧ s.memRead (p + 51) 13 ≠ 0 ∧ s.bitAt (p + 9) = 0 ∧ s.memRead (p + 14) 3 = 0
      ∧ s.bitAt (p + 17) = 1 ∧ s.memRead (p + 34) 3 = 5 ∧ s.bitAt (p + 50) = 1 ∧ s.bitAt (p + 64) = 1
      ∧ s.memRead (p + 67) 4 = 1 ∧ s.memRead (p + 72) 2 = 0 := by decide
theorem witness_VolIsValidOnlyAfterOk : (Instr.vol = .vol ∨ Instr.vol = .volStudio) ∧ ∃ t, exec .vol sVol = .next t :=
  ⟨Or.inl rfl, _, rfl⟩

/-- A studio VOL header of a 48x16 layer. -/
def sVolStudio (shape : Nat) : State :=
  at3 base [(13, 1), (2, shape), (4, 0), (1, 1), (1, 0), (2, 2), (4, 9), (1, 1), (14, 48), (1, 1), (14, 16), (1, 1),
    (4, 1), (4, 0), (15, 0), (1, 1), (15, 0), (1, 1), (15, 0), (1, 1), (3, 0), (11, 0), (1, 1), (15, 0), (1, 1),
    (1, 1), (1, 0)]

theorem witness_VolStudioWritesAndValidatesSeq :
    (let s := sVolStudio 0;
      let p := s.pos
      s.lenFits = true ∧ s.cfg.layout = Config.layout ∧ p + 147 ≤ s.endPos ∧ s.memRead (p + 13) 2 = 0
        ∧ 2 ≤ s.memRead (p + 21) 2
        ∧ ¬(s.bitAt (p + 20) = 1 ∧ s.memRead (p + 21) 2 = 2) ∧ s.memRead (p + 28) 14 ≠ 0 ∧ s.memRead (p + 43) 14 ≠ 0
        ∧ s.memRead (p + 58) 4 ≠ 15 ∧ s.bitAt (p + 27) = 1 ∧ s.bitAt (p + 42) = 1 ∧ s.bitAt (p + 57) = 1
        ∧ s.bitAt (p + 81) = 1 ∧ s.bitAt (p + 97) = 1 ∧ s.bitAt (p + 113) = 1 ∧ s.bitAt (p + 128) = 1
        ∧ s.bitAt (p + 144) = 1)
      ∧ (let s := sVolStudio 2
      s.pos + 20 ≤ s.endPos ∧ s.memRead (s.pos + 13) 2 ≠ 0) := by decide

/-- Two matrix values and what follows them. -/
def sMatrix (l : List (Nat × Nat)) : State := at3 base ([(8, 5), (8, 3)] ++ l)

theorem witness_LoadQmatrixReplicatesTheLast :
    (let s := sMatrix [(8, 0)];
      s.lenFits = true ∧ s.pos + 8 * 2 ≤ s.endPos
        ∧ (∀ k, k < 2 → s.memRead (s.pos + 8 * k) 8 = (([5, 3] : List Byte).getD k 0).toNat
          ∧ ([5, 3] : List Byte).getD k 0 ≠ 0)
        ∧ s.bitsAre (s.pos + 8 * 2) 8 0 = true)
      ∧ (let s := sMatrix []
      s.pos + 8 * 2 ≤ s.endPos
        ∧ (∀ k, k < 2 → s.memRead (s.pos + 8 * k) 8 = (([5, 3] : List Byte).getD k 0).toNat
          ∧ ([5, 3] : List Byte).getD k 0 ≠ 0)
        ∧ s.endPos < s.pos + 8 * 2 + 8) := by decide
set_option maxRecDepth 20000 in
theorem witness_LoadQmatrixReplicatesTheLast_full :
    let s := at3 base sixtyFourFields
    s.lenFits = true ∧ sixtyFour.length = 64 ∧ s.pos + 8 * 64 ≤ s.endPos
      ∧ ∀ k, k < 64 → s.memRead (s.pos + 8 * k) 8 = (sixtyFour.getD k 0).toNat ∧ sixtyFour.getD k 0 ≠ 0 := by decide
theorem witness_CplxEstCountsOrRewinds :
    (at3 base [(1, 1)]).lenFits = true ∧ base.cfg.layout = Config.layout ∧ (at3 base [(1, 1)]).bitsAre 3 1 1 = true
      ∧ (at3 base [(5, 2), (4, 13), (4, 15)]).bitsAre 3 5 2 = true
      ∧ (at3 base [(5, 2), (4, 13), (4, 15)]).bitsAre 12 4 0xF = true
      ∧ (at3 base [(2, 0), (1, 1), (3, 6)]).bitsAre 3 2 0 = true
      ∧ (at3 base [(2, 0), (1, 1), (3, 6)]).bitsAre 6 3 6 = true
      ∧ (at3 base [(3, 3)]).bitsAre 3 2 1 = true ∧ 3 + 3 ≤ (at3 base [(3, 3)]).endPos := by decide
theorem witness_HeaderLeavesThePictureAlone : ∃ t, exec .vos (at3 base [(5, 31)]) = .next t := ⟨_, rfl⟩

/-- `k` ones and what follows them, at the cursor. -/
def sOnes (k : Nat) (l : List (Nat × Nat)) (strict : Bool) : State :=
  let s := at3 base (List.replicate k (1, 1) ++ l)
  { s with ctrl := { s.ctrl with strict := strict } }

theorem witness_TimeIncrCountsOnes :
    (let s := sOnes 2 [(2, 1)] false;
      s.lenFits = true ∧ s.cfg.layout.timeIncr = Config.timeIncrRows ∧ 2 < 65536 ∧ s.pos + 2 ≤ s.endPos ∧ (∀ j, j < 2 → s.bitAt (s.pos + j) = 1)
        ∧ s.bitsAre (s.pos + 2) 2 1 = true)
      ∧ (let s := sOnes 0 [(2, 0)] false
      s.lenFits = true ∧ s.pos + 0 ≤ s.endPos ∧ s.bitsAre (s.pos + 0) 2 0 = true ∧ s.ctrl.strict = false)
      ∧ (let s := sOnes 0 [(2, 0)] true
      s.lenFits = true ∧ s.bitsAre (s.pos + 0) 2 0 = true ∧ s.ctrl.strict = true)
      ∧ (let s := sOnes 5 [] false
      s.lenFits = true ∧ (∀ j, j < 5 → s.bitAt (s.pos + j) = 1) ∧ s.pos + 5 = s.endPos) := by decide
theorem witness_TiHealTakesTheFirstWidth :
    let s := at3 base [(3, 5), (5, 0x18)]
    let fits (k : Nat) : Prop := s.memRead s.pos (k + 5) &&& 0x1F = 0x18
    s.pic.pictType = .i ∧ 1 ≤ 3 ∧ ¬fits 1 ∧ ¬fits 2 ∧ 3 < 16 ∧ fits 3 := by decide
theorem witness_TiHealTakesTheFirstWidth_none :
    let s := at3 base []
    ∀ k, k < 16 → 1 ≤ k → ¬(s.memRead s.pos (k + 5) &&& 0x1F = 0x18) := by decide

/-- The header of a coded I picture. -/
def sVopI : State :=
  let s := at3 base [(2, 0), (1, 0), (1, 1), (5, 12), (1, 1), (1, 1), (3, 2), (5, 9)]
  { s with ctrl := { s.ctrl with quirk := 0 } }
/-- The header of a P picture that is not coded. -/
def sVopP : State := at3 base [(2, 1), (1, 0), (1, 1), (5, 12), (2, 2)]
/-- The header of a B picture at the time of its future reference. -/
def sVopB : State := at3 base [(2, 2), (1, 0), (1, 1), (5, 30), (1, 1)]

theorem witness_VopStartsAnIntraPicture :
    let s := sVopI
    let p := s.pos
    let n := s.seq.timeIncrementBits.toNat
    s.lenFits = true ∧ s.cfg.layout = Config.layout ∧ s.seq.valid = true ∧ s.seq.width ≠ 0 ∧ s.seq.height ≠ 0
      ∧ s.seq.newPred = false ∧ s.seq.shape = 0
      ∧ s.seq.trashI = 0 ∧ s.seq.interlaced = false ∧ s.seq.scalability = false ∧ s.quirk .is3iv1 = false
      ∧ s.quirk .ump4 = false ∧ 1 ≤ n ∧ n ≤ 16 ∧ s.seq.quantPrecision.toNat ≤ 9 ∧ s.bitsAre p 4 1 = true
      ∧ s.bitsAre (p + 4 + n) 2 3 = true ∧ p + 9 + n + s.seq.quantPrecision.toNat ≤ s.endPos
      ∧ s.memRead (p + 9 + n) s.seq.quantPrecision.toNat ≠ 0 := by decide
/-- 95_test_vectors.md P5, variant: a B picture at 10 where TIME is as a lone non-B picture at 30 leaves it. -/
theorem test_vop_bTimes :
    onNext (exec .vop { at3 base [(2, 2), (1, 0), (1, 1), (5, 10), (1, 1), (1, 1)] with time := ⟨1, 0, 30, 30, 0⟩ })
      (fun t => t.status.result != .frameSkipped && t.pic.pbTime == 10 && t.time.tFrame == 10
        && t.pic.ppFieldTime == 6 && t.pic.pbFieldTime == 2) = true := by decide
/-- 60_exceptions.md R384: a header cut short in its last field, the scalability tail, leaves the stores and SLICE. -/
theorem test_vop_truncatedTail :
    onNext (exec .vop { sVopI with seq := { sVopI.seq with scalability := true } })
      (fun t => t.status.result == .fatalTruncated && t.stores == { sVopI.stores with rowprog := 2 }
        && t.slice == sVopI.slice) = true := by decide
theorem witness_VopSkipsTheFrame :
    (let s := sVopP;
      s.lenFits = true ∧ s.cfg.layout = Config.layout ∧ s.seq.valid = true ∧ s.seq.width ≠ 0 ∧ s.seq.height ≠ 0
        ∧ s.quirk .is3iv1 = false
        ∧ s.bitsAre (s.pos + 2) 2 1 = true ∧ s.memRead s.pos 2 ≠ 2 ∧ s.bitsAre (s.pos + 4 + 5) 2 2 = true)
      ∧ (let s := sVopB
      let pp := s.time.ppTime.toInt
      let pb := pp - (s.time.lastNonBTime.toInt
        - (s.time.lastTimeBase.toInt * s.seq.timeIncrementResolution.toNat + s.memRead (s.pos + 4) 5))
      s.lenFits = true ∧ s.cfg.layout = Config.layout ∧ s.bitsAre (s.pos + 2) 2 1 = true ∧ s.memRead s.pos 2 = 2
        ∧ s.bitsAre (s.pos + 4 + 5) 1 1 = true ∧ pb < 2147483648 ∧ -2147483648 ≤ pb ∧ pp ≤ pb) := by decide
theorem witness_VopWithoutVolIsFatal : (sIdle.updSeq (fun q => { q with width := 0 })).seq.width = 0 := by decide
theorem witness_VopLeavesTheRestAlone : (∃ t, exec .vop sVopI = .next t) ∧ sVopI.cfg.layout = Config.layout :=
  ⟨⟨_, rfl⟩, by decide⟩

/-- A layer with one warping point. -/
def sSprite (l : List (Nat × Nat)) : State :=
  let s := at3 base l
  { s with seq := { s.seq with numSpriteWarpingPoints := 1 } }

theorem witness_SpriteTrajReadsOnePoint :
    (base.lenFits = true ∧ base.cfg.layout.traj = Config.trajItems ∧ base.seq.numSpriteWarpingPoints = 0)
      ∧ (let s := sSprite [(3, 6), (3, 5), (1, 1), (2, 1), (1, 0), (1, 1)]
      s.lenFits = true ∧ s.seq.numSpriteWarpingPoints = 1 ∧ s.divx413 = false
        ∧ s.readsNumbers [(.spriteTraj, 3)] s.pos = some 6 ∧ s.bitsAre (6 + 3) 1 1 = true
        ∧ s.readsNumbers [(.spriteTraj, 1)] (6 + 3 + 1) = some 12 ∧ s.bitsAre (12 + 1) 1 1 = true)
      ∧ (let s := sSprite [(3, 7)]
      s.lenFits = true ∧ s.seq.numSpriteWarpingPoints = 1 ∧ s.readsInvalid .spriteTraj = true) := by decide
/-- A layer of `n` warping points with the trajectory `v`. -/
def sWarp (n : BitVec 3) (v : Quad (Vec 16)) : State :=
  { base with seq := { base.seq with numSpriteWarpingPoints := n }, pic := { base.pic with spriteTraj := v } }

theorem witness_GmcResolveLeavesATranslation :
    (base.cfg.intBits = 32 ∧ base.seq.width ≠ 0 ∧ base.seq.height ≠ 0 ∧ base.seq.numSpriteWarpingPoints = 0
        ∧ base.cfg.gmcVirtual = .standard ∧ base.cfg.gmcCase2 = .standard ∧ base.cfg.gmcCase3 = .standard)
      ∧ (sSprite []).seq.numSpriteWarpingPoints = 1
      ∧ ((base.seq.width.toNat : Int) ≤ 2 ^ 5 ∧ (2 : Int) ^ (5 - 1) < base.seq.width.toNat
        ∧ (base.seq.height.toNat : Int) ≤ 2 ^ 5 ∧ (2 : Int) ^ (5 - 1) < base.seq.height.toNat)
      ∧ (base.updSeq (fun q => { q with width := 0 })).seq.width = 0 := by decide
/-- Two points: still, moving by a little, and by too much; three points: still. -/
theorem witness_GmcResolveLeavesATranslation_warp :
    (let s := sWarp 2 (Quad.all ⟨0, 0⟩);
      s.seq.numSpriteWarpingPoints = 2 ∧ s.rawWarp.isPureScaling s.gmcFactor = true)
      ∧ (let s := sWarp 2 ⟨⟨0, 0⟩, ⟨5, 1⟩, ⟨0, 0⟩, ⟨0, 0⟩⟩
      s.seq.numSpriteWarpingPoints = 2 ∧ s.rawWarp.isPureScaling s.gmcFactor = false
        ∧ s.rawWarp.overflowsBefore 2147483647 = false
        ∧ s.rawWarp.normalise.overflowsAfter 2147483647 s.gmcFactor 32 32 = false)
      ∧ (let s := sWarp 2 ⟨⟨0, 0⟩, ⟨30000, 1⟩, ⟨0, 0⟩, ⟨0, 0⟩⟩
      s.rawWarp.isPureScaling s.gmcFactor = false ∧ (s.rawWarp.overflowsBefore 2147483647 = true
        ∨ s.rawWarp.normalise.overflowsAfter 2147483647 s.gmcFactor 32 32 = true))
      ∧ (let s := sWarp 3 (Quad.all ⟨0, 0⟩)
      s.seq.numSpriteWarpingPoints = 3 ∧ s.rawWarp.isPureScaling s.gmcFactor = true) := by decide
theorem witness_DquantStepsTheQuantiser :
    (let s := at3 base [(2, 1)];
      s.lenFits = true ∧ 3 ≤ s.seq.quantPrecision.toNat ∧ s.seq.quantPrecision.toNat ≤ 9 ∧ s.pos + 2 ≤ s.endPos)
      ∧ (let s := holding base 7 [(8, 1)]
      s.lenFits = true ∧ s.endPos < s.pos + 2) := by decide
theorem witness_MvdAddsAndWraps :
    (let s := at3 base [(1, 1)];
      s.lenFits = true ∧ s.readsNumbers [(.mv, 0)] s.pos = some 4)
      ∧ (let s := at3 base [(4, 1), (1, 1), (6, 63)]
      s.lenFits = true ∧ s.readsNumbers [(.mv, 3)] s.pos = some 7 ∧ 7 + 7 ≤ s.endPos)
      ∧ (let s := at3 base [(5, 0)]
      s.lenFits = true ∧ s.readsInvalid .mv = true) := by decide

/-- An I macroblock with no coded block, every DC among the coefficients. -/
def sMbI : State :=
  at3 { base with pic := { base.pic with pictType := .i, intraDcThreshold := 0 } } [(1, 1), (1, 1), (2, 1)]

theorem witness_IntraMacroblockCompletes :
    let s := sMbI
    s.lenFits = true ∧ s.fitsStores = true ∧ s.stores.wf = true ∧ s.ctrl.strict = false ∧ s.pic.pictType = .i
      ∧ s.seq.interlaced = false ∧ s.pic.intraDcThreshold = 0 ∧ s.slice.mbValid.toNat + 1 < 1048576
      ∧ s.mbi + 1 < 1048576 ∧ s.readsNumbers [(.intraMcbpc, 0)] s.pos = some 4 ∧ 4 + 1 ≤ s.endPos
      ∧ s.readsNumbers [(.cbpy, 0)] (4 + 1) = some 7 := by decide

/-- A macroblock of a P or S picture. -/
def sMbP (t : PictType) (l : List (Nat × Nat)) : State :=
  at3 { base with pic := { base.pic with pictType := t }, seq := { base.seq with spriteUsage := 2 } } l

theorem witness_SkippedMacroblockMoves :
    (let s := sMbP .s [(1, 1)];
      s.lenFits = true ∧ s.fitsStores = true ∧ s.pic.pictType = .s ∧ s.slice.mbValid.toNat + 1 < 1048576
        ∧ s.mbi + 1 < 1048576 ∧ s.bitsAre s.pos 1 1 = true)
      ∧ (let s := sMbP .p [(1, 0), (1, 1), (2, 3), (1, 1), (1, 1)]
      s.pic.pictType = .p ∧ s.seq.interlaced = false ∧ s.bitsAre s.pos 1 0 = true
        ∧ s.readsNumbers [(.interMcbpc, 0), (.cbpy, 15), (.mv, 0), (.mv, 0)] (s.pos + 1) = some 9) := by decide

/-- A macroblock of a B picture at column `x` of row 0, ROWPROG of its reference at `rows`. -/
def sMbB (x : BitVec 10) (rows : Nat) : State :=
  let s := at3 { base with pic := { base.pic with pictType := .b } } [(1, 1)]
  { s with slice := { s.slice with mbX := x }, coloc := { s.coloc with rowprog := rows } }
/-- The same with a skipped co-located macroblock. -/
def sMbBSkip : State :=
  let s := sMbB 1 2
  { s with coloc := { s.coloc with mbtype := [(1, { MbType.zero with skipped := true })] } }

theorem witness_MbBWaitsSkipsOrMovesDirectly :
    (let s := sMbB 0 0;
      s.lenFits = true ∧ s.fitsStores = true ∧ s.pic.pictType = .b ∧ s.slice.mbValid.toNat + 1 < 1048576
        ∧ s.mbi + 1 < 1048576 ∧ s.slice.mbX = 0 ∧ s.coloc.rowprog < s.slice.mbY.toNat + 1)
      ∧ ({ sMbB 0 0 with fsm := .waitRow } : State).fsm = .waitRow
      ∧ (let s := sMbBSkip
      s.pic.pictType = .b ∧ s.slice.mbX ≠ 0 ∧ s.mbi < s.mbTotal ∧ s.mbi / s.mbW + 1 ≤ s.coloc.rowprog
        ∧ (s.colocType s.mbi).skipped = true)
      ∧ (let s := sMbB 1 1
      s.slice.mbX ≠ 0 ∧ (s.colocType s.mbi).skipped = false ∧ (s.colocType s.mbi).mvType = .mv16x16
        ∧ s.bitsAre s.pos 1 1 = true ∧ s.pic.ppTime ≠ 0) := by decide
/-- 90_conflicts.md C11: inside a row MB_B does not wait, whatever the row's publication. -/
theorem test_mbB_inside_a_row : onNext (exec .mbB (sMbB 0 0)) (fun t => t.fsm == .waitRow)
    && (sMbB 0 0).rowMissing && !(sMbB 1 0).rowMissing = true := by decide
/-- A macroblock of a B picture, column 1 of row 0, after modb 01. -/
def sMbBMode (interlaced : Bool) (l : List (Nat × Nat)) : State :=
  let s := at3 { base with pic := { base.pic with pictType := .b } } ((2, 1) :: l)
  { s with seq := { s.seq with interlaced := interlaced } }

theorem witness_MbBWaitsSkipsOrMovesDirectly_direct :
    let s := sMbBMode false [(1, 1), (1, 1), (2, 1), (1, 1)]
    s.lenFits = true ∧ s.fitsStores = true ∧ s.pic.pictType = .b ∧ s.slice.mbX ≠ 0
      ∧ (s.colocType s.mbi).skipped = false ∧ s.bitsAre s.pos 2 1 = true
      ∧ s.readsRow .mbTypeB (s.pos + 2) ⟨1, 1, .btype .direct⟩ = true
      ∧ s.readsMv ⟨0, 0⟩ 1 (s.pos + 2 + 1) = some (⟨0, -1⟩, 10) ∧ s.pic.ppTime.toInt ≠ 0 := by decide
theorem witness_MbBWaitsSkipsOrMovesDirectly_explicit :
    let s := sMbBMode true [(2, 1), (1, 0), (1, 1), (1, 1), (1, 1), (1, 1)]
    s.lenFits = true ∧ s.pic.fCode ≠ 0 ∧ s.pic.bCode ≠ 0 ∧ s.bitsAre s.pos 2 1 = true ∧ s.seq.interlaced = true
      ∧ s.readsRow .mbTypeB (s.pos + 2) ⟨2, 1, .btype .interpolate⟩ = true
      ∧ s.bitsAre (s.pos + 2 + 2) 1 0 = true
      ∧ s.readsMv ⟨1, 2⟩ 2 (s.pos + 2 + 2 + 1) = some (⟨1, 2⟩, 10) ∧ s.readsMv ⟨5, 6⟩ 3 10 = some (⟨5, 6⟩, 12) := by
  decide
theorem witness_MbBWaitsSkipsOrMovesDirectly_field :
    let s := sMbBMode true [(2, 1), (1, 1), (2, 1), (2, 2), (8, 255)]
    s.lenFits = true ∧ s.pic.fCode ≠ 0 ∧ s.pic.bCode ≠ 0 ∧ s.bitsAre s.pos 2 1 = true ∧ s.seq.interlaced = true
      ∧ s.readsRow .mbTypeB (s.pos + 2) ⟨2, 1, .btype .interpolate⟩ = true
      ∧ s.bitsAre (s.pos + 2 + 2) 1 1 = true ∧ 12 ≤ s.endPos
      ∧ s.readsMv ⟨1, 1⟩ 2 12 = some (⟨1, 1⟩, 14) ∧ s.readsMv ⟨3, 2⟩ 2 14 = some (⟨3, 2⟩, 16)
      ∧ s.readsMv ⟨5, 3⟩ 3 16 = some (⟨5, 3⟩, 18) ∧ s.readsMv ⟨7, 4⟩ 3 18 = some (⟨7, 4⟩, 20) := by decide
theorem witness_MbBWaitsSkipsOrMovesDirectly_coded :
    let s : State := at3 { base with pic := { base.pic with pictType := .b } }
      [(2, 0), (4, 1), (6, 1), (1, 1), (1, 0), (1, 1), (1, 1), (5, 2), (1, 1)]
    s.lenFits = true ∧ s.seq.interlaced = false ∧ (s.seq.rvlc && s.pic.partitionedFrame) = false
      ∧ 3 ≤ s.seq.quantPrecision.toNat ∧ s.seq.quantPrecision.toNat ≤ 9 ∧ s.bitsAre s.pos 2 0 = true
      ∧ s.readsRow .mbTypeB (s.pos + 2) ⟨4, 1, .btype .forward⟩ = true ∧ s.bitsAre (s.pos + 6) 7 3 = true
      ∧ s.readsMv ⟨1, 2⟩ 2 (s.pos + 14) = some (⟨1, 2⟩, 19)
      ∧ s.readsRow .rlInter 19 ⟨5, 2, .rl true 40 1⟩ = true ∧ 19 + 5 + 1 ≤ s.endPos := by decide
theorem witness_StudioMacroblockIsRefused : (sStudio []).fsm = .mb ∧ (sStudio []).seq.studioProfile = true := by decide
theorem witness_MacroblockWritesItsOwnSlots : sMbI.stores.wf = true
  ∧ ∃ t, exec .mbI sMbI = .next t := ⟨by decide, _, rfl⟩

/-- A raw coefficient with the markers `a` and `b`. -/
def sRaw (a b : Nat) (strict : Bool) (quirk : BitVec 32) : State :=
  let s := at3 base [(1, 1), (6, 3), (1, a), (12, 0xFFD), (1, b)]
  { s with ctrl := { s.ctrl with strict := strict, quirk := quirk } }

theorem witness_DirectAndRawCoefficients :
    (at3 base [(1, 1)]).lenFits = true ∧ 1 ≤ 5 ∧ 3 + 1 ≤ (at3 base [(1, 1)]).endPos
      ∧ ((sRaw 1 1 true 0x400).quirk .is3iv1 = true ∧ 3 + 19 ≤ (sRaw 1 1 true 0x400).endPos)
      ∧ ((sRaw 0 1 false 0).quirk .is3iv1 = false ∧ 3 + 21 ≤ (sRaw 0 1 false 0).endPos
        ∧ (sRaw 0 1 false 0).ctrl.strict = false)
      ∧ ((sRaw 1 0 true 0).quirk .is3iv1 = false ∧ 3 + 21 ≤ (sRaw 1 0 true 0).endPos
        ∧ (sRaw 1 0 true 0).ctrl.strict = true ∧ (sRaw 1 0 true 0).bitAt (3 + 20) = 0) := by decide
theorem witness_EscapesWidenLevelAndRun :
    (let s := at3 base [(4, 7), (1, 1)];
      s.lenFits = true ∧ s.readsRow (vlcOf .inter) s.pos ⟨4, 7, .rl true 0 1⟩ = true ∧ s.pos + 4 + 1 ≤ s.endPos)
      ∧ (let s := at3 base [(7, 3)]
      s.lenFits = true ∧ s.readsRow (vlcOf .intra) s.pos ⟨7, 3, .escape⟩ = true)
      ∧ (at3 base [(9, 0)]).readsInvalid (vlcOf .intra) = true := by decide
theorem witness_BlockInterStoresDequantised :
    (let s := at3 base [(5, 2), (1, 1)];
      s.lenFits = true ∧ (s.seq.rvlc && s.pic.partitionedFrame) = false
        ∧ s.readsRow .rlInter s.pos ⟨5, 2, .rl true 40 1⟩ = true ∧ 40 ≤ 63 ∧ s.pos + 5 + 1 ≤ s.endPos)
      ∧ (let s := at3 base [(5, 1), (1, 0), (5, 2), (1, 1)]
      s.lenFits = true ∧ (s.seq.rvlc && s.pic.partitionedFrame) = false
        ∧ s.readsRow .rlInter s.pos ⟨5, 1, .rl false 40 1⟩ = true
        ∧ s.readsRow .rlInter (s.pos + 5 + 1) ⟨5, 2, .rl true 40 1⟩ = true ∧ 63 < 40 + 40 + 1
        ∧ s.pos + 5 + 1 + 5 + 1 ≤ s.endPos)
      ∧ (let s := at3 base [(5, 0), (8, 0)]
      s.lenFits = true ∧ (s.seq.rvlc && s.pic.partitionedFrame) = false ∧ s.readsInvalid .rlInter = true) := by decide

/-- A reversible partition, the inter run-level rows in its table. -/
def sRvlc (l : List (Nat × Nat)) : State :=
  let s := at3 base l
  { s with
    cfg := { s.cfg with vlc := { s.cfg.vlc with rlRvlcInter := rlRows } }
    seq := { s.seq with rvlc := true }, pic := { s.pic with partitionedFrame := true } }

theorem witness_BlockInterStoresDequantised_reversible :
    (let s := sRvlc [(7, 3), (1, 1), (1, 1), (6, 20), (1, 1), (11, 77), (5, 16), (1, 1)];
      s.lenFits = true ∧ (s.seq.rvlc && s.pic.partitionedFrame) = true
        ∧ s.readsRow .rlRvlcInter s.pos ⟨7, 3, .escape⟩ = true ∧ 10 + 26 ≤ s.endPos ∧ s.bitAt 10 = 1 ∧ s.bitAt 18 = 1
        ∧ s.memRead 30 5 = 16 ∧ s.bitAt 11 = 1)
      ∧ (sRvlc [(7, 3), (1, 1), (1, 1), (6, 20), (1, 1), (11, 77), (5, 17), (1, 1)]).memRead 30 5 ≠ 16 := by decide

/-- A block with its DC early or late, in a partitioned frame or not. -/
def sBlock (early partitioned : Bool) (l : List (Nat × Nat)) : State :=
  let s := at3 base l
  { s with eng := { s.eng with useIntraDcVlc := early }, pic := { s.pic with partitionedFrame := partitioned } }

theorem witness_UncodedIntraBlockIsPredicted :
    (let s := sBlock false false [];
      s.lenFits = true ∧ s.fitsStores = true ∧ s.mb.acPred = false ∧ s.ctrl.strict = false
        ∧ s.eng.useIntraDcVlc = false)
      ∧ (let s := sBlock true false [(3, 3)]
      s.lenFits = true ∧ s.eng.useIntraDcVlc = true ∧ s.pic.partitionedFrame = false
        ∧ s.readsNumbers [(.dcLum, 0)] s.pos = some 6)
      ∧ (let s := sBlock true true []
      s.lenFits = true ∧ s.eng.useIntraDcVlc = true ∧ s.pic.partitionedFrame = true)
      ∧ (let s := sBlock true false [(2, 2), (2, 1)]
      s.eng.useIntraDcVlc = true ∧ s.pic.partitionedFrame = false
        ∧ s.readsNumbers [(.dcLum, 2)] s.pos = some 5 ∧ 5 + 2 ≤ s.endPos) := by decide
theorem witness_PredDcPredictsAndStores :
    (base.fitsStores = true ∧ base.cfg.dcScale = .standard ∧ 1 ≤ base.pic.qscale.toNat ∧ base.pic.qscale.toNat ≤ 31
      ∧ base.ctrl.strict = false)
      ∧ (let s : State := { base with ctrl := { base.ctrl with strict := true } }
      s.fitsStores = true ∧ s.ctrl.strict = true
        ∧ ¬(0 ≤ (-2000 : Int) + s.dcPredictor 0 ∧ (-2000 : Int) + s.dcPredictor 0 ≤ 2048 + (s.scaleOf 0 : Int))) := by
  decide
theorem witness_SentinelAtSliceStart :
    (let s : State := { base with slice := { base.slice with resyncMbX := 1 } };
      s.fitsStores = true ∧ s.ctrl.strict = false ∧ s.slice.mbX = s.slice.resyncMbX ∧ s.slice.firstSliceLine = true)
      ∧ (let s : State := { base with slice := { base.slice with resyncMbX := 1, mbY := 1, firstSliceLine := false } }
      s.slice.mbX = s.slice.resyncMbX ∧ s.slice.mbY.toNat = s.slice.resyncMbY.toNat + 1) := by decide

/-- A block with AC prediction, its neighbour of another quantiser. -/
def sAc : State := { base with mb := { base.mb with acPred := true, predDir := Six.all false } }

set_option maxRecDepth 20000 in
theorem witness_PredAcAddsAndStores :
    let s := sAc
    s.fitsStores = true ∧ s.stores.wf = true ∧ s.mb.wf = true ∧ s.cfg.idctPerm = List.range 64
      ∧ ∀ k, k < 8 → 1 ≤ k → -32768 ≤ s.coefAt 0 (8 * k) + s.acPrediction 0 false k
        ∧ s.coefAt 0 (8 * k) + s.acPrediction 0 false k ≤ 32767 := by decide

/-- A macroblock just decoded, with `l` at bit `p` of BS and the given quirks. -/
def sPeek (p : Nat) (quirk : BitVec 32) (markers : Bool) (l : List (Nat × Nat)) : State :=
  let s := holding base p l
  { s with ctrl := { s.ctrl with quirk := quirk }, seq := { s.seq with resyncMarker := markers } }

theorem witness_PeekTellsTheSliceEnd :
    (let s := sPeek 3 4 false [(8, 9)];
      s.lenFits = true ∧ s.cfg.resync = Config.resync ∧ s.slice.mbX.toNat + 1 < 1024 ∧ s.slice.mbY.toNat + 1 < 1024
        ∧ ¬(s.quirk .noPadding = false ∨ s.seq.resyncMarker = true))
      ∧ (let s := sPeek 3 0 false [(3, 5), (5, 15)]
      s.lenFits = true ∧ s.cfg.resync = Config.resync ∧ s.quirk .noPadding = false ∧ 1 ≤ s.endPos - s.pos
        ∧ s.endPos - s.pos ≤ 8
        ∧ s.memRead s.pos (s.endPos - s.pos) = 2 ^ (s.endPos - s.pos - 1) - 1)
      ∧ (let s := sPeek 8 4 true [(8, 9)]
      s.lenFits = true ∧ s.cfg.resync = Config.resync ∧ s.seq.resyncMarker = true ∧ s.pos = s.endPos)
      ∧ (let s := sPeek 8 0 true [(8, 9), (24, 0x7F0000)]
      s.lenFits = true ∧ s.cfg.resync = Config.resync ∧ s.pic.pictType = .i ∧ s.ctrl.strict = false ∧ s.pos % 8 = 0
        ∧ s.pos + 24 ≤ s.endPos
        ∧ s.memRead s.pos 24 = 0x7F0000) := by decide
/-- After macroblock 1 of a B picture, a marker of 18 zeros and the number 3; ROWPROG of the reference at `rows`. -/
def sPeekB (rows : Nat) : State :=
  let s := sPeek 8 0 true [(8, 9), (8, 0x7F), (19, 1), (2, 3)]
  { s with pic := { s.pic with pictType := .b }, coloc := { s.coloc with rowprog := rows } }

theorem witness_PeekTellsTheSliceEnd_coloc :
    ∀ rows, rows = 1 ∨ rows = 2 → let s := sPeekB rows
      s.lenFits = true ∧ s.cfg.resync = Config.resync ∧ s.slice.mbX.toNat + 1 < 1024 ∧ s.slice.mbY.toNat + 1 < 1024
        ∧ s.quirk .noPadding = false ∧ s.pic.pictType = .b ∧ s.ctrl.strict = false ∧ s.pos % 8 = 0
        ∧ max (max s.pic.fCode.toNat s.pic.bCode.toNat) 2 + 15 = 18
        ∧ s.bitsAre s.pos (9 + 18) (0x7F * 2 ^ (18 + 1) + 1) = true
        ∧ s.mbi + 1 < s.memRead (s.pos + 9 + 18) (max 1 (bitLength (s.mbTotal - 1))) ∧ s.mbi + 1 < s.mbTotal
        ∧ ((s.mbi + 1) / s.mbW + 1 ≤ s.coloc.rowprog ↔ rows = 2) := by
  rintro rows (rfl | rfl) <;> decide
/-- 45_resync.md R335: the type of the next macroblock, in a published row, decides the answer. -/
theorem test_peek_coloc : (onNext (exec .resyncPeek (sPeekB 2)) (fun t => t.eng.phase == .decide .sliceEnd)
    && onNext (exec .resyncPeek { sPeekB 2 with
      coloc := ⟨[], [((sPeekB 2).mbi + 1, { MbType.zero with skipped := true })], 2⟩ })
      (fun t => t.eng.phase == .decide .ok)) = true := by decide

/-- A packet header of a 32x32 I picture: number 2, quantiser 9. -/
def sPacket (phase : Phase) (l : List (Nat × Nat)) : State :=
  let s := holding base 8 ((8, 9) :: l)
  { s with fsm := .resyncCheck, eng := { s.eng with phase := phase } }

theorem witness_PacketHeaderAccepted :
    let s := sPacket .search [(17, 1), (2, 2), (5, 9), (1, 0)]
    s.lenFits = true ∧ s.cfg.resync = Config.resync ∧ s.seq.shape = 0 ∧ s.seq.newPred = false ∧ s.pic.pictType = .i
      ∧ s.seq.quantPrecision.toNat ≤ 9
      ∧ s.bitsAre s.pos 17 1 = true ∧ max 1 (bitLength (s.mbTotal - 1)) = 2 ∧ s.memRead (s.pos + 17) 2 = 2
      ∧ s.bitsAre (s.pos + 17 + 2 + 5) 1 0 = true ∧ s.pos + 20 ≤ s.endPos ∧ 2 < s.mbTotal ∧ s.slice.nextMbi.toNat ≤ 2
      ∧ s.slice.mbErr.toNat + (2 - s.slice.nextMbi.toNat) < 1048576 := by decide
theorem witness_PacketHeaderRefused :
    (let s := sPacket .header [(8, 0), (8, 0)];
      s.lenFits = true ∧ s.cfg.resync = Config.resync ∧ s.pos + 8 ≤ s.endPos ∧ s.eng.phase ≠ .search
        ∧ s.endPos < s.pos + 20)
      ∧ (let s := sPacket .search [(18, 1), (8, 0)]
      s.lenFits = true ∧ s.cfg.resync = Config.resync ∧ s.pos + 8 ≤ s.endPos ∧ s.eng.phase = .search
        ∧ s.pos + 20 ≤ s.endPos ∧ 17 < 32 ∧ 17 ≠ 16
        ∧ s.bitsAre s.pos (17 + 1) 1 = true) := by decide

/-- The start of a partitioned slice. -/
def sPart (t : PictType) (l : List (Nat × Nat)) : State :=
  let s := at3 base l
  { s with fsm := .partA, pic := { s.pic with pictType := t, partitionedFrame := true } }

theorem witness_FirstPassRecordsAndCounts :
    (let s := sPart .i [(1, 1), (3, 3), (3, 3), (3, 3), (3, 3), (2, 3), (2, 3), (19, 0x6B001)];
      s.lenFits = true ∧ s.cfg.resync = Config.resync ∧ s.fitsStores = true ∧ s.stores.wf = true
        ∧ s.ctrl.strict = false ∧ s.resyncMbi < s.mbTotal
        ∧ s.memRead s.pos 19 ≠ 0x6B001
        ∧ s.readsNumbers [(.intraMcbpc, 0), (.dcLum, 0), (.dcLum, 0), (.dcLum, 0), (.dcLum, 0), (.dcChrom, 0),
          (.dcChrom, 0)] s.pos = some 20
        ∧ s.bitsAre 20 19 0x6B001 = true)
      ∧ (let s := sPart .p [(1, 1), (17, 0x1F001)]
      s.lenFits = true ∧ s.cfg.resync = Config.resync ∧ s.fitsStores = true ∧ s.stores.wf = true
        ∧ s.ctrl.strict = false ∧ s.resyncMbi < s.mbTotal
        ∧ ¬(s.pic.pictType = .s ∧ s.seq.spriteUsage = 2) ∧ s.bitsAre s.pos 1 1 = true
        ∧ s.bitsAre (s.pos + 1) 17 0x1F001 = true) := by decide

/-- The start of the second pass over one record `r`. -/
def sPartB (r : PartRec) (l : List (Nat × Nat)) : State :=
  let s := at3 base l
  { s with fsm := .partB, stores := { s.stores with partmem := [(0, r)] } }

theorem witness_SecondPassCompletesRecords :
    (let s := sPartB { PartRec.zero with intra := true, cbpc := 2 } [(1, 1), (2, 2)];
      s.lenFits = true ∧ s.fitsStores = true ∧ s.slice.mbNumLeft = 1 ∧ s.pos + 1 ≤ s.endPos
        ∧ s.readsNumbers [(.cbpy, 8)] (s.pos + 1) = some 6 ∧ s.stores.wf = true)
      ∧ (let s := sPartB { PartRec.zero with skipped := true } []
      s.lenFits = true ∧ s.fitsStores = true ∧ s.slice.mbNumLeft = 1 ∧ (s.partAt 0).intra = false
        ∧ (s.partAt 0).skipped = true ∧ s.stores.wf = true) := by decide

/-- The replay of a skipped record. -/
def sReplay : State :=
  let s := at3 base []
  { s with
    ctrl := { s.ctrl with quirk := 4 }, seq := { s.seq with resyncMarker := false }
    stores := { s.stores with partmem := [(1, { PartRec.zero with skipped := true, qscale := 5 })] } }

theorem witness_SkippedRecordIsReplayed :
    let s := sReplay
    s.fitsStores = true ∧ s.stores.wf = true ∧ s.pic.pictType = .i ∧ s.quirk .noPadding = true
      ∧ s.seq.resyncMarker = false ∧ s.partHere.skipped = true ∧ s.partHere.intra = false
      ∧ 1 ≤ s.slice.mbNumLeft.toNat ∧ s.slice.mbValid.toNat + 1 < 1048576 ∧ s.mbi + 1 < 1048576 := by decide
theorem witness_SliceStartMarksTheSlice :
    ({ base with fsm := .sliceStart } : State).stores.wf = true ∧ ¬(base.slice.mbX = 0 ∧ base.slice.mbY = 0)
      ∧ (let s : State := { base with fsm := .sliceStart, slice := { base.slice with mbX := 0 } }
      s.fsm = .sliceStart ∧ s.stores.wf = true ∧ s.slice.mbX = 0 ∧ s.slice.mbY = 0) := by decide

/-- RESYNC_CHECK in a phase. -/
def sCheck (p : Phase) (next : BitVec 20) (l : List (Nat × Nat)) : State :=
  let s := at3 base l
  { s with fsm := .resyncCheck, eng := { s.eng with phase := p }, slice := { s.slice with nextMbi := next } }

theorem witness_RecoverySearchesFromTheSliceStart :
    (let s := sCheck .recover 4 [(8, 0)];
      s.fsm = .resyncCheck ∧ s.lenFits = true ∧ s.pos ≤ s.endPos ∧ s.slice.lastResyncPos.toNat ≤ s.endPos
        ∧ s.slice.nextMbi.toNat = s.mbTotal ∧ s.eng.phase = .recover)
      ∧ (sCheck (.decide .ok) 1 [(8, 0)]).slice.nextMbi.toNat ≠ (sCheck (.decide .ok) 1 [(8, 0)]).mbTotal
      ∧ (let s := sCheck (.decide .sliceEnd) 1 [(8, 0)]
      s.pos ≤ s.endPos ∧ s.slice.nextMbi.toNat ≠ s.mbTotal ∧ s.eng.phase = .decide .sliceEnd ∧ s.pos + 1 ≤ s.endPos)
      ∧ (sCheck (.decide .sliceNoend) 1 [(8, 0)]).eng.phase = .decide .sliceNoend
      ∧ (let s := sCheck .recover 1 [(8, 0)]
      s.slice.lastResyncPos.toNat ≤ s.endPos ∧ s.slice.nextMbi.toNat ≠ s.mbTotal ∧ s.eng.phase = .recover)
      ∧ (let s := sCheck .search 1 [(28, 1000000)]
      s.eng.phase = .search ∧ s.pos + 27 < s.endPos ∧ s.memRead s.pos 16 ≠ 0)
      ∧ (let s := sCheck .search 1 [(28, 1)]
      s.eng.phase = .search ∧ s.pos + 27 < s.endPos ∧ s.memRead s.pos 16 = 0)
      ∧ (let s := sCheck .search 1 [(20, 1)]
      s.eng.phase = .search ∧ s.pos ≤ s.endPos ∧ s.endPos ≤ s.pos + 27) := by decide
/-- A raise in a macroblock of a partitioned slice, one record of which is left. -/
def sLost : State := { base with pic := { base.pic with partitionedFrame := true } }

theorem witness_RaiseRecordsAndClassifies :
    (invalid .resyncMbnum).code = .invalidData ∧ sLost.slice.mbErr.toNat + 2 < 1048576 ∧ sLost.mbi + 1 < 1048576 := by
  decide
/-- 45_resync.md R350: the record whose peek fails is counted too, after SLICE.mb_num_left has counted it off. -/
theorem test_lost_records : ((sLost.takeRaise .macroblock (invalid .resyncMbnum)).slice.mbErr.toNat = 4)
    ∧ (sLost.takeRaise .macroblock (invalid .mbPartTexture)).slice.mbErr.toNat = 3 := by decide
theorem witness_AcknowledgeReturnsToIdle :
    ({ base with fsm := .error } : State).ctrl.ack = false
      ∧ (let s : State := { base with fsm := .done, ctrl := { base.ctrl with ack := true } }
      s.fsm = .done ∧ s.ctrl.ack = true) := by decide
theorem witness_CommandsActOnlyInIdle : sIdle.fsm = .idle ∧ base.fsm ≠ .idle := by decide
theorem witness_SetposMovesInsideTheStream :
    (sIdle.fsm = .idle ∧ sIdle.lenFits = true ∧ sIdle.ctrl.pos.toNat ≤ 8 * sIdle.len.toNat)
      ∧ (let s : State := { sIdle with ctrl := { sIdle.ctrl with pos := 17 } }
      s.fsm = .idle ∧ 8 * s.len.toNat < s.ctrl.pos.toNat) := by decide
/-- A text in the buffer. -/
def sSigned (text : List Byte) : State :=
  { base with seq := { base.seq with
      userData := Cells.writeList 0 0 text [], userDataLen := BitVec.ofNat 9 text.length } }

/-- A text of each of the seven patterns, and one of none: numbers 7 and -12. -/
theorem witness_ResolverSetsTheFlags :
    (sIdle.fsm = .idle ∧ base.fsm ≠ .idle)
      ∧ (∀ l ∈ ([textDivX ++ [0x37] ++ textBuild ++ [0x2D, 0x31, 0x32] ++ [0x70],
          textDivX ++ [0x37] ++ [0x62] ++ [0x2D, 0x31, 0x32] ++ [], textFFmpe ++ [0x67] ++ [0x62] ++ [0x37] ++ [],
          textFFmpe ++ [0x67, 0x20, 0x76] ++ [0x37] ++ [0x2E] ++ [0x37] ++ [0x2E] ++ [0x37] ++ textLibavcodec ++ [0x37]
            ++ [0x20],
          textLavc ++ [0x37] ++ [0x2E] ++ [0x37] ++ [0x2E] ++ [0x37] ++ [], textFfmpeg, textXviD ++ [0x37] ++ [], [0x68]] :
          List (List Byte)),
        (List.range (sSigned l).seq.userDataLen.toNat).map (fun i => Cells.read 0 (sSigned l).seq.userData i) = l)
      ∧ (0x30 ≤ (0x37 : Byte).toNat ∧ (0x37 : Byte).toNat ≤ 0x39 ∧ ¬(0x30 ≤ (0x70 : Byte).toNat
        ∧ (0x70 : Byte).toNat ≤ 0x39))
      ∧ [0x68].head? ∉ ([some 0x44, some 0x46, some 0x4C, some 0x58, some 0x66] : List (Option Byte)) := by decide
theorem witness_HostWriteWhileBusyIsIgnored : base.fsm ∉ [Fsm.idle, .done, .error]
  ∧ sIdle.fsm ∈ [Fsm.idle, .done, .error] := by
  decide

end Sys2Proof.Tests
end

section
/-! How a step reaches an instruction: the outcomes that carry a next state, and the control states that
select SETPOS and the packet header. -/

namespace Sys2Proof.Machine

variable {s t u : State}

/-- An operation that completes has the state it computed as its next state. -/
theorem next_of_completes (e : completes u = .next t) : t = u := (Host.Outcome.next.inj e).symm

/-- An operation on the prediction stores that does not fault has the state it computed as its next state. -/
theorem next_of_inStores (e : inStores s u = .next t) : t = u := by
  unfold inStores at e
  split at e
  · exact (Host.Outcome.next.inj e).symm
  · cases e

/-- A step makes the move of FSM, or runs the decoded instruction. -/
theorem step_cases (e : step s = .next t) :
    engineMove s = some t
      ∨ engineMove s = none ∧ ∃ i, decode (fetch s).1 (fetch s).2 = .ok i ∧ exec i s = .next t := by
  unfold step at e
  split at e
  · next v hv => exact .inl (hv.trans (congrArg some (Host.Outcome.next.inj e)))
  · next hv =>
    unfold runSelected at e
    split at e
    · next i hi => exact .inr ⟨hv, i, hi, e⟩
    · cases e

theorem startCodeClass_ne_cmdSetpos (k : List ScRange) (c : Byte) : startCodeClass k c ≠ .cmdSetpos := by
  unfold startCodeClass
  cases classOf k c <;> exact Instr.noConfusion

theorem startCodeClass_ne_videoPacketHeader (k : List ScRange) (c : Byte) :
    startCodeClass k c ≠ .videoPacketHeader := by
  unfold startCodeClass
  cases classOf k c <;> exact Instr.noConfusion

theorem decodeStartCode_ok {k : List ScRange} {l : List Byte} {i : Instr} (h : decodeStartCode k l = .ok i) :
    ∃ c, i = startCodeClass k c := by
  unfold decodeStartCode at h
  split at h
  · split at h
    · exact ⟨_, (Except.ok.inj h).symm⟩
    · cases h
  · cases h

/-- A control state alone selects no command and no packet header. -/
theorem operationOf_ne {f : Fsm} {studio part : Bool} {pict : PictType} :
    operationOf f studio part pict ≠ .ok .cmdSetpos ∧ operationOf f studio part pict ≠ .ok .videoPacketHeader := by
  cases f
  case partA | partB | mb => cases studio <;> cases pict <;> cases part <;> exact ⟨nofun, nofun⟩
  all_goals exact ⟨nofun, nofun⟩

theorem commandOf_eq_cmdSetpos {c : BitVec 4} : commandOf c = .cmdSetpos → c = 3 := by
  revert c
  decide

theorem commandOf_ne_videoPacketHeader {c : BitVec 4} : commandOf c ≠ .videoPacketHeader := by
  revert c
  decide

theorem decode_commandByte : decode .command [s.commandByte] = .ok (commandOf s.ctrl.cmd) := by
  have hc : s.commandByte.toNat = s.ctrl.cmd.toNat := by
    have := s.ctrl.cmd.isLt
    rw [State.commandByte, BitVec.toNat_ofNat]
    omega
  show decodeCommand [s.commandByte] = _
  rw [decodeCommand, hc, if_pos s.ctrl.cmd.isLt, BitVec.ofNat_toNat, BitVec.setWidth_eq]

/-- What selects an operation: the command register in IDLE, a start code or the scan in SCAN, the boundary or the
packet header in RESYNC_CHECK, and otherwise the control state (30_encoding.md R111). -/
theorem selected_cases {i : Instr} (h : decode (fetch s).1 (fetch s).2 = .ok i) :
    s.fsm = .idle ∧ i = commandOf s.ctrl.cmd
      ∨ (∃ c, i = startCodeClass s.cfg.scClass c)
      ∨ s.fsm = .resyncCheck ∧ (i = .resyncPeek ∨ i = .videoPacketHeader)
      ∨ ∃ f, operationOf f s.seq.studioProfile s.pic.partitionedFrame s.pic.pictType = .ok i := by
  unfold fetch at h
  split at h
  · next hf => exact .inl ⟨hf, Except.ok.inj (h.symm.trans decode_commandByte)⟩
  · split at h
    · exact .inr (.inl (decodeStartCode_ok (l := s.bytesFrom s.scanByte 4) h))
    · exact .inr (.inr (.inr ⟨.scan, h⟩))
  · next hf =>
    refine .inr (.inr (.inl ⟨hf, ?_⟩))
    split at h
    · exact .inl (Except.ok.inj h).symm
    · exact .inr (Except.ok.inj h).symm
  · exact .inr (.inr (.inr ⟨_, h⟩))

/-- SETPOS is selected by its command in IDLE alone. -/
theorem selected_cmdSetpos (h : decode (fetch s).1 (fetch s).2 = .ok .cmdSetpos) : s.fsm = .idle ∧ s.ctrl.cmd = 3 := by
  obtain ⟨hf, hc⟩ | ⟨c, hc⟩ | ⟨_, hc | hc⟩ | ⟨f, hf⟩ := selected_cases h
  · exact ⟨hf, commandOf_eq_cmdSetpos hc.symm⟩
  · exact absurd hc.symm (startCodeClass_ne_cmdSetpos _ _)
  · cases hc
  · cases hc
  · exact absurd hf operationOf_ne.1

/-- The packet header is selected in RESYNC_CHECK alone. -/
theorem selected_videoPacketHeader (h : decode (fetch s).1 (fetch s).2 = .ok .videoPacketHeader) :
    s.fsm = .resyncCheck := by
  obtain ⟨_, hc⟩ | ⟨c, hc⟩ | ⟨hf, _⟩ | ⟨f, hf⟩ := selected_cases h
  · exact absurd hc.symm commandOf_ne_videoPacketHeader
  · exact absurd hc.symm (startCodeClass_ne_videoPacketHeader _ _)
  · exact hf
  · exact absurd hf operationOf_ne.2

/-- A turn of the recovery search that leaves the packet header to run has more than 27 bits before it
(45_resync.md R350). -/
theorem left_of_searchTurn_none (h : s.searchTurn = none) : 27 < s.left := by
  unfold State.searchTurn at h
  split at h
  · assumption
  · cases h

theorem engineMove_search (hf : s.fsm = .resyncCheck) (hp : s.eng.phase = .search) : engineMove s = s.searchTurn := by
  simp only [engineMove, hf, hp]

end Sys2Proof.Machine
end

section
/-! The invariant through a step: every instruction, every move of FSM. The moves that go back are named. -/

namespace Sys2Proof.Machine

variable {L : Span} {s t u : State}

/-! ## Instructions -/

theorem GoodAt.completed (h : GoodAt L u) (e : completes u = .next t) : GoodAt L t := next_of_completes e ▸ h

theorem GoodAt.stored (h : GoodAt L u) (e : inStores s u = .next t) : GoodAt L t := next_of_inStores e ▸ h

theorem GoodAt.command {m : Parse Unit} (hm : KG L m) (h : GoodAt L s) (e : runCommand m s = .next t) : GoodAt L t := by
  refine GoodAt.completed ?_ e
  split
  · exact hm.runAt h.accept
  · exact h

theorem GoodAt.startCode {k : ScClass} (h : GoodAt L s)
    (e : completes (runAt .headerRun (takeStartCode k) s) = .next t) : GoodAt L t :=
  GoodAt.completed ((takeStartCode_keeps k).runAt h) e

theorem KG.coefValues {m : Parse Coef} (h : KG L m) : KG L (coefValues m) := .bind h fun _ => .pure _

theorem setposP_keeps_of_start (hL : L.start = 0) : KG L setposP := by
  obtain ⟨l, p⟩ := L
  subst hL
  exact setposP_keeps

/-- Every instruction keeps the invariant and a part of the bitstream for the cursor, in every form. SETPOS does so only
for the whole bitstream, and a packet header in the recovery search only where the search has room to go on. -/
theorem GoodAt.exec {i : Instr} (h : GoodAt L s) (hset : i = .cmdSetpos → L.start = 0)
    (hvp : i = .videoPacketHeader → s.eng.phase = .search → 27 < s.left) (e : exec i s = .next t) : GoodAt L t := by
  cases i with
  | scVoObj _ => exact h.startCode e
  | scVol _ => exact h.startCode e
  | scReserved _ => exact h.startCode e
  | scVos => exact h.startCode e
  | scVosEnd => exact h.startCode e
  | scUser => exact h.startCode e
  | scGop => exact h.startCode e
  | scSessionErr => exact h.startCode e
  | scVisobj => exact h.startCode e
  | scVop => exact h.startCode e
  | scSlice => exact h.startCode e
  | scExt => exact h.startCode e
  | scOther _ => exact h.startCode e
  | scan => exact (scanP_keeps.runAt h).completed e
  | vos => exact (vosP_keeps.runAt h).completed e
  | vo => exact (voP_keeps.runAt h).completed e
  | vol => exact (volP_keeps.runAt h).completed e
  | volStudio => exact (volStudioP_keeps.runAt h).completed e
  | loadQmatrix k => exact ((matrixEntries_keeps k 64 0 0).runAt h).completed e
  | cplxEst => exact (cplxEstP_keeps.runAt h).completed e
  | extUnit => exact (extP_keeps.runAt h).completed e
  | gop => exact (gopP_keeps.runAt h).completed e
  | userdata => exact (userdataP_keeps.runAt h).completed e
  | vop => exact (vopP_keeps.runAt h).completed e
  | timeIncr => exact (timeIncrP_keeps.runAt h).completed e
  | tiHeal => exact ((KG.upd fun _ g => g.tiHeal).runAt h).completed e
  | spriteTraj => exact (spriteTrajP_keeps.runAt h).completed e
  | gmcResolve => exact (gmcResolveP_keeps.runAt h).completed e
  | getAmv n => exact ((KG.pure [s.amv n]).runFor h).completed e
  | mbI => exact (mbIP_keeps.runAt h).stored e
  | mbP => exact (mbPP_keeps.runAt h).stored e
  | mbB => exact (mbBP_keeps.runAt h).stored e
  | mbStudio => exact (mbStudioP_keeps.runAt h).completed e
  | mvd p fc => exact ((KG.bind mvdP_keeps fun v => .pure [v]).runFor h).completed e
  | dquant => exact (dquantP_keeps.runAt h).completed e
  | blockIntra n c => exact ((blockIntraP_keeps n c).runAt h).stored e
  | blockInter n => exact ((blockInterP_keeps n).runAt h).completed e
  | coefDirect l r v => exact ((KG.coefValues (withSign_keeps (l := l) (r := r) (v := v))).runFor h).completed e
  | coefEsc1 tb => exact ((coefEsc1P_keeps tb).coefValues.runFor h).completed e
  | coefEsc2 tb => exact ((coefEsc2P_keeps tb).coefValues.runFor h).completed e
  | coefEsc3 => exact (coefEsc3P_keeps.coefValues.runFor h).completed e
  | predDc n d => exact ((KG.bind (predDcP_keeps n d) fun l => .pure [l]).runFor h).stored e
  | predAc n => exact ((KG.upd fun _ g => g.predAc n).runAt h).stored e
  | resyncPeek => exact (peekStep_keeps.runAt h).completed e
  | videoPacketHeader => exact (h.runPacket (hvp rfl)).completed e
  | partitionAI => exact ((partitionA_keeps partStepI_keeps _ _ _).runAt h).stored e
  | partitionAP => exact ((partitionA_keeps partStepP_keeps _ _ _).runAt h).stored e
  | partitionBI => exact ((partitionB_keeps partBStepI_keeps).runAt h).stored e
  | partitionBP => exact ((partitionB_keeps partBStepP_keeps).runAt h).stored e
  | mbPartitioned => exact (mbPartitionedP_keeps.runAt h).stored e
  | quirkResolve => exact (quirkResolveP_keeps.runAt h).completed e
  | cmdNop => exact h.completed e
  | cmdScanHeaders => exact h.command (.upd fun _ g => g.setFsm) e
  | cmdDecodePicture => exact h.command (.upd fun _ g => g.setFsm) e
  | cmdSetpos => exact h.command (setposP_keeps_of_start (hset rfl)) e
  | cmdResolveQuirks => exact h.command resolveQuirksP_keeps e
  | cmdClrlog => exact h.command clrlogP_keeps e
  | cmdReserved6 => exact h.command badCommand_keeps e
  | cmdReserved7 => exact h.command badCommand_keeps e
  | cmdReserved8 => exact h.command badCommand_keeps e
  | cmdReserved9 => exact h.command badCommand_keeps e
  | cmdReserved10 => exact h.command badCommand_keeps e
  | cmdReserved11 => exact h.command badCommand_keeps e
  | cmdReserved12 => exact h.command badCommand_keeps e
  | cmdReserved13 => exact h.command badCommand_keeps e
  | cmdReserved14 => exact h.command badCommand_keeps e
  | cmdReserved15 => exact h.command badCommand_keeps e

/-! ## Moves of FSM -/

theorem GoodAt.leaveWait (h : GoodAt L s) : GoodAt L s.leaveWait := by
  unfold State.leaveWait
  split
  · exact h
  · exact h.setFsm

theorem GoodAt.startRecovery_of_start (hL : L.start = 0) (h : GoodAt L s) : GoodAt L s.startRecovery := by
  obtain ⟨l, p⟩ := L
  subst hL
  exact h.startRecovery

/-- A turn of the search goes on a byte further, or ends the picture. -/
theorem GoodAt.searchTurn (h : GoodAt L s) (e : s.searchTurn = some t) : GoodAt L t := by
  unfold State.searchTurn at e
  split at e
  · next hl =>
    split at e
    · cases e
    · cases e
      refine h.fwd _ _ (Nat.le_add_right _ _) ?_
      unfold State.left at hl
      omega
  · cases e
    exact h.takeRaise _ _

/-- Every move of FSM keeps the invariant; only the start of a recovery needs the whole bitstream. -/
theorem GoodAt.engineMove (h : GoodAt L s) (hr : s.fsm = .resyncCheck ∧ s.eng.phase = .recover → L.start = 0)
    (e : engineMove s = some t) : GoodAt L t := by
  unfold Machine.engineMove at e
  split at e
  case h_1 => cases e; exact h.acknowledge
  case h_2 => cases e; exact h.acknowledge
  case h_3 => cases e; exact h.sliceStart
  case h_4 => cases e; exact h.leaveWait
  case h_5 hf =>
    split at e
    case h_1 => cases e
    case h_2 => cases e; exact h.decideBoundary _
    case h_3 => cases e
    case h_4 hp => cases e; exact h.startRecovery_of_start (hr ⟨hf, hp⟩)
    case h_5 => exact h.searchTurn e
  all_goals cases e

/-! ## Steps -/

/-- The two moves that set the cursor back: the command SETPOS, and the start of a recovery search (45_resync.md
R350). -/
def State.mayGoBack (s : State) : Prop :=
  (s.fsm = .idle ∧ s.ctrl.cmd = 3) ∨ (s.fsm = .resyncCheck ∧ s.eng.phase = .recover)

/-- A step keeps the invariant in every part of the bitstream that begins at or before the cursor; where it may go back,
in the whole bitstream. -/
theorem GoodAt.step (h : GoodAt L s) (hback : s.mayGoBack → L.start = 0) (e : step s = .next t) : GoodAt L t := by
  obtain hm | ⟨hn, i, hi, hx⟩ := step_cases e
  · exact h.engineMove (fun hr => hback (.inr hr)) hm
  · refine h.exec ?_ ?_ hx
    · rintro rfl
      exact hback (.inl (selected_cmdSetpos hi))
    · rintro rfl hp
      have hf := selected_videoPacketHeader hi
      exact left_of_searchTurn_none ((engineMove_search hf hp).symm.trans hn)

theorem Good.whole (h : Good s) : GoodAt (.whole s.len) s := ⟨h, rfl, Nat.zero_le _⟩

theorem Good.fromCursor (h : Good s) : GoodAt ⟨s.len, s.pos⟩ s := ⟨h, rfl, le_rfl⟩

/-- Settles O5: the invariant by a step within the whole bitstream, the forward motion by a step within the part from
the cursor on. -/
theorem stepKeepsInvariantAndGoesForward : Obligations.StepKeepsInvariantAndGoesForward := by
  unfold Obligations.StepKeepsInvariantAndGoesForward
  intro s t hs e
  have g := State.inv_iff.1 hs
  refine ⟨State.inv_iff.2 (g.whole.step (fun _ => rfl) e).1, ?_⟩
  by_cases hb : s.mayGoBack
  · exact .inr hb
  · exact .inl (g.fromCursor.step (fun k => absurd k hb) e).2.2

end Sys2Proof.Machine
end

section
/-! The frame of the header operations (10_state.md R23, 40_header_vol.md R142): what they keep of State, said once for
every property that their five kinds of write leave alone. -/

namespace Sys2Proof.Machine

variable {α : Type} {P : State → Prop} {s t : State}

/-- A property of State that no write of BITPOS, FSM, STATUS or SEQ changes, and no clearing of TIME.t_frame. -/
structure HeaderBlind (P : State → Prop) : Prop where
  pos : ∀ s p, P s → P (s.setPos p)
  fsm : ∀ s f, P s → P (s.setFsm f)
  status : ∀ s f, P s → P (s.updStatus f)
  seq : ∀ s f, P s → P (s.updSeq f)
  tFrame : ∀ s, P s → P (s.updTime fun t => { t with tFrame := 0 })

/-- The parse keeps `P`, whatever it raises. -/
abbrev KeepsAny (P : State → Prop) (m : Parse α) : Prop := Keeps P (fun _ => True) m

/-- A failure in the header run loses no macroblock. -/
theorem State.noteLost_headerRun (s : State) (tg : Tag) : s.noteLost .headerRun tg = s := by
  simp only [State.noteLost, State.lostAt, List.append_nil]
  rfl

/-- A fatal end in the header run publishes no row. -/
theorem State.failFatally_headerRun (s : State) (tg : Tag) :
    s.failFatally .headerRun tg = (s.updStatus fun t => { t with picValid := false }).setFsm .error := by
  rw [State.failFatally, State.noteLost_headerRun]
  rfl

namespace HeaderBlind

/-! ## The bit reader and the ends of an operation -/

theorem log (h : HeaderBlind P) (f : LogFlag) (hs : P s) : P (s.log f) := h.status _ _ hs

theorem post (h : HeaderBlind P) (c : ResultCode) (hs : P s) : P (s.post c) := h.status _ _ hs

theorem forward (h : HeaderBlind P) (s : State) (q : Nat) (hs : P s) (_ : s.pos ≤ q) (_ : q ≤ s.endPos) :
    P (s.setPos q) := h.pos s q hs

theorem getBits (h : HeaderBlind P) {e : Raise} {n : Nat} : KeepsAny P (getBits e n) := .getBits h.forward trivial

theorem getFlag (h : HeaderBlind P) {e : Raise} : KeepsAny P (getFlag e) := .getFlag h.forward trivial

theorem skipBits (h : HeaderBlind P) {e : Raise} {n : Nat} : KeepsAny P (skipBits e n) := .skipBits h.forward trivial

theorem marker (h : HeaderBlind P) {e : Raise} : KeepsAny P (marker e) :=
  .marker h.forward (fun _ f => h.log f) trivial trivial

theorem logBit (h : HeaderBlind P) {f : LogFlag} : KeepsAny P (logBit f) := .update fun _ => h.log f

theorem putSeq (h : HeaderBlind P) {f : Seq → Seq} : KeepsAny P (putSeq f) := .update fun _ => h.seq _ f

theorem finishOk (h : HeaderBlind P) {f : Fsm} : KeepsAny P (finishOk f) :=
  .update fun _ hs => h.fsm _ _ (h.post _ hs)

theorem takeRaise (h : HeaderBlind P) (r : Raise) (hs : P s) : P (s.takeRaise .headerRun r) := by
  have g : P (s.recordRaise r) := h.status _ _ hs
  have k : P ((s.recordRaise r).failFatally .headerRun r.tag) := by
    rw [State.failFatally_headerRun]
    exact h.fsm _ _ (h.status _ _ g)
  unfold State.takeRaise
  split
  case h_1 => exact h.fsm _ _ g
  all_goals first | exact k | exact h.fsm _ _ g

theorem runAt (h : HeaderBlind P) {m : Parse Unit} (hm : KeepsAny P m) (hs : P s) : P (runAt .headerRun m s) :=
  hm.runAt (fun _ r g _ => h.takeRaise r g) hs

/-! ## The rows of a header -/

theorem runItem (h : HeaderBlind P) {φ ε : Type} {g : Reader φ ε} (ht : ∀ f v, KeepsAny P (g.take f v))
    (ha : ∀ e env, KeepsAny P (g.act e env)) (env : Env φ) (i : Item φ ε) : KeepsAny P (runItem g env i) := by
  cases i with
  | field f w => exact .getState_bind fun _ _ => .bind h.getBits fun v => .bind (ht f v) fun _ => .pure _
  | put f v => exact .bind (ht f v) fun _ => .pure _
  | skip w => exact .getState_bind fun _ _ => .bind h.skipBits fun _ => .pure _
  | mark => exact .getState_bind fun _ _ => .pure _
  | marker t => exact .bind h.marker fun _ => .pure _
  | log f => exact .bind h.logBit fun _ => .pure _
  | need n => exact .getState_bind fun _ _ => .ite (fun _ => .raise trivial) fun _ => .pure _
  | act e => exact .bind (ha e env) fun _ => .pure _
  | leave => exact .pure _

theorem runRows (h : HeaderBlind P) {φ ε : Type} [DecidableEq φ] {g : Reader φ ε}
    (ht : ∀ f v, KeepsAny P (g.take f v)) (ha : ∀ e env, KeepsAny P (g.act e env)) (l : List (Row φ ε)) :
    ∀ env, KeepsAny P (runRows g l env) := by
  induction l with
  | nil => exact fun _ => .pure _
  | cons r rows ih =>
    intro env
    refine .getState_bind fun _ _ => .ite (fun _ => .bind (h.runItem ht ha env r.item) fun o => ?_) fun _ => ih env
    cases o with
    | none => exact .pure _
    | some env' => exact ih env'

theorem runLayout (h : HeaderBlind P) {φ ε : Type} [DecidableEq φ] {g : Reader φ ε}
    (ht : ∀ f v, KeepsAny P (g.take f v)) (ha : ∀ e env, KeepsAny P (g.act e env)) (l : List (Row φ ε)) :
    KeepsAny P (runLayout g l) := .getState_bind fun _ _ => h.runRows ht ha l _

/-! ## The fields and the acts -/

theorem putMatrix (h : HeaderBlind P) (k : MatKind) (i : Nat) (v : Byte) (hs : P s) : P (s.putMatrix k i v) := by
  unfold State.putMatrix
  cases k <;> exact h.seq _ _ hs

theorem fillMatrix (h : HeaderBlind P) (k : MatKind) (v : Byte) (i n : Nat) (hs : P s) : P (s.fillMatrix k v i n) := by
  unfold State.fillMatrix
  cases k <;> exact h.seq _ _ hs

theorem matrixEntries (h : HeaderBlind P) (k : MatKind) (n : Nat) :
    ∀ i last, KeepsAny P (matrixEntries k n i last) := by
  induction n with
  | zero => exact fun _ _ => .pure _
  | succ n ih =>
    intro i last
    refine .getState_bind fun _ _ => .ite (fun _ => .raise trivial) fun _ => .bind h.getBits fun v =>
      .ite (fun _ => ?_) fun _ => ?_
    · exact .update fun _ => h.fillMatrix k last i (n + 1)
    · exact .bind (.update fun _ => h.putMatrix k i _) fun _ => ih _ _

theorem loadQmatrixP (h : HeaderBlind P) (k : MatKind) : KeepsAny P (loadQmatrixP k) := h.matrixEntries k 64 0 0

theorem detectStudio (h : HeaderBlind P) (hs : P s) : P s.detectStudio := by
  unfold State.detectStudio
  exact h.seq _ _ hs

theorem setSize (h : HeaderBlind P) (a b : Nat) (hs : P s) : P (s.setSize a b) := by
  unfold State.setSize
  split
  · exact hs
  · exact h.seq _ _ hs

theorem takeResolution (h : HeaderBlind P) (v : Nat) : KeepsAny P (takeResolution v) :=
  .bind h.putSeq fun _ => .getState_bind fun _ _ => .ite (fun _ => .raise trivial) fun _ => h.putSeq

theorem takeWarpPoints (h : HeaderBlind P) (n : Nat) : KeepsAny P (takeWarpPoints n) :=
  .ite (fun _ => .bind h.putSeq fun _ => .raise trivial) fun _ => h.putSeq

/-- A field writes SEQ alone, or nothing. -/
theorem takeSeq (h : HeaderBlind P) (f : SeqField) (v : Nat) : KeepsAny P (takeSeq f v) := by
  cases f
  case timeResolution => exact h.takeResolution v
  case warpPoints => exact h.takeWarpPoints v
  all_goals first | exact .pure _ | exact h.putSeq

theorem actSeq (h : HeaderBlind P) (e : SeqAct) (env : Env SeqField) : KeepsAny P (actSeq e env) := by
  cases e with
  | detectStudio => exact .update fun _ => h.detectStudio
  | clearFieldPeriod => exact .update fun _ => h.tFrame _
  | setSize => exact .update fun _ => h.setSize _ _
  | clipPrecision => exact h.putSeq
  | defaultMatrices => exact .update fun _ => h.seq _ _
  | loadMatrix k => exact h.loadQmatrixP k
  | scalRewind => exact .update fun _ hs => h.pos _ _ (h.seq _ _ hs)
  | refuseShape => exact .raise trivial
  | refuseChroma => exact .raise trivial

theorem seqRows (h : HeaderBlind P) (t : Tag) (l : List (Row SeqField SeqAct)) :
    KeepsAny P (Machine.runLayout (seqReader t) l) := h.runLayout h.takeSeq h.actSeq l

theorem takeCplx (h : HeaderBlind P) (f : CplxField) (v : Nat) : KeepsAny P (takeCplx f v) := by
  cases f
  case counter => exact .update fun _ => h.seq _ _
  all_goals exact .pure _

theorem actCplx (h : HeaderBlind P) (e : CplxAct) (env : Env CplxField) : KeepsAny P (actCplx e env) := by
  cases e
  exact .update fun _ hs => h.log _ (h.seq _ _ (h.pos _ _ hs))

/-! ## The header operations -/

theorem cplxEstP (h : HeaderBlind P) : KeepsAny P cplxEstP :=
  .bind (.update fun _ => h.seq _ _) fun _ => .getState_bind fun _ _ => h.runLayout h.takeCplx h.actCplx _

theorem vosP (h : HeaderBlind P) : KeepsAny P vosP :=
  .getState_bind fun _ _ => .bind (h.seqRows _ _) fun _ => h.finishOk

theorem voP (h : HeaderBlind P) : KeepsAny P voP :=
  .getState_bind fun _ _ => .bind (h.seqRows _ _) fun _ => h.finishOk

theorem gopP (h : HeaderBlind P) : KeepsAny P gopP :=
  .getState_bind fun _ _ => .bind (h.seqRows _ _) fun _ => h.finishOk

theorem volPart (h : HeaderBlind P) (p : VolPart) : KeepsAny P (volPart p) := by
  cases p with
  | rows l => exact h.seqRows _ l
  | complexity => exact .getState_bind fun _ _ => .whenP fun _ => h.cplxEstP

theorem volP (h : HeaderBlind P) : KeepsAny P volP :=
  .bind h.putSeq fun _ => .getState_bind fun _ _ => .bind (.forEach h.volPart _) fun _ =>
    .bind h.putSeq fun _ => h.finishOk

theorem volStudioP (h : HeaderBlind P) : KeepsAny P volStudioP :=
  .bind h.putSeq fun _ => .getState_bind fun _ _ => .bind (h.seqRows _ _) fun _ => .bind h.putSeq fun _ => h.finishOk

theorem putMatrixId (h : HeaderBlind P) (m : MatId) (i : Nat) (v : Byte) (hs : P s) : P (s.putMatrixId m i v) := by
  unfold State.putMatrixId
  exact h.seq _ _ hs

theorem extMatrix (h : HeaderBlind P) (m : MatId) : KeepsAny P (extMatrix m) :=
  .bind h.getFlag fun _ => .whenP fun _ =>
    .forEach (fun _ => .bind h.getBits fun _ => .update fun _ => h.putMatrixId m _ _) _

theorem extP (h : HeaderBlind P) : KeepsAny P extP :=
  .getState_bind fun _ _ => .bind (.whenP fun _ => .bind h.getBits fun _ => .whenP fun _ => .forEach h.extMatrix _)
    fun _ => h.finishOk

theorem userdataP (h : HeaderBlind P) : KeepsAny P userdataP :=
  .bind (.update fun _ hs => h.pos _ _ (h.seq _ _ hs)) fun _ => h.finishOk

/-! ## Start codes -/

theorem reachVop (h : HeaderBlind P) (hs : P s) : P s.reachVop := by
  unfold State.reachVop
  split
  · exact h.fsm _ _ (h.post _ hs)
  · exact h.fsm _ _ hs

/-- A start code moves FSM, but for EXT, which runs in place. -/
theorem startCodeEffect (h : HeaderBlind P) (k : ScClass) : KeepsAny P (startCodeEffect k) := by
  cases k
  case vop => exact .update fun _ => h.reachVop
  case ext => exact h.extP
  all_goals exact .update fun _ => h.fsm _ _

theorem noStartCode (h : HeaderBlind P) : KeepsAny P noStartCode :=
  .bind (.update fun _ => h.pos _ _) fun _ => .raise trivial

theorem takeStartCode (h : HeaderBlind P) (k : ScClass) : KeepsAny P (takeStartCode k) :=
  .getState_bind fun _ _ => .ite (fun _ => h.noStartCode) fun _ => .bind (.update fun _ => h.pos _ _) fun _ =>
    h.startCodeEffect k

theorem scanP (h : HeaderBlind P) : KeepsAny P scanP := by
  refine .getState_bind fun s _ => ?_
  cases s.findStartCode (s.len.toNat - s.scanByte) s.scanByte with
  | some p => exact .bind (.update fun _ => h.pos _ _) fun _ => h.startCodeEffect _
  | none => exact h.noStartCode

theorem completes (h : HeaderBlind P) {m : Parse Unit} (hm : KeepsAny P m) (hs : P s)
    (e : completes (Machine.runAt .headerRun m s) = .next t) : P t := next_of_completes e ▸ h.runAt hm hs

/-- The instruction of a start code, whatever its suffix. -/
theorem startCode (h : HeaderBlind P) {k : List ScRange} {c : Byte} (hs : P s)
    (e : exec (startCodeClass k c) s = .next t) : P t := by
  unfold startCodeClass at e
  cases hk : classOf k c <;> rw [hk] at e <;> exact h.completes (h.takeStartCode _) hs e

end HeaderBlind

/-- Each field that a header operation leaves alone is one that its writes leave alone. -/
theorem headerBlind_sameButHeader (s : State) : HeaderBlind (sameButHeader s) where
  pos _ _ hs := hs
  fsm _ _ hs := hs
  status _ _ hs := hs
  seq _ _ hs := hs
  tFrame u := by
    rintro ⟨hlen, hbs, hpic, htime, rest⟩
    refine ⟨hlen, hbs, hpic, ?_, rest⟩
    rw [State.updTime, htime]

theorem sameButHeader_refl (s : State) : sameButHeader s s :=
  ⟨rfl, rfl, rfl, rfl, rfl, rfl, rfl, rfl, rfl, rfl, rfl, rfl⟩

/-- Settles O23: the frame is a property that no write of a header operation changes. -/
theorem headerLeavesThePictureAlone : Obligations.HeaderLeavesThePictureAlone := by
  unfold Obligations.HeaderLeavesThePictureAlone
  intro i s t hi e
  have h := headerBlind_sameButHeader s
  have hs := sameButHeader_refl s
  obtain rfl | rfl | rfl | rfl | ⟨k, rfl⟩ | rfl | rfl | rfl | rfl | rfl | ⟨k, c, rfl⟩ := hi
  · exact h.completes h.vosP hs e
  · exact h.completes h.voP hs e
  · exact h.completes h.volP hs e
  · exact h.completes h.volStudioP hs e
  · exact h.completes (h.loadQmatrixP k) hs e
  · exact h.completes h.cplxEstP hs e
  · exact h.completes h.extP hs e
  · exact h.completes h.gopP hs e
  · exact h.completes h.userdataP hs e
  · exact h.completes h.scanP hs e
  · exact h.startCode hs e

end Sys2Proof.Machine
end

section
/-! The acknowledge and the host's writes (60_exceptions.md R378, R388; 10_state.md R59). -/

namespace Sys2Proof.Machine

variable {s : State}

/-! ## The acknowledge -/

theorem step_of_engineMove {t : State} (h : engineMove s = some t) : step s = .next t := by rw [step, h]

theorem engineMove_ended (h : s.fsm = .done ∨ s.fsm = .error) : engineMove s = some s.acknowledge := by
  obtain h | h := h <;> simp only [engineMove, h]

theorem acknowledge_clear (h : s.ctrl.ack = false) : s.acknowledge = s := by
  simp only [State.acknowledge, h, Bool.false_eq_true, if_false]

theorem acknowledge_set (h : s.ctrl.ack = true) :
    s.acknowledge = ((s.setFsm .idle).updCtrl fun c => { c with ack := false, cmd := 0 }).updSeq
      fun q => { q with contextReinit := false } := by
  simp only [State.acknowledge, h, if_true]

/-- Settles O56: in DONE and ERROR a step is the acknowledge. -/
theorem acknowledgeReturnsToIdle : Obligations.AcknowledgeReturnsToIdle := by
  unfold Obligations.AcknowledgeReturnsToIdle
  intro s h
  have hm := engineMove_ended h
  constructor
  · intro ha
    exact step_of_engineMove (hm.trans (congrArg some (acknowledge_clear ha)))
  · intro ha
    exact step_of_engineMove (hm.trans (congrArg some (acknowledge_set ha)))

/-! ## Host writes -/

theorem busy_iff : s.busy = true ↔ s.fsm ∉ [Fsm.idle, .done, .error] := by
  simp only [State.busy, Bool.not_eq_true', Bool.or_eq_false_iff, beq_eq_false_iff_ne, List.mem_cons, List.not_mem_nil,
    or_false, not_or, and_assoc]

theorem hostWrite_busy {w : HostWrite} (h : s.busy = true) : s.hostWrite w = s := if_pos h

theorem hostWrite_taken {w : HostWrite} (h : s.busy = false) : s.hostWrite w = s.takeWrite w :=
  if_neg (Bool.eq_false_iff.1 h)

/-- A state differs from `s` in nothing but CTRL, BS, LEN, the stores and CFG: what a host write may change. -/
def sameButHost (s t : State) : Prop :=
  t = { s with ctrl := t.ctrl, bs := t.bs, len := t.len, stores := t.stores, cfg := t.cfg }

theorem takeWrite_sameButHost (s : State) (w : HostWrite) : sameButHost s (s.takeWrite w) := by
  cases w with
  | cfg c =>
    show sameButHost s (if cfgOk c then { s with cfg := c } else s)
    split
    · rfl
    · rfl
  | _ => rfl

theorem hostWrite_sameButHost (s : State) (w : HostWrite) : sameButHost s (s.hostWrite w) := by
  cases h : s.busy
  · rw [hostWrite_taken h]
    exact takeWrite_sameButHost s w
  · rw [hostWrite_busy h]
    rfl

/-- Settles O60: a write is dropped while the block is busy, and each kind of write taken touches one host register or
store. -/
theorem hostWriteWhileBusyIsIgnored : Obligations.HostWriteWhileBusyIsIgnored := by
  unfold Obligations.HostWriteWhileBusyIsIgnored
  intro s w
  refine ⟨fun h => hostWrite_busy (busy_iff.2 h), hostWrite_sameButHost s w, fun v h => ?_⟩
  have hb : s.busy = false := Bool.eq_false_iff.2 fun k => busy_iff.1 k h
  rw [hostWrite_taken hb]
  rfl

end Sys2Proof.Machine
end

section
/-! The frame of the macroblock layer (43_macroblock.md R263, R283; 44_residual.md): what its operations keep of State,
said once for every property that their writes leave alone. -/

namespace Sys2Proof.Machine

variable {α : Type} {P : State → Prop} {s t u : State}

/-- Two values of SLICE differ at most in the counts of macroblocks and in the last vectors of a B picture. -/
def Slice.sameMarks (l m : Slice) : Prop :=
  m = { l with
    mbValid := m.mbValid, mbErr := m.mbErr, nextMbi := m.nextMbi, lastMvFwd := m.lastMvFwd, lastMvBwd := m.lastMvBwd }

/-- A property of State that no write of the macroblock layer changes: none of BITPOS, FSM, STATUS, MB, the model's own
fields or the record port, none of the two quantisers, of the counts and last vectors of SLICE or of ROWPROG[self], and
none of a word of the stores that belongs to the current macroblock. -/
structure MacroblockBlind (P : State → Prop) : Prop where
  pos : ∀ s p, P s → P (s.setPos p)
  fsm : ∀ s f, P s → P (s.setFsm f)
  status : ∀ s f, P s → P (s.updStatus f)
  mb : ∀ s f, P s → P (s.updMb f)
  eng : ∀ s f, P s → P (s.updEng f)
  port : ∀ s r, P s → P (s.emit r)
  quant : ∀ s q, P s → P (s.setQscale q)
  slice : ∀ s f, (∀ l : Slice, l.sameMarks (f l)) → P s → P (s.updSlice f)
  row : ∀ s n, P s → P (s.publishRow n)
  dc : ∀ s n v, P s → P (s.writeDc n v)
  ac : ∀ s n k v, k < 16 → P s → P (s.writeAc n k v)
  q : ∀ s v, P s → P (s.writeQ v)
  mv : ∀ s n v, P s → P (s.writeMv n v)
  type : ∀ s w, P s → P (s.writeMbType w)

namespace MacroblockBlind

/-! ## The bit reader and the ends of an operation -/

theorem forward (h : MacroblockBlind P) (s : State) (q : Nat) (hs : P s) (_ : s.pos ≤ q) (_ : q ≤ s.endPos) :
    P (s.setPos q) := h.pos s q hs

theorem getBits (h : MacroblockBlind P) {e : Raise} {n : Nat} : KeepsAny P (getBits e n) := .getBits h.forward trivial

theorem getFlag (h : MacroblockBlind P) {e : Raise} : KeepsAny P (getFlag e) := .getFlag h.forward trivial

theorem skipBits (h : MacroblockBlind P) {e : Raise} {n : Nat} : KeepsAny P (skipBits e n) :=
  .skipBits h.forward trivial

theorem getSigned (h : MacroblockBlind P) {e : Raise} {n : Nat} : KeepsAny P (getSigned e n) :=
  .getSigned h.forward trivial

theorem getFolded (h : MacroblockBlind P) {e : Raise} {n : Nat} : KeepsAny P (getFolded e n) :=
  .getFolded h.forward trivial

theorem vlc (h : MacroblockBlind P) {e : Raise} {tb : VlcTable} : KeepsAny P (vlc e tb) := .vlc h.forward trivial

theorem vlcNumber (h : MacroblockBlind P) {e bad : Raise} {tb : VlcTable} : KeepsAny P (vlcNumber e bad tb) :=
  .vlcNumber h.forward trivial trivial

theorem marker (h : MacroblockBlind P) {e : Raise} : KeepsAny P (marker e) :=
  .marker h.forward (fun _ _ => h.status _ _) trivial trivial

theorem putMb (h : MacroblockBlind P) {f : Mb → Mb} : KeepsAny P (putMb f) := .update fun _ => h.mb _ f

theorem failFatally (h : MacroblockBlind P) (site : Site) (tg : Tag) (hs : P s) : P (s.failFatally site tg) := by
  unfold State.failFatally State.noteLost
  refine h.eng _ _ (h.fsm _ _ (h.status _ _ ?_))
  split
  · exact h.row _ _ hs
  · exact hs

theorem failRecoverably (h : MacroblockBlind P) (site : Site) (tg : Tag) (hs : P s) :
    P (s.failRecoverably site tg) := by
  have g : ∀ a b, P (s.updSlice fun l => { l with mbErr := toU 20 (l.mbErr.toNat + a), nextMbi := b }) := fun _ _ =>
    h.slice _ _ (fun _ => rfl) hs
  unfold State.failRecoverably
  refine h.eng _ _ (h.fsm _ _ ?_)
  split
  · exact h.port _ _ (g _ _)
  · exact g _ _

theorem takeInvalid (h : MacroblockBlind P) (tg : Tag) (site : Site) (hs : P s) : P (s.takeInvalid tg site) := by
  cases site
  case headerRun | command => exact h.fsm _ _ hs
  case vopHeader => exact h.failFatally _ _ hs
  all_goals exact h.failRecoverably _ _ hs

theorem takeRaise (h : MacroblockBlind P) (site : Site) (r : Raise) (hs : P s) : P (s.takeRaise site r) := by
  have g : P (s.recordRaise r) := h.status _ _ hs
  unfold State.takeRaise
  split
  case h_1 => exact h.takeInvalid _ _ g
  all_goals first | exact h.failFatally _ _ g | exact h.fsm _ _ g

theorem runAt (h : MacroblockBlind P) {site : Site} {m : Parse Unit} (hm : KeepsAny P m) (hs : P s) :
    P (runAt site m s) := hm.runAt (fun _ r g _ => h.takeRaise site r g) hs

theorem runFor (h : MacroblockBlind P) {site : Site} {m : Parse (List Int)} (hm : KeepsAny P m) (hs : P s) :
    P (runFor site m s) := hm.runFor (fun _ r g _ => h.takeRaise site r g) (fun _ _ => h.eng _ _) hs

/-! ## Blocks -/

theorem dcDiffP (h : MacroblockBlind P) (n : Fin 6) : KeepsAny P (dcDiffP n) := by
  have bits : ∀ k, KeepsAny P (dcDiffBits k) := fun _ => .getState_bind fun _ _ =>
    .ite (fun _ => .bind h.getBits fun _ => .ite (fun _ => .pure _) fun _ => .bind h.getBits fun _ => .pure _)
      fun _ => h.getFolded
  exact .bind h.vlcNumber fun _ => .ite (fun _ => .raise trivial) fun _ => .ite (fun _ => .pure _) fun _ =>
    .bind (bits _) fun _ => .bind (.whenP fun _ => h.marker) fun _ => .pure _

theorem predDcDir (h : MacroblockBlind P) (n : Fin 6) (hs : P s) : P (s.predDcDir n) := by
  unfold State.predDcDir
  exact h.mb _ _ hs

theorem partitionedDc (h : MacroblockBlind P) (n : Fin 6) (hs : P s) : P (s.partitionedDc n) := by
  unfold State.partitionedDc
  exact h.mb _ _ (h.mb _ _ hs)

theorem predDcP (h : MacroblockBlind P) (n : Fin 6) (d : Int) : KeepsAny P (predDcP n d) := by
  have range : ∀ l k, KeepsAny P (dcRange l k) := fun _ _ => .getState_bind fun _ _ =>
    .ite (fun _ => .raise trivial) fun _ => .pure _
  exact .getState_bind fun _ _ => .bind (.update fun _ => h.predDcDir n) fun _ => .bind (range _ _) fun _ =>
    .bind (.update fun _ => h.dc _ _ _) fun _ => .pure _

theorem withSign (h : MacroblockBlind P) (l : Bool) (r v : Nat) : KeepsAny P (withSign l r v) :=
  .bind h.getFlag fun _ => .pure _

theorem coefEsc1P (h : MacroblockBlind P) (tb : RlTable) : KeepsAny P (coefEsc1P tb) := by
  refine .getState_bind fun _ _ => .bind h.vlc fun r => ?_
  cases entryOf r with
  | some _ => exact h.withSign _ _ _
  | none => exact .raise trivial

theorem coefEsc2P (h : MacroblockBlind P) (tb : RlTable) : KeepsAny P (coefEsc2P tb) := by
  refine .getState_bind fun _ _ => .bind h.vlc fun r => ?_
  cases entryOf r with
  | some _ => exact h.withSign _ _ _
  | none => exact .raise trivial

theorem esc3Level (h : MacroblockBlind P) : KeepsAny P esc3Level :=
  .getState_bind fun _ _ => .ite (fun _ => h.getSigned) fun _ =>
    .bind h.marker fun _ => .bind h.getSigned fun _ => .bind h.marker fun _ => .pure _

theorem coefEsc3P (h : MacroblockBlind P) : KeepsAny P coefEsc3P :=
  .bind h.getFlag fun _ => .bind h.getBits fun _ => .bind h.esc3Level fun _ => .pure _

theorem coefRvlcP (h : MacroblockBlind P) : KeepsAny P coefRvlcP := by
  have mark : KeepsAny P rvlcMarker := .bind h.getFlag fun _ => .ite (fun _ => .pure _) fun _ => .raise trivial
  exact .bind mark fun _ => .bind h.getFlag fun _ => .bind h.getBits fun _ => .bind mark fun _ =>
    .bind h.getBits fun _ => .bind h.getBits fun _ => .ite (fun _ => .raise trivial) fun _ => h.withSign _ _ _

theorem escapeP (h : MacroblockBlind P) (tb : RlTable) : KeepsAny P (escapeP tb) :=
  .getState_bind fun _ _ =>
    .ite (fun _ => .bind h.skipBits fun _ => .bind (h.coefEsc1P tb) fun _ => .pure _) fun _ =>
    .ite (fun _ => .bind h.skipBits fun _ => .bind (h.coefEsc2P tb) fun _ => .pure _) fun _ =>
    .bind h.skipBits fun _ => .bind h.coefEsc3P fun _ => .pure _

theorem nextCoef (h : MacroblockBlind P) (tb : RlTable) : KeepsAny P (nextCoef tb) := by
  refine .bind h.vlc fun r => ?_
  match r with
  | some (.rl _ _ _) => exact .bind (h.withSign _ _ _) fun _ => .pure _
  | some .escape => exact .ite (fun _ => .bind h.coefRvlcP fun _ => .pure _) fun _ => h.escapeP tb
  | some (.num _) | some (.btype _) | none => exact .raise trivial

/-- The value of a coefficient writes nothing. -/
theorem keeps_valueOf (d : DeqMode) (k : Taken) : KeepsAny P (valueOf d k) :=
  .getState_bind fun _ _ => .ite (fun _ => .getState_bind fun _ _ => .ite (fun _ => .pure _) fun _ =>
    .ite (fun _ => .raise trivial) fun _ => .pure _) fun _ => .pure _

theorem coefLoop (h : MacroblockBlind P) (n : Fin 6) (tb : RlTable) (scan : List Nat) (d : DeqMode) (fuel : Nat) :
    ∀ i, KeepsAny P (coefLoop n tb scan d fuel i) := by
  have put : ∀ p v, KeepsAny P (update fun s => s.setCoef n p v) := fun _ _ => .update fun _ => h.mb _ _
  induction fuel with
  | zero => exact fun _ => .pure _
  | succ fuel ih =>
    exact fun i => .bind (h.nextCoef tb) fun k => .bind (keeps_valueOf d k) fun v =>
      .ite (fun _ => .ite (fun _ => .raise trivial) fun _ => .bind (put _ _) fun _ => .pure _) fun _ =>
        .bind (put _ _) fun _ => ih _

/-- The write side of PRED_AC stores words 1 to 7 and 9 to 15 of the block (44_residual.md R320). -/
theorem storeAcAll (h : MacroblockBlind P) (n : Fin 6) (hs : P s) : P (s.storeAcAll n) := by
  refine List.foldlRecOn _ _ hs fun t ht k hk => ?_
  have hk : k < 8 := by
    simp only [oneToSeven, List.mem_cons, List.not_mem_nil, or_false] at hk
    omega
  exact h.ac _ _ _ _ (by omega) (h.ac _ _ _ _ (by omega) ht)

theorem addAcAll (h : MacroblockBlind P) (n : Fin 6) (hs : P s) : P (s.addAcAll n) := by
  refine List.foldlRecOn _ _ hs fun t ht k _ => ?_
  unfold State.addAc
  exact h.mb _ _ ht

theorem predAc (h : MacroblockBlind P) (n : Fin 6) (hs : P s) : P (s.predAc n) := by
  unfold State.predAc
  split
  · exact h.storeAcAll n (h.addAcAll n hs)
  · exact h.storeAcAll n hs

theorem endIntra (h : MacroblockBlind P) (n : Fin 6) (i : Int) (hs : P s) : P (s.endIntra n i) := by
  unfold State.endIntra
  exact h.mb _ _ (h.predAc n hs)

theorem earlyDc (h : MacroblockBlind P) (n : Fin 6) : KeepsAny P (earlyDc n) :=
  .getState_bind fun _ _ => .ite (fun _ => .update fun _ => h.partitionedDc n) fun _ =>
    .bind (h.dcDiffP n) fun _ => .bind (h.predDcP n _) fun _ => .update fun _ => h.mb _ _

theorem intraCoefs (h : MacroblockBlind P) (n : Fin 6) (c : Bool) (i : Int) : KeepsAny P (intraCoefs n c i) :=
  .getState_bind fun _ _ => .ite (fun _ => h.coefLoop _ _ _ _ _ _) fun _ => .pure _

theorem blockIntraP (h : MacroblockBlind P) (n : Fin 6) (c : Bool) : KeepsAny P (blockIntraP n c) := by
  refine .getState_bind fun _ _ => .ite (fun _ => ?_) fun _ => ?_
  · exact .bind (h.earlyDc n) fun _ => .bind (h.intraCoefs n c _) fun _ => .update fun _ => h.endIntra n _
  · exact .bind (.update fun _ => h.predDcDir n) fun _ => .bind (h.intraCoefs n c _) fun _ => .getState_bind fun _ _ =>
      .bind (h.predDcP n _) fun _ => .update fun _ hs => h.endIntra n _ (h.mb _ _ hs)

theorem blockInterP (h : MacroblockBlind P) (n : Fin 6) : KeepsAny P (blockInterP n) :=
  .getState_bind fun _ _ => .bind (h.coefLoop _ _ _ _ _ _) fun _ => .update fun _ => h.mb _ _

theorem coefValues (h : MacroblockBlind P) {site : Site} {m : Parse Coef} (hm : KeepsAny P m) (hs : P s) :
    P (Machine.runFor site (coefValues m) s) := h.runFor (.bind hm fun _ => .pure _) hs

/-! ## Macroblocks -/

theorem dquantP (h : MacroblockBlind P) {e : Raise} : KeepsAny P (dquantP e) :=
  .bind h.getBits fun _ => .update fun _ hs => h.mb _ _ (h.quant _ _ hs)

theorem dquantBP (h : MacroblockBlind P) {e : Raise} : KeepsAny P (dquantBP e) :=
  .bind h.getFlag fun _ => .whenP fun _ => .bind h.getBits fun _ => .update fun _ hs => h.mb _ _ (h.quant _ _ hs)

theorem intraMcbpc (h : MacroblockBlind P) {e : Raise} (fuel : Nat) : KeepsAny P (intraMcbpc e fuel) := by
  induction fuel with
  | zero => exact .raise trivial
  | succ fuel ih => exact .bind h.vlcNumber fun _ => .ite (fun _ => ih) fun _ => .pure _

theorem interMcbpc (h : MacroblockBlind P) {e : Raise} (fuel : Nat) : KeepsAny P (interMcbpc e fuel) := by
  induction fuel with
  | zero => exact .raise trivial
  | succ fuel ih =>
    exact .bind h.getFlag fun _ => .ite (fun _ => .pure _) fun _ => .bind h.vlcNumber fun _ =>
      .ite (fun _ => ih) fun _ => .pure _

theorem fieldDct (h : MacroblockBlind P) {e : Raise} {b : Bool} : KeepsAny P (fieldDct e b) :=
  .whenP fun _ => .bind h.getFlag fun _ => h.putMb

theorem intraBody (h : MacroblockBlind P) {e : Raise} {b : Bool} : KeepsAny P (intraBody e b) :=
  .bind h.getFlag fun _ => .bind h.putMb fun _ => .bind h.vlcNumber fun _ => .bind (.update fun _ => h.mb _ _) fun _ =>
    .bind (.update fun _ => h.eng _ _) fun _ => .bind (.whenP fun _ => h.dquantP) fun _ => .getState_bind fun _ _ =>
    .bind h.fieldDct fun _ => .forEach (fun _ => .getState_bind fun _ _ => h.blockIntraP _ _) _

theorem writeMvAll (h : MacroblockBlind P) (v : Mv) (hs : P s) : P (s.writeMvAll v) :=
  h.mv _ _ _ (h.mv _ _ _ (h.mv _ _ _ (h.mv _ _ _ hs)))

theorem storeMotion (h : MacroblockBlind P) (hs : P s) : P s.storeMotion := by
  unfold State.storeMotion
  split
  · exact hs
  · split
    · exact h.writeMvAll _ hs
    · split
      · exact h.writeMvAll _ hs
      · exact hs
      · exact h.mv _ _ _ (h.mv _ _ _ (h.mv _ _ _ (h.mv _ _ _ hs)))

theorem epilogue (h : MacroblockBlind P) (hs : P s) : P s.epilogue := by
  unfold State.epilogue State.noteDone
  exact h.slice _ _ (fun _ => rfl) (h.eng _ _ (h.type _ _ (h.storeMotion (h.q _ _ hs))))

theorem endMb (h : MacroblockBlind P) (hs : P s) : P s.endMb := h.eng _ _ (h.fsm _ _ (h.epilogue hs))

theorem mbIP (h : MacroblockBlind P) : KeepsAny P mbIP :=
  .bind (.update fun _ => h.mb _ _) fun _ => .getState_bind fun _ _ => .bind (h.intraMcbpc _) fun _ =>
    .bind h.putMb fun _ => .bind h.intraBody fun _ => .update fun _ => h.endMb

theorem mvdP (h : MacroblockBlind P) (p : Int) (fc : Nat) : KeepsAny P (mvdP p fc) :=
  .bind h.vlcNumber fun _ => .ite (fun _ => .pure _) fun _ => .bind h.getFlag fun _ =>
    .bind (.ite (fun _ => .bind h.getBits fun _ => .pure _) fun _ => .pure _) fun _ => .pure _

theorem mvdPair (h : MacroblockBlind P) (p : IVec) (fc : Nat) : KeepsAny P (mvdPair p fc) :=
  .bind (h.mvdP _ _) fun _ => .bind (h.mvdP _ _) fun _ => .pure _

theorem motion16 (h : MacroblockBlind P) : KeepsAny P motion16 :=
  .bind (.update fun _ => h.mb _ _) fun _ => .getState_bind fun _ _ => .bind (h.mvdPair _ _) fun _ =>
    .update fun _ => h.mb _ _

theorem motionField (h : MacroblockBlind P) {e : Raise} : KeepsAny P (motionField e) := by
  have one : ∀ p i, KeepsAny P (motionField1 p i) := fun _ _ => .getState_bind fun _ _ =>
    .bind (h.mvdPair _ _) fun _ => .update fun _ => h.mb _ _
  exact .bind (.update fun _ => h.mb _ _) fun _ => .bind h.getFlag fun _ => .bind h.getFlag fun _ =>
    .bind h.putMb fun _ => .getState_bind fun _ _ => .bind (one _ _) fun _ => one _ _

theorem motionFour (h : MacroblockBlind P) : KeepsAny P motionFour :=
  .bind (.update fun _ => h.mb _ _) fun _ => .forEach (fun _ => .getState_bind fun _ _ =>
    .bind (h.mvdPair _ _) fun _ => .update fun _ hs => h.mv _ _ _ (h.mb _ _ hs)) _

theorem motionOne (h : MacroblockBlind P) {e : Raise} : KeepsAny P (motionOne e) :=
  .getState_bind fun _ _ => .ite (fun _ => .bind h.getFlag fun _ => .ite (fun _ => h.motionField) fun _ => h.motion16)
    fun _ => h.motion16

theorem globalMotion (h : MacroblockBlind P) (hs : P s) : P s.globalMotion := by
  unfold State.globalMotion
  exact h.mb _ _ (h.mb _ _ hs)

theorem interMotion (h : MacroblockBlind P) {e : Raise} {four : Bool} : KeepsAny P (interMotion e four) :=
  .bind (.update fun _ => h.mb _ _) fun _ => .getState_bind fun _ _ => .ite (fun _ => h.motionFour) fun _ =>
    .ite (fun _ => .update fun _ => h.globalMotion) fun _ => h.motionOne

theorem interBlocks (h : MacroblockBlind P) : KeepsAny P interBlocks :=
  .forEach (fun _ => .getState_bind fun _ _ => .ite (fun _ => h.blockInterP _) fun _ => .update fun _ => h.mb _ _) _

theorem mcselFlag (h : MacroblockBlind P) {e : Raise} {four : Bool} : KeepsAny P (mcselFlag e four) :=
  .getState_bind fun _ _ => .ite (fun _ => .bind h.getFlag fun _ => h.putMb) fun _ => h.putMb

theorem interBody (h : MacroblockBlind P) {e : Raise} {d four : Bool} : KeepsAny P (interBody e d four) :=
  .bind h.mcselFlag fun _ => .bind h.vlcNumber fun _ => .bind (.update fun _ => h.mb _ _) fun _ =>
    .bind (.whenP fun _ => h.dquantP) fun _ => .getState_bind fun _ _ => .bind h.fieldDct fun _ =>
    .bind h.interMotion fun _ => h.interBlocks

theorem codedMb (h : MacroblockBlind P) {e : Raise} (c : Nat) : KeepsAny P (codedMb e c) :=
  .bind h.putMb fun _ => .ite (fun _ => h.intraBody) fun _ => h.interBody

theorem skippedMb (h : MacroblockBlind P) (hs : P s) : P s.skippedMb := by
  unfold State.skippedMb
  split
  · exact h.mb _ _ (h.mb _ _ (h.mb _ _ hs))
  · exact h.mb _ _ (h.mb _ _ (h.mb _ _ hs))

theorem mbPP (h : MacroblockBlind P) : KeepsAny P mbPP := by
  refine .bind (.update fun _ => h.mb _ _) fun _ => .getState_bind fun _ _ => .bind (h.interMcbpc _) fun r => ?_
  cases r with
  | none => exact .update fun _ hs => h.endMb (h.skippedMb hs)
  | some c => exact .bind (h.codedMb c) fun _ => .update fun _ => h.endMb

/-! ## Macroblocks of a B picture -/

theorem setLastMv (h : MacroblockBlind P) (d : Dir) (v : LastMv) (hs : P s) : P (s.setLastMv d v) :=
  h.slice _ _ (fun _ => by cases d <;> rfl) hs

theorem bMode (h : MacroblockBlind P) : KeepsAny P bMode := by
  have type : KeepsAny P bTypeP := by
    refine .bind h.vlc fun r => ?_
    cases btypeOf r with
    | some _ => exact .pure _
    | none => exact .raise trivial
  have pattern : ∀ b, KeepsAny P (bPattern b) := fun _ =>
    .ite (fun _ => h.putMb) fun _ => .bind h.getBits fun _ => h.putMb
  have fwd : KeepsAny P fieldSelectFwd := .bind h.getFlag fun _ => .bind h.getFlag fun _ => h.putMb
  have bwd : KeepsAny P fieldSelectBwd := .bind h.getFlag fun _ => .bind h.getFlag fun _ => h.putMb
  have flag : ∀ ty, KeepsAny P (bFieldFlag ty) := fun _ => .ite (fun _ => .pure _) fun _ => .bind h.getFlag fun _ =>
    .bind (.whenP fun _ => fwd) fun _ => .bind (.whenP fun _ => bwd) fun _ => .pure _
  have lace : ∀ ty, KeepsAny P (bInterlaced ty) := fun _ => .getState_bind fun _ _ =>
    .ite (fun _ => .bind h.fieldDct fun _ => flag _) fun _ => .pure _
  refine .bind h.getFlag fun _ => .ite (fun _ => .bind h.putMb fun _ => .pure _) fun _ => ?_
  exact .bind h.getFlag fun _ => .bind type fun _ => .bind (pattern _) fun _ => .getState_bind fun _ _ =>
    .bind (.whenP fun _ => h.dquantBP) fun _ => .bind (lace _) fun _ => .pure _

theorem bExplicit (h : MacroblockBlind P) (m : BMode) : KeepsAny P (bExplicit m) := by
  have one : ∀ d, KeepsAny P (bVector d) := fun _ => .bind (.update fun _ => h.mb _ _) fun _ => .getState_bind fun _ _ =>
    .bind (h.mvdPair _ _) fun _ => .update fun _ hs => h.setLastMv _ _ (h.mb _ _ hs)
  have field : ∀ d b, KeepsAny P (bFieldVector d b) := fun _ _ => .getState_bind fun _ _ =>
    .bind (h.mvdPair _ _) fun _ => .update fun _ hs => h.setLastMv _ _ (h.mb _ _ hs)
  have two : ∀ d, KeepsAny P (bFieldVectors d) := fun _ => .bind (.update fun _ => h.mb _ _) fun _ =>
    .bind (field _ _) fun _ => field _ _
  exact .bind (.update fun _ => h.mb _ _) fun _ =>
    .bind (.whenP fun _ => .ite (fun _ => two _) fun _ => one _) fun _ =>
    .whenP fun _ => .ite (fun _ => two _) fun _ => one _

theorem setDirect (h : MacroblockBlind P) {i : Fin 4} {p d : IVec} {a b : Int} (hs : P s) : P (s.setDirect i p d a b) := by
  unfold State.setDirect
  exact h.mb _ _ (h.mb _ _ hs)

theorem direct (h : MacroblockBlind P) (d : IVec) (hs : P s) : P (s.direct d) := by
  have g : P (s.setMvDir (dirForward ||| dirBackward)) := h.mb _ _ hs
  unfold State.direct
  dsimp only
  split
  · exact List.foldlRecOn _ _ (h.mb _ _ g) fun _ ht _ _ => h.setDirect ht
  · exact h.setDirect (h.setDirect (h.mb _ _ g))
  · exact h.mb _ _ (h.mb _ _ (h.setDirect g))

theorem bCoded (h : MacroblockBlind P) : KeepsAny P bCoded :=
  .bind h.bMode fun m => .bind h.putMb fun _ => .bind
    (.ite (fun _ => .ite (fun _ => .update fun _ => h.direct _) fun _ => .bind (h.mvdPair _ _) fun _ =>
      .update fun _ => h.direct _) fun _ => h.bExplicit m)
    fun _ => h.interBlocks

theorem colocSkip (h : MacroblockBlind P) (hs : P s) : P s.colocSkip := by
  unfold State.colocSkip
  exact h.mb _ _ (h.mb _ _ (h.mb _ _ hs))

theorem rowStart (h : MacroblockBlind P) (hs : P s) : P s.rowStart := by
  unfold State.rowStart
  split
  · exact h.slice _ _ (fun _ => rfl) hs
  · exact hs

theorem mbBP (h : MacroblockBlind P) : KeepsAny P mbBP :=
  .bind (.update fun _ => h.rowStart) fun _ => .getState_bind fun _ _ => .ite (fun _ => .update fun _ => h.fsm _ _)
    fun _ => .bind (.update fun _ => h.mb _ _) fun _ => .bind (.getState_bind fun _ _ =>
      .ite (fun _ => .update fun _ => h.colocSkip) fun _ => h.bCoded)
      fun _ => .update fun _ => h.endMb

theorem mbStudioP (h : MacroblockBlind P) : KeepsAny P mbStudioP :=
  .bind (.update fun _ => h.mb _ _) fun _ => .bind (.update fun _ => h.status _ _) fun _ => .raise trivial

/-! ## The instructions of the layer -/

theorem completes (h : MacroblockBlind P) {site : Site} {m : Parse Unit} (hm : KeepsAny P m) (hs : P s)
    (e : completes (Machine.runAt site m s) = .next t) : P t := next_of_completes e ▸ h.runAt hm hs

theorem inStores (h : MacroblockBlind P) {site : Site} {m : Parse Unit} (hm : KeepsAny P m) (hs : P s)
    (e : inStores s (Machine.runAt site m s) = .next t) : P t := next_of_inStores e ▸ h.runAt hm hs

/-- A coefficient operation run by itself. -/
theorem coefficient (h : MacroblockBlind P) {m : Parse Coef} (hm : KeepsAny P m) (hs : P s)
    (e : Machine.completes (Machine.runFor .macroblock (Machine.coefValues m) s) = .next t) : P t :=
  next_of_completes e ▸ h.coefValues hm hs

theorem execMvd (h : MacroblockBlind P) {p : Int} {fc : Nat} (hs : P s) (e : execMvd p fc s = .next t) : P t :=
  next_of_completes e ▸ h.runFor (.bind (h.mvdP p fc) fun _ => .pure _) hs

theorem execPredDc (h : MacroblockBlind P) {n : Fin 6} {d : Int} (hs : P s) (e : execPredDc n d s = .next t) : P t :=
  next_of_inStores e ▸ h.runFor (.bind (h.predDcP n d) fun _ => .pure _) hs

end MacroblockBlind

/-! ## The words of the macroblock's own slots -/

theorem Slice.sameMarks.trans {a b c : Slice} (h : a.sameMarks b) (k : b.sameMarks c) : a.sameMarks c := by
  unfold Slice.sameMarks at *
  rw [k, h]

theorem Slice.sameMarks.coordinates {a b : Slice} (h : a.sameMarks b) : b.mbX = a.mbX ∧ b.mbY = a.mbY := by
  rw [h]
  exact ⟨rfl, rfl⟩

/-- What a macroblock or block operation run in `s` leaves: canonical stores, of which the macroblock's own words alone
are written, PIC but for the quantisers, SLICE but for the counts and last vectors, and the registers of the sequence
and the host. -/
structure OwnFrame (s t : State) : Prop where
  wf : t.stores.wf = true
  picture : sameButPicture s t
  slots : ownSlotsOnly s t
  pic : t.pic = { s.pic with qscale := t.pic.qscale, chromaQscale := t.pic.chromaQscale }
  slice : s.slice.sameMarks t.slice

namespace OwnFrame

theorem refl (h : s.stores.wf = true) : OwnFrame s s where
  wf := h
  picture := ⟨rfl, rfl, rfl, rfl, rfl, rfl, rfl⟩
  slots := ⟨fun _ _ _ => rfl, fun _ _ _ => rfl, fun _ _ => rfl, fun _ _ => rfl, fun _ _ => rfl, rfl⟩
  pic := rfl
  slice := rfl

theorem mbW (h : OwnFrame s t) : t.mbW = s.mbW := by
  obtain ⟨_, _, hseq, _⟩ := h.picture
  rw [State.mbW, State.mbW, hseq]

/-- The addresses of the macroblock stay the same. -/
theorem mbi (h : OwnFrame s t) : t.mbi = s.mbi := by
  rw [State.mbi, State.mbi, h.mbW, h.slice.coordinates.1, h.slice.coordinates.2]

theorem blockPos (h : OwnFrame s t) (n : Fin 6) : t.blockPos n = s.blockPos n := by
  simp only [State.blockPos, State.blockX, State.blockY, State.planeW, h.mbW, h.slice.coordinates]

/-- A write of the stores keeps the frame when it keeps the canonical form and touches own words alone. -/
theorem updStores (h : OwnFrame s t) {f : Stores → Stores} (hwf : (f t.stores).wf = true)
    (hf : ownSlotsOnly t (t.updStores f)) : OwnFrame s (t.updStores f) := by
  refine ⟨hwf, h.picture, ?_, h.pic, h.slice⟩
  obtain ⟨dc, ac, mv, q, ty, part⟩ := h.slots
  obtain ⟨dc', ac', mv', q', ty', part'⟩ := hf
  refine ⟨fun n a ha => ?_, fun n a ha => ?_, fun a ha => ?_, fun a ha => ?_, fun a ha => ?_, part'.trans part⟩
  · exact (dc' n a fun k hk => h.blockPos k ▸ ha k hk).trans (dc n a ha)
  · exact (ac' n a fun k hk => h.blockPos k ▸ ha k hk).trans (ac n a ha)
  · exact (mv' a fun k => h.blockPos _ ▸ ha k).trans (mv a ha)
  · exact (q' a (h.mbi ▸ ha)).trans (q a ha)
  · exact (ty' a (h.mbi ▸ ha)).trans (ty a ha)

end OwnFrame

/-! ## The planes of DCMEM and ACMEM -/

/-- Blocks `n` and `k` have one plane: both are luma, or they are one block (20_memory.md R81). -/
def samePlane (n k : Fin 6) : Prop := n.val < 4 ∧ k.val < 4 ∨ n = k

theorem samePlane.luma {n k : Fin 6} (h : samePlane n k) : n.val < 4 ↔ k.val < 4 := by
  obtain ⟨hn, hk⟩ | rfl := h
  · exact ⟨fun _ => hk, fun _ => hn⟩
  · exact Iff.rfl

theorem Stores.dcPlane_eq (t : Stores) {n k : Fin 6} (h : samePlane n k) : t.dcPlane k = t.dcPlane n := by
  obtain ⟨hn, hk⟩ | rfl := h
  · rw [Stores.dcPlane, Stores.dcPlane, if_pos hk, if_pos hn]
  · rfl

theorem Stores.acPlane_eq (t : Stores) {n k : Fin 6} (h : samePlane n k) : t.acPlane k = t.acPlane n := by
  obtain ⟨hn, hk⟩ | rfl := h
  · rw [Stores.acPlane, Stores.acPlane, if_pos hk, if_pos hn]
  · rfl

theorem Stores.dcPlane_setDcPlane_same (t : Stores) (n : Fin 6) (m : Cells (BitVec 16)) :
    (t.setDcPlane n m).dcPlane n = m := by
  fin_cases n <;> rfl

theorem Stores.acPlane_setAcPlane_same (t : Stores) (n : Fin 6) (m : Cells (BitVec 16)) :
    (t.setAcPlane n m).acPlane n = m := by
  fin_cases n <;> rfl

theorem Stores.dcPlane_setDcPlane_other (t : Stores) {n k : Fin 6} (m : Cells (BitVec 16)) (h : ¬samePlane n k) :
    (t.setDcPlane n m).dcPlane k = t.dcPlane k := by
  unfold samePlane at h
  unfold Stores.setDcPlane Stores.dcPlane
  split_ifs <;> first | rfl | omega

theorem Stores.acPlane_setAcPlane_other (t : Stores) {n k : Fin 6} (m : Cells (BitVec 16)) (h : ¬samePlane n k) :
    (t.setAcPlane n m).acPlane k = t.acPlane k := by
  unfold samePlane at h
  unfold Stores.setAcPlane Stores.acPlane
  split_ifs <;> first | rfl | omega

/-- A write of a plane is seen in the blocks of that plane alone, at the written address alone. -/
theorem Stores.read_setDcPlane {t : Stores} {n k : Fin 6} {i a : Nat} {v : BitVec 16}
    (hwf : Cells.wf dcUnlisted (t.dcPlane n) = true) (h : samePlane n k → a ≠ i) :
    Cells.read dcUnlisted ((t.setDcPlane n (Cells.write dcUnlisted i v (t.dcPlane n))).dcPlane k) a
      = Cells.read dcUnlisted (t.dcPlane k) a := by
  by_cases hp : samePlane n k
  · rw [Stores.dcPlane_eq _ hp, Stores.dcPlane_setDcPlane_same, Stores.dcPlane_eq t hp, Cells.read_write_other hwf (h hp)]
  · rw [Stores.dcPlane_setDcPlane_other _ _ hp]

theorem Stores.read_setAcPlane {t : Stores} {n k : Fin 6} {i a : Nat} {v : BitVec 16}
    (hwf : Cells.wf 0 (t.acPlane n) = true) (h : samePlane n k → a ≠ i) :
    Cells.read 0 ((t.setAcPlane n (Cells.write 0 i v (t.acPlane n))).acPlane k) a = Cells.read 0 (t.acPlane k) a := by
  by_cases hp : samePlane n k
  · rw [Stores.acPlane_eq _ hp, Stores.acPlane_setAcPlane_same, Stores.acPlane_eq t hp, Cells.read_write_other hwf (h hp)]
  · rw [Stores.acPlane_setAcPlane_other _ _ hp]

theorem Stores.wf_dcPlane {t : Stores} (h : t.wf = true) (n : Fin 6) : Cells.wf dcUnlisted (t.dcPlane n) = true := by
  obtain ⟨luma, cb, cr, _⟩ := Stores.wf_iff.1 h
  unfold Stores.dcPlane
  split_ifs <;> assumption

theorem Stores.wf_acPlane {t : Stores} (h : t.wf = true) (n : Fin 6) : Cells.wf 0 (t.acPlane n) = true := by
  obtain ⟨_, _, _, luma, cb, cr, _⟩ := Stores.wf_iff.1 h
  unfold Stores.acPlane
  split_ifs <;> assumption

theorem Stores.wf_setDcPlane {t : Stores} (h : t.wf = true) (n : Fin 6) {m : Cells (BitVec 16)}
    (hm : Cells.wf dcUnlisted m = true) : (t.setDcPlane n m).wf = true := by
  obtain ⟨luma, cb, cr, rest⟩ := Stores.wf_iff.1 h
  rw [Stores.wf_iff]
  unfold Stores.setDcPlane
  split_ifs
  · exact ⟨hm, cb, cr, rest⟩
  · exact ⟨luma, hm, cr, rest⟩
  · exact ⟨luma, cb, hm, rest⟩

theorem Stores.wf_setAcPlane {t : Stores} (h : t.wf = true) (n : Fin 6) {m : Cells (BitVec 16)}
    (hm : Cells.wf 0 m = true) : (t.setAcPlane n m).wf = true := by
  obtain ⟨dl, db, dr, luma, cb, cr, rest⟩ := Stores.wf_iff.1 h
  rw [Stores.wf_iff]
  unfold Stores.setAcPlane
  split_ifs
  · exact ⟨dl, db, dr, hm, cb, cr, rest⟩
  · exact ⟨dl, db, dr, luma, hm, cr, rest⟩
  · exact ⟨dl, db, dr, luma, cb, hm, rest⟩

/-- The stores other than DCMEM. -/
theorem Stores.setDcPlane_rest (t : Stores) (n : Fin 6) (m : Cells (BitVec 16)) :
    (t.setDcPlane n m).acPlane = t.acPlane ∧ (t.setDcPlane n m).mvmem = t.mvmem ∧ (t.setDcPlane n m).qmem = t.qmem
      ∧ (t.setDcPlane n m).mbtype = t.mbtype ∧ (t.setDcPlane n m).partmem = t.partmem := by
  unfold Stores.setDcPlane
  split_ifs <;> exact ⟨rfl, rfl, rfl, rfl, rfl⟩

/-- The stores other than ACMEM. -/
theorem Stores.setAcPlane_rest (t : Stores) (n : Fin 6) (m : Cells (BitVec 16)) :
    (t.setAcPlane n m).dcPlane = t.dcPlane ∧ (t.setAcPlane n m).mvmem = t.mvmem ∧ (t.setAcPlane n m).qmem = t.qmem
      ∧ (t.setAcPlane n m).mbtype = t.mbtype ∧ (t.setAcPlane n m).partmem = t.partmem := by
  unfold Stores.setAcPlane
  split_ifs <;> exact ⟨rfl, rfl, rfl, rfl, rfl⟩

/-! ## Each write of a store touches the macroblock's own words -/

namespace OwnFrame

variable {n : Fin 6}

theorem writeDc (h : OwnFrame s t) (v : BitVec 16) : OwnFrame s (t.writeDc n v) := by
  refine h.updStores (Stores.wf_setDcPlane h.wf n (Cells.wf_write (Stores.wf_dcPlane h.wf n))) ?_
  obtain ⟨ac, mv, q, ty, part⟩ := Stores.setDcPlane_rest t.stores n
    (Cells.write dcUnlisted (t.blockPos n) v (t.stores.dcPlane n))
  refine ⟨fun k a ha => ?_, fun k a _ => ?_, fun a _ => ?_, fun a _ => ?_, fun a _ => ?_, part⟩
  · exact Stores.read_setDcPlane (Stores.wf_dcPlane h.wf n) fun hp => ha n hp.luma
  · exact congrArg (fun f => Cells.read 0 (f k) a) ac
  · exact congrArg (fun m => Cells.read (Vec.zero 16) m a) mv
  · exact congrArg (fun m => Cells.read 0 m a) q
  · exact congrArg (fun m => Cells.read MbType.zero m a) ty

theorem writeAc (h : OwnFrame s t) {w : Nat} (hw : w < 16) (v : BitVec 16) : OwnFrame s (t.writeAc n w v) := by
  refine h.updStores (Stores.wf_setAcPlane h.wf n (Cells.wf_write (Stores.wf_acPlane h.wf n))) ?_
  obtain ⟨dc, mv, q, ty, part⟩ := Stores.setAcPlane_rest t.stores n
    (Cells.write 0 (16 * t.blockPos n + w) v (t.stores.acPlane n))
  refine ⟨fun k a _ => ?_, fun k a ha => ?_, fun a _ => ?_, fun a _ => ?_, fun a _ => ?_, part⟩
  · exact congrArg (fun f => Cells.read dcUnlisted (f k) a) dc
  · refine Stores.read_setAcPlane (Stores.wf_acPlane h.wf n) fun hp he => ha n hp.luma ?_
    omega
  · exact congrArg (fun m => Cells.read (Vec.zero 16) m a) mv
  · exact congrArg (fun m => Cells.read 0 m a) q
  · exact congrArg (fun m => Cells.read MbType.zero m a) ty

theorem writeQ (h : OwnFrame s t) (v : BitVec 9) : OwnFrame s (t.writeQ v) := by
  obtain ⟨dl, db, dr, al, ab, ar, q, rest⟩ := Stores.wf_iff.1 h.wf
  refine h.updStores (Stores.wf_iff.2 ⟨dl, db, dr, al, ab, ar, Cells.wf_write q, rest⟩) ?_
  exact ⟨fun _ _ _ => rfl, fun _ _ _ => rfl, fun _ _ => rfl, fun a ha => Cells.read_write_other q ha, fun _ _ => rfl, rfl⟩

theorem writeMv (h : OwnFrame s t) (k : Fin 4) (v : Mv) : OwnFrame s (t.writeMv k v) := by
  obtain ⟨dl, db, dr, al, ab, ar, q, mv, rest⟩ := Stores.wf_iff.1 h.wf
  refine h.updStores (Stores.wf_iff.2 ⟨dl, db, dr, al, ab, ar, q, Cells.wf_write mv, rest⟩) ?_
  exact ⟨fun _ _ _ => rfl, fun _ _ _ => rfl, fun a ha => Cells.read_write_other mv (ha k), fun _ _ => rfl,
    fun _ _ => rfl, rfl⟩

theorem writeMbType (h : OwnFrame s t) (w : MbType) : OwnFrame s (t.writeMbType w) := by
  obtain ⟨dl, db, dr, al, ab, ar, q, mv, ty, part⟩ := Stores.wf_iff.1 h.wf
  refine h.updStores (Stores.wf_iff.2 ⟨dl, db, dr, al, ab, ar, q, mv, Cells.wf_write ty, part⟩) ?_
  exact ⟨fun _ _ _ => rfl, fun _ _ _ => rfl, fun _ _ => rfl, fun _ _ => rfl, fun a ha => Cells.read_write_other ty ha, rfl⟩

theorem publishRow (h : OwnFrame s t) (r : Nat) : OwnFrame s (t.publishRow r) :=
  h.updStores h.wf
    ⟨fun _ _ _ => rfl, fun _ _ _ => rfl, fun _ _ => rfl, fun _ _ => rfl, fun _ _ => rfl, rfl⟩

theorem setQscale (h : OwnFrame s t) (q : BitVec 9) : OwnFrame s (t.setQscale q) := by
  refine ⟨h.wf, h.picture, h.slots, ?_, h.slice⟩
  rw [State.setQscale_pic, h.pic]

/-- The frame is a property that no write of the macroblock layer changes. -/
theorem macroblockBlind (s : State) : MacroblockBlind (OwnFrame s) where
  pos _ _ h := ⟨h.wf, h.picture, h.slots, h.pic, h.slice⟩
  fsm _ _ h := ⟨h.wf, h.picture, h.slots, h.pic, h.slice⟩
  status _ _ h := ⟨h.wf, h.picture, h.slots, h.pic, h.slice⟩
  mb _ _ h := ⟨h.wf, h.picture, h.slots, h.pic, h.slice⟩
  eng _ _ h := ⟨h.wf, h.picture, h.slots, h.pic, h.slice⟩
  port _ _ h := ⟨h.wf, h.picture, h.slots, h.pic, h.slice⟩
  quant _ q h := h.setQscale q
  slice _ _ hf h := ⟨h.wf, h.picture, h.slots, h.pic, h.slice.trans (hf _)⟩
  row _ r h := h.publishRow r
  dc _ _ v h := h.writeDc v
  ac _ _ _ v hw h := h.writeAc hw v
  q _ v h := h.writeQ v
  mv _ k v h := h.writeMv k v
  type _ w h := h.writeMbType w

end OwnFrame

/-- Settles O39: the frame of the own slots is a property that no write of the macroblock layer changes. -/
theorem macroblockWritesItsOwnSlots : Obligations.MacroblockWritesItsOwnSlots := by
  unfold Obligations.MacroblockWritesItsOwnSlots
  intro i s t hi hwf e
  have h := OwnFrame.macroblockBlind s
  have hs := OwnFrame.refl hwf
  suffices g : OwnFrame s t from ⟨g.picture, g.slots, g.pic, g.slice⟩
  obtain rfl | rfl | rfl | rfl | rfl | rfl | ⟨p, f, rfl⟩ | ⟨n, c, rfl⟩ | ⟨n, rfl⟩ | ⟨l, r, v, rfl⟩ | ⟨k, rfl⟩ | ⟨k, rfl⟩
    | ⟨n, d, rfl⟩ | ⟨n, rfl⟩ := hi
  · exact h.inStores h.mbIP hs e
  · exact h.inStores h.mbPP hs e
  · exact h.inStores h.mbBP hs e
  · exact h.completes h.mbStudioP hs e
  · exact h.completes h.dquantP hs e
  · exact h.coefficient h.coefEsc3P hs e
  · exact h.execMvd hs e
  · exact h.inStores (h.blockIntraP n c) hs e
  · exact h.completes (h.blockInterP n) hs e
  · exact h.coefficient (h.withSign l r v) hs e
  · exact h.coefficient (h.coefEsc1P k) hs e
  · exact h.coefficient (h.coefEsc2P k) hs e
  · exact h.execPredDc hs e
  · exact h.inStores (.update fun _ => h.predAc n) hs e

end Sys2Proof.Machine
end

section
/-! The frame of every instruction over what the host and the peers own (20_memory.md R70, R86; 10_state.md R55). -/

namespace Sys2Proof.Machine

variable {α : Type} {s t u : State}

/-- The bitstream, its length and the views of the peer are as they were. -/
def sameInput (s t : State) : Prop := t.bs = s.bs ∧ t.len = s.len ∧ t.coloc = s.coloc

/-- All that the host and the peer own is as it was. -/
def sameOutside (s t : State) : Prop := sameInput s t ∧ t.ctrl = s.ctrl ∧ t.cfg = s.cfg

theorem sameInput_refl (s : State) : sameInput s s := ⟨rfl, rfl, rfl⟩

theorem sameOutside_refl (s : State) : sameOutside s s := ⟨sameInput_refl s, rfl, rfl⟩

/-- The header operations write nothing of it. -/
theorem headerBlind_sameOutside (s : State) : HeaderBlind (sameOutside s) where
  pos _ _ h := h
  fsm _ _ h := h
  status _ _ h := h
  seq _ _ h := h
  tFrame _ h := h

/-- The macroblock layer writes nothing of it. -/
theorem macroblockBlind_sameOutside (s : State) : MacroblockBlind (sameOutside s) where
  pos _ _ h := h
  fsm _ _ h := h
  status _ _ h := h
  mb _ _ h := h
  eng _ _ h := h
  port _ _ h := h
  quant _ _ h := h
  slice _ _ _ h := h
  row _ _ h := h
  dc _ _ _ h := h
  ac _ _ _ _ _ h := h
  q _ _ h := h
  mv _ _ _ h := h
  type _ _ h := h

/-- The parse leaves alone what the host and the peer own, whatever it raises. -/
abbrev KeepsOutside (s : State) (m : Parse α) : Prop := KeepsAny (sameOutside s) m

namespace KeepsOutside

/-! ## The picture header -/

theorem timeIncrP : KeepsOutside s timeIncrP := by
  have h := headerBlind_sameOutside s
  have unary : ∀ n, KeepsOutside s (timeUnary n) := by
    intro n
    induction n with
    | zero => exact .raise trivial
    | succ n ih =>
      exact .bind h.getFlag fun _ => .ite (fun _ => .bind (.update fun _ hu => hu) fun _ => ih) fun _ => .pure _
  refine .bind (.update fun _ hu => hu) fun _ => .getState_bind fun _ _ => h.runLayout (fun f => nomatch f) ?_ _
  intro a _
  cases a
  exact .getState_bind fun _ _ => unary _

theorem tiHeal : KeepsOutside s (update State.tiHeal) := .update fun _ hu => hu

theorem vopTimes : KeepsOutside s vopTimes := by
  have skip : KeepsOutside s skipInverted := .bind (.update fun _ hu => hu) fun _ => .raise trivial
  have fields : KeepsOutside s repairFields := .bind (.update fun _ hu => hu) fun _ => .getState_bind fun _ _ =>
    .whenP fun _ => skip
  exact .getState_bind fun _ _ => .ite (fun _ => .bind (.update fun _ hu => hu) fun _ => .getState_bind fun _ _ =>
    .bind (.whenP fun _ => skip) fun _ => .bind (.update fun _ hu => hu) fun _ => .getState_bind fun _ _ =>
    .whenP fun _ => fields) fun _ => .update fun _ hu => hu

theorem newpredFields {ends : Tag → Raise} {tg : Tag} : KeepsOutside s (newpredFields ends tg) :=
  .getState_bind fun _ _ => (headerBlind_sameOutside s).runLayout (fun _ _ => .pure _) (fun e => nomatch e) _

theorem trajPoint {ex : Tag → Raise} {family : Tag} {bad : Raise} : KeepsOutside s (trajPoint ex family bad) := by
  have h := macroblockBlind_sameOutside s
  have component : ∀ e, KeepsOutside s (trajComponent e bad) := fun _ =>
    .bind h.vlcNumber fun _ => .ite (fun _ => .pure _) fun _ => h.getFolded
  have items : ∀ l v, KeepsOutside s (trajItems ex family bad l v) := by
    intro l
    induction l with
    | nil => exact fun _ => .pure _
    | cons i l ih =>
      intro v
      cases i with
      | component c => exact .bind (.bind (component _) fun _ => .pure _) fun _ => ih _
      | marker t o => exact .bind (.getState_bind fun _ _ => .bind (.whenP fun _ => h.marker) fun _ => .pure _) fun _ => ih _
  exact .getState_bind fun _ _ => items _ _

theorem spriteTrajP : KeepsOutside s spriteTrajP := by
  refine .forEach (fun i => ?_) _
  exact .getState_bind fun _ _ => .ite (fun _ => .bind trajPoint fun _ => .update fun _ hu => hu)
    fun _ => .update fun _ hu => hu

theorem packetTrajP : KeepsOutside s packetTrajP :=
  .withTag (.forEach (fun _ => .getState_bind fun _ _ => .whenP fun _ => .bind trajPoint fun _ => .pure _) _)

/-- The resolution of the sprite writes PIC and the log alone. -/
theorem resolveWarp (h : sameOutside s u) : sameOutside s u.resolveWarp := by
  have log : ∀ c : Warp, sameOutside s (if c.noOffset then u.log .gmcIdentity else u) := by
    intro c
    split <;> exact h
  unfold State.resolveWarp
  dsimp only
  split
  · exact log _
  · split
    · exact h
    · split <;> exact h

theorem gmcResolveP : KeepsOutside s gmcResolveP :=
  .getState_bind fun _ _ => .ite (fun _ => .raise trivial) fun _ => .update fun _ => resolveWarp

theorem takeVop (f : VopField) (v : Nat) : KeepsOutside s (takeVop f v) := by
  cases f
  case alphaPresent => exact .pure _
  case quant => exact .ite (fun _ => .raise trivial) fun _ => .update fun _ hu => hu
  case fCode | bCode =>
    exact .ite (fun _ => .bind (.update fun _ hu => hu) fun _ => .raise trivial) fun _ => .update fun _ hu => hu
  all_goals exact .update fun _ hu => hu

theorem actVop (e : VopAct) (env : Env VopField) : KeepsOutside s (actVop e env) := by
  cases e with
  | repairLowDelay => exact .update fun _ hu => hu
  | timeIncr => exact timeIncrP
  | probe => exact .getState_bind fun _ _ => .whenP fun _ => .update fun _ hu => hu
  | times => exact vopTimes
  | notCoded => exact .raise trivial
  | newpred => exact newpredFields
  | sprite => exact .bind spriteTrajP fun _ => gmcResolveP
  | zeroSprite => exact .update fun _ hu => hu

theorem vopP : KeepsOutside s vopP := by
  have h := headerBlind_sameOutside s
  exact .bind (.update fun _ hu => hu) fun _ =>
    .bind (.getState_bind fun _ _ => .ite (fun _ => .raise trivial) fun _ => .pure _) fun _ => .getState_bind fun _ _ =>
    .bind (.forEach (fun l => h.runLayout takeVop actVop l) _) fun _ => .bind (.update fun _ hu => hu) fun _ =>
    .bind (.update fun _ hu => hu) fun _ => h.finishOk

/-! ## The resync unit -/

/-- The advance writes SLICE and ROWPROG[self] alone. -/
theorem advance (h : sameOutside s u) : sameOutside s u.advance := by
  unfold State.advance
  dsimp only
  split <;> exact h

theorem resyncPeekP : KeepsOutside s resyncPeekP := by
  have stuffing : ∀ n, KeepsOutside s (skipStuffing n) := by
    intro n
    induction n with
    | zero => exact .pure _
    | succ n ih =>
      exact .getState_bind fun _ _ => .ite (fun _ => .bind (macroblockBlind_sameOutside s).skipBits fun _ => ih)
        fun _ => .pure _
  have marker : KeepsOutside s markerAnswer := .getState_bind fun _ _ => .ite (fun _ => .pure _) fun _ =>
    .ite (fun _ => .raise trivial) fun _ => .ite (fun _ => .pure _) fun _ => .pure _
  exact .getState_bind fun _ _ => .ite (fun _ => .pure _) fun _ => .bind (stuffing _) fun _ => .getState_bind fun _ _ =>
    .ite (fun _ => .pure _) fun _ => .ite (fun _ => marker) fun _ => .pure _

theorem emitMb (h : sameOutside s u) : sameOutside s u.emitMb := h

theorem answer (r : Boundary) (h : sameOutside s u) : sameOutside s (u.answer r) :=
  (macroblockBlind_sameOutside s).eng _ _ ((macroblockBlind_sameOutside s).fsm _ _ ((headerBlind_sameOutside s).post _ h))

theorem peekStep : KeepsOutside s peekStep :=
  .bind resyncPeekP fun r => .update fun _ hu => answer r (advance (emitMb hu))

theorem packetExtension : KeepsOutside s packetExtension := by
  have h := macroblockBlind_sameOutside s
  have modulo : ∀ n, KeepsOutside s (moduloBase n) := by
    intro n
    induction n with
    | zero => exact .raise trivial
    | succ n ih => exact .bind h.getFlag fun _ => .ite (fun _ => ih) fun _ => .pure _
  have range : KeepsOutside s extRange := .bind h.getBits fun _ => .whenP fun _ => .update fun _ hu => hu
  exact .getState_bind fun _ _ => .bind (modulo _) fun _ => .bind h.marker fun _ => .bind h.skipBits fun _ =>
    .bind h.marker fun _ => .bind h.skipBits fun _ => .bind h.skipBits fun _ => .bind (.whenP fun _ => packetTrajP)
    fun _ => .bind (.whenP fun _ => range) fun _ => .whenP fun _ => range

theorem packetHeaderP : KeepsOutside s packetHeaderP := by
  have h := macroblockBlind_sameOutside s
  have zeros : ∀ n l, KeepsOutside s (packetPrefix n l) := by
    intro n
    induction n with
    | zero => exact fun _ => .pure _
    | succ n ih => exact fun _ => .bind h.getFlag fun _ => .ite (fun _ => .pure _) fun _ => ih _
  have lead : KeepsOutside s packetLead := .getState_bind fun _ _ => .ite (fun _ => .raise trivial) fun _ =>
    .bind (zeros _ _) fun _ => .ite (fun _ => .pure _) fun _ => .raise trivial
  have flag : ∀ b, KeepsOutside s (packetExtFlag b) := fun _ => .ite (fun _ => h.getFlag) fun _ => .pure _
  have number : KeepsOutside s packetNumber := .getState_bind fun _ _ => .bind h.getBits fun _ =>
    .ite (fun _ => .raise trivial) fun _ => .ite (fun _ => .raise trivial) fun _ => .pure _
  have quant : KeepsOutside s packetQuant := .getState_bind fun _ _ => .bind h.getBits fun _ =>
    .whenP fun _ => .update fun _ hu => hu
  exact .bind lead fun _ => .getState_bind fun _ _ => .bind (flag _) fun _ => .bind number fun _ => .bind quant fun _ =>
    .bind (flag _) fun _ => .bind (.whenP fun _ => packetExtension) fun _ => .bind (.whenP fun _ => newpredFields)
    fun _ => .bind (.update fun _ hu => hu) fun _ => .pure _

theorem acceptPacket (searching : Bool) (num : Nat) (h : sameOutside s u) :
    sameOutside s (u.acceptPacket searching num) := by
  have b := macroblockBlind_sameOutside s
  unfold State.acceptPacket
  refine b.eng _ _ (b.fsm _ _ ((headerBlind_sameOutside s).post _ ?_))
  split <;> exact h

theorem runPacket (h : sameOutside s u) : sameOutside s u.runPacket := by
  unfold State.runPacket
  dsimp only
  split
  · next e => exact acceptPacket _ _ (packetHeaderP.ok h e)
  · next e =>
    have ht := (packetHeaderP.error h e).1
    split
    · exact ht
    · exact (macroblockBlind_sameOutside s).takeRaise .packet _ ht

/-! ## Partitions -/

theorem updPart (f : PartRec → PartRec) (h : sameOutside s u) : sameOutside s (u.updPart f) := h

theorem putPart {f : PartRec → PartRec} : KeepsOutside s (putPart f) := .update fun _ => updPart f

theorem recordQuant (h : sameOutside s u) : sameOutside s u.recordQuant := by
  unfold State.recordQuant
  exact (macroblockBlind_sameOutside s).q _ _ (updPart _ h)

theorem partVector (v : Mv) (h : sameOutside s u) : sameOutside s (u.partVector v) := by
  unfold State.partVector
  exact (macroblockBlind_sameOutside s).writeMvAll v (updPart _ h)

theorem partSkip (h : sameOutside s u) : sameOutside s u.partSkip := by
  unfold State.partSkip
  exact partVector _ (updPart _ h)

theorem partDcs (tg : Tag) : KeepsOutside s (partDcs tg) := by
  have h := macroblockBlind_sameOutside s
  refine .forEach (fun n => ?_) _
  exact .bind (.withTag (h.dcDiffP n)) fun _ => .bind putPart fun _ => .bind (h.predDcP n _) fun _ =>
    .update fun _ => updPart _

theorem partStepI : KeepsOutside s partStepI := by
  have h := macroblockBlind_sameOutside s
  have mode : ∀ n, KeepsOutside s (partModeI n) := by
    intro n
    induction n with
    | zero => exact .raise trivial
    | succ n ih =>
      exact .getState_bind fun _ _ => .ite (fun _ => .pure _) fun _ => .bind h.vlcNumber fun _ =>
        .ite (fun _ => ih) fun _ => .pure _
  refine .getState_bind fun _ _ => .bind (mode _) fun r => ?_
  cases r with
  | none => exact .pure _
  | some c =>
    exact .bind (.bind putPart fun _ => .bind (.whenP fun _ => h.dquantP) fun _ => .bind (.update fun _ => recordQuant)
      fun _ => partDcs _) fun _ => .pure _

theorem partMotion (four : Bool) : KeepsOutside s (partMotion four) := by
  have h := macroblockBlind_sameOutside s
  have pair : ∀ p fc, KeepsOutside s (withTag .partAMv (mvdPair p fc)) := fun _ _ => .withTag (h.mvdPair _ _)
  have eight : ∀ n, KeepsOutside s (partMotion8 n) := fun _ => .getState_bind fun _ _ => .bind (pair _ _) fun _ =>
    .update fun _ hu => h.mv _ _ _ (updPart _ hu)
  exact .getState_bind fun _ _ => .bind putPart fun _ => .ite (fun _ => .forEach eight _) fun _ =>
    .ite (fun _ => .update fun _ => partVector _) fun _ =>
    .getState_bind fun _ _ => .bind (pair _ _) fun _ => .update fun _ => partVector _

theorem partStepP : KeepsOutside s partStepP := by
  have h := macroblockBlind_sameOutside s
  have mode : ∀ n, KeepsOutside s (partModeP n) := by
    intro n
    induction n with
    | zero => exact .raise trivial
    | succ n ih =>
      exact .getState_bind fun _ _ => .ite (fun _ => .pure _) fun _ => .bind h.getFlag fun _ =>
        .ite (fun _ => .pure _) fun _ => .bind h.vlcNumber fun _ => .ite (fun _ => ih) fun _ => .pure _
  have mcsel : ∀ b, KeepsOutside s (partMcsel b) := fun _ => .getState_bind fun _ _ =>
    .whenP fun _ => .bind h.getFlag fun _ => putPart
  refine .getState_bind fun _ _ => .bind (mode _) fun r => ?_
  cases r with
  | marker => exact .pure _
  | skip => exact .bind (.update fun _ => partSkip) fun _ => .pure _
  | coded c =>
    exact .bind (.bind putPart fun _ => .ite (fun _ => .update fun _ => partVector _) fun _ => .bind (mcsel _) fun _ =>
      partMotion _) fun _ => .pure _

theorem partitionA {m : Parse Bool} (hm : KeepsOutside s m) (n : Nat) (bits value : ResyncPatterns → Nat) :
    KeepsOutside s (partitionA m n bits value) := by
  have h := macroblockBlind_sameOutside s
  have loop : ∀ fuel c, KeepsOutside s (partALoop m fuel c) := by
    intro fuel
    induction fuel with
    | zero => exact fun _ => .pure _
    | succ fuel ih =>
      exact fun _ => .bind hm fun _ => .ite (fun _ => .bind (.update fun _ hu => hu) fun _ => ih _) fun _ => .pure _
  have range : ∀ c, KeepsOutside s (partRange c) := fun _ => .getState_bind fun _ _ =>
    .ite (fun _ => .raise trivial) fun _ => .pure _
  have stuffing : ∀ fuel, KeepsOutside s (partStuffing n fuel) := by
    intro fuel
    induction fuel with
    | zero => exact .pure _
    | succ fuel ih =>
      exact .getState_bind fun _ _ => .ite (fun _ => .bind h.skipBits fun _ => ih) fun _ => .pure _
  have marker : ∀ a b, KeepsOutside s (partMarker a b) := fun _ _ => .bind h.getBits fun _ =>
    .ite (fun _ => .pure _) fun _ => .raise trivial
  exact .bind (.update fun _ hu => hu) fun _ => .getState_bind fun _ _ => .bind (loop _ _) fun _ => .bind (range _)
    fun _ => .getState_bind fun _ _ => .bind (stuffing _) fun _ => .bind (marker _ _) fun _ =>
    .bind (.update fun _ hu => hu) fun _ => .update fun _ hu => hu

theorem partBStepI : KeepsOutside s partBStepI := by
  have h := macroblockBlind_sameOutside s
  exact .bind (.bind h.getFlag fun _ => putPart) fun _ => .bind h.vlcNumber fun _ => .update fun _ hu => hu

theorem partBStepP : KeepsOutside s partBStepP := by
  have h := macroblockBlind_sameOutside s
  have quant : KeepsOutside s partDquant := .getState_bind fun _ _ => .whenP fun _ => h.dquantP
  have intra : KeepsOutside s partBIntra := .bind (.bind h.getFlag fun _ => putPart) fun _ => .bind h.vlcNumber fun _ =>
    .bind quant fun _ => .bind (.update fun _ => recordQuant) fun _ => .bind (partDcs _) fun _ => .update fun _ => updPart _
  have inter : KeepsOutside s partBInter := .bind h.vlcNumber fun _ => .bind quant fun _ =>
    .update fun _ hu => updPart _ (recordQuant hu)
  exact .getState_bind fun _ _ => .ite (fun _ => intra) fun _ =>
    .ite (fun _ => .update fun _ hu => updPart _ (recordQuant hu)) fun _ => inter

theorem partitionB {m : Parse Unit} (hm : KeepsOutside s m) : KeepsOutside s (partitionB m) := by
  have loop : ∀ n, KeepsOutside s (partBLoop m n) := by
    intro n
    induction n with
    | zero => exact .pure _
    | succ n ih => exact .bind hm fun _ => .bind (.update fun _ hu => hu) fun _ => ih
  exact .bind (.update fun _ hu => hu) fun _ => .getState_bind fun _ _ => .bind (loop _) fun _ =>
    .bind (.update fun _ hu => hu) fun _ => .update fun _ hu => hu

theorem mbPartitionedP : KeepsOutside s mbPartitionedP := by
  have h := macroblockBlind_sameOutside s
  have block : ∀ n, KeepsOutside s (partBlock n) := fun _ => .getState_bind fun _ _ => .ite (fun _ => h.blockIntraP _ _)
    fun _ => .ite (fun _ => h.blockInterP _) fun _ => .update fun _ hu => hu
  have texture : KeepsOutside s partTexture := .getState_bind fun _ _ => .ite (fun _ => .update fun _ hu => hu) fun _ =>
    .withTag (.forEach block _)
  exact .bind (.update fun _ => h.mb _ _) fun _ => .bind (.update fun _ hu => hu) fun _ => .bind texture fun _ =>
    .bind (.update fun _ hu => hu) fun _ => .bind resyncPeekP fun r =>
    .update fun _ hu => answer _ (advance (emitMb (h.epilogue hu)))

/-! ## Commands -/

theorem command {m : Parse Unit} (hm : KeepsOutside s m) (e : runCommand m s = .next t) : sameOutside s t := by
  refine next_of_completes e ▸ ?_
  split
  · exact (macroblockBlind_sameOutside s).runAt hm (sameOutside_refl s)
  · exact sameOutside_refl s

theorem setFsm {f : Fsm} : KeepsOutside s (update fun u => u.setFsm f) := .update fun _ hu => hu

theorem badCommand : KeepsOutside s badCommand := .raise trivial

theorem setposP : KeepsOutside s setposP :=
  .getState_bind fun _ _ => .ite (fun _ => .bind (.update fun _ hu => hu) fun _ => .update fun _ hu => hu)
    fun _ => badCommand

theorem clrlogP : KeepsOutside s clrlogP := .bind (.update fun _ hu => hu) fun _ => .update fun _ hu => hu

theorem stored {site : Site} {m : Parse Unit} (hm : KeepsOutside s m) (e : inStores s (runAt site m s) = .next t) :
    sameOutside s t := (macroblockBlind_sameOutside s).inStores hm (sameOutside_refl s) e

theorem completed {site : Site} {m : Parse Unit} (hm : KeepsOutside s m) (e : completes (runAt site m s) = .next t) :
    sameOutside s t := (macroblockBlind_sameOutside s).completes hm (sameOutside_refl s) e

theorem coefficient {m : Parse Coef} (hm : KeepsOutside s m)
    (e : completes (runFor .macroblock (coefValues m) s) = .next t) : sameOutside s t :=
  (macroblockBlind_sameOutside s).coefficient hm (sameOutside_refl s) e

end KeepsOutside

/-! ## The resolver -/

theorem sameInput_post {c : ResultCode} (h : sameInput s u) : sameInput s (u.post c) := h

theorem sameInput_setFsm {f : Fsm} (h : sameInput s u) : sameInput s (u.setFsm f) := h

theorem sameInput_updSeq {f : Seq → Seq} (h : sameInput s u) : sameInput s (u.updSeq f) := h

theorem sameInput_setCfg {c : Cfg} (h : sameInput s u) : sameInput s { u with cfg := c } := h

theorem sameInput_switchPermutation (h : sameInput s u) : sameInput s u.switchPermutation := by
  unfold State.switchPermutation
  split
  · exact sameInput_setCfg (sameInput_updSeq h)
  · exact h

theorem sameInput_updCtrl {f : Ctrl → Ctrl} (h : sameInput s u) : sameInput s (u.updCtrl f) := h

/-- The resolver writes SEQ, CTRL.QUIRK and CFG.IDCT_PERM. -/
theorem sameInput_resolveQuirks (h : sameInput s u) : sameInput s u.resolveQuirks := by
  unfold State.resolveQuirks
  exact sameInput_switchPermutation (sameInput_updCtrl (sameInput_updSeq h))

/-- The resolver raises nothing, so a property that its parse keeps holds of the state that it leaves. -/
theorem keeps_quirkResolveP : Keeps (sameInput s) (fun _ => False) quirkResolveP :=
  .update fun _ hu => sameInput_post (sameInput_resolveQuirks hu)

theorem keeps_resolveQuirksP : Keeps (sameInput s) (fun _ => False) resolveQuirksP :=
  .bind keeps_quirkResolveP fun _ => .update fun _ hu => sameInput_setFsm (sameInput_post hu)

theorem sameInput_execQuirkResolve (e : exec .quirkResolve s = .next t) : sameInput s t :=
  next_of_completes e ▸ keeps_quirkResolveP.runAt (fun _ _ _ k => k.elim) (sameInput_refl s)

theorem sameInput_execCmdResolveQuirks (e : exec .cmdResolveQuirks s = .next t) : sameInput s t := by
  refine next_of_completes e ▸ ?_
  split
  · exact keeps_resolveQuirksP.runAt (fun _ _ _ k => k.elim) (sameInput_refl s)
  · exact sameInput_refl s

/-! ## Every instruction -/

/-- An instruction other than the two that resolve the quirks leaves alone what the host and the peer own. -/
theorem sameOutside_exec {i : Instr} (hq : i ≠ .quirkResolve) (hc : i ≠ .cmdResolveQuirks)
    (e : exec i s = .next t) : sameOutside s t := by
  have h := headerBlind_sameOutside s
  have b := macroblockBlind_sameOutside s
  have hs := sameOutside_refl s
  cases i with
  | quirkResolve => exact absurd rfl hq
  | cmdResolveQuirks => exact absurd rfl hc
  | scVoObj _ | scVol _ | scReserved _ | scVos | scVosEnd | scUser | scGop | scSessionErr | scVisobj | scVop | scSlice
  | scExt | scOther _ => exact h.completes (h.takeStartCode _) hs e
  | scan => exact h.completes h.scanP hs e
  | vos => exact h.completes h.vosP hs e
  | vo => exact h.completes h.voP hs e
  | vol => exact h.completes h.volP hs e
  | volStudio => exact h.completes h.volStudioP hs e
  | loadQmatrix k => exact h.completes (h.loadQmatrixP k) hs e
  | cplxEst => exact h.completes h.cplxEstP hs e
  | extUnit => exact h.completes h.extP hs e
  | gop => exact h.completes h.gopP hs e
  | userdata => exact h.completes h.userdataP hs e
  | vop => exact KeepsOutside.vopP.completed e
  | timeIncr => exact KeepsOutside.timeIncrP.completed e
  | tiHeal => exact KeepsOutside.tiHeal.completed e
  | spriteTraj => exact KeepsOutside.spriteTrajP.completed e
  | gmcResolve => exact KeepsOutside.gmcResolveP.completed e
  | getAmv n => exact next_of_completes e ▸ b.runFor (.pure _) hs
  | mbI => exact KeepsOutside.stored b.mbIP e
  | mbP => exact KeepsOutside.stored b.mbPP e
  | mbB => exact KeepsOutside.stored b.mbBP e
  | mbStudio => exact KeepsOutside.completed b.mbStudioP e
  | mvd p fc => exact b.execMvd hs e
  | dquant => exact KeepsOutside.completed b.dquantP e
  | blockIntra n c => exact KeepsOutside.stored (b.blockIntraP n c) e
  | blockInter n => exact KeepsOutside.completed (b.blockInterP n) e
  | coefDirect l r v => exact KeepsOutside.coefficient (b.withSign l r v) e
  | coefEsc1 tb => exact KeepsOutside.coefficient (b.coefEsc1P tb) e
  | coefEsc2 tb => exact KeepsOutside.coefficient (b.coefEsc2P tb) e
  | coefEsc3 => exact KeepsOutside.coefficient b.coefEsc3P e
  | predDc n d => exact b.execPredDc hs e
  | predAc n => exact KeepsOutside.stored (.update fun _ => b.predAc n) e
  | resyncPeek => exact KeepsOutside.peekStep.completed e
  | videoPacketHeader => exact next_of_completes e ▸ KeepsOutside.runPacket hs
  | partitionAI => exact (KeepsOutside.partitionA KeepsOutside.partStepI _ _ _).stored e
  | partitionAP => exact (KeepsOutside.partitionA KeepsOutside.partStepP _ _ _).stored e
  | partitionBI => exact (KeepsOutside.partitionB KeepsOutside.partBStepI).stored e
  | partitionBP => exact (KeepsOutside.partitionB KeepsOutside.partBStepP).stored e
  | mbPartitioned => exact KeepsOutside.mbPartitionedP.stored e
  | cmdNop => exact next_of_completes e ▸ hs
  | cmdScanHeaders | cmdDecodePicture => exact KeepsOutside.setFsm.command e
  | cmdSetpos => exact KeepsOutside.setposP.command e
  | cmdClrlog => exact KeepsOutside.clrlogP.command e
  | cmdReserved6 | cmdReserved7 | cmdReserved8 | cmdReserved9 | cmdReserved10 | cmdReserved11 | cmdReserved12
  | cmdReserved13 | cmdReserved14 | cmdReserved15 => exact KeepsOutside.badCommand.command e

/-- No instruction writes the bitstream, its length or the views of the peer. -/
theorem sameInput_exec {i : Instr} (e : exec i s = .next t) : sameInput s t := by
  by_cases hq : i = .quirkResolve
  · subst hq
    exact sameInput_execQuirkResolve e
  · by_cases hc : i = .cmdResolveQuirks
    · subst hc
      exact sameInput_execCmdResolveQuirks e
    · exact (sameOutside_exec hq hc e).1

/-- Settles O8, instruction by instruction: each writes through operations that leave alone what the host and the peer
own, and the two that resolve the quirks leave alone BS, LEN and the views of the peer. -/
theorem bitstreamIsReadOnly : Obligations.BitstreamIsReadOnly := by
  unfold Obligations.BitstreamIsReadOnly
  intro i s t e
  obtain ⟨hbs, hlen, hcoloc⟩ := sameInput_exec e
  refine ⟨fun a => by rw [hbs], hbs, hlen, hcoloc, fun hq hc => (sameOutside_exec hq hc e).2⟩

end Sys2Proof.Machine
end

section
/-! Reading at a position: what each primitive of the bit reader answers in a state that stands at bit `p` of the
bitstream of `s`, whatever else it holds (20_memory.md R73 to R78). -/

namespace Sys2Proof.Machine

variable {s t u : State} {e bad : Raise} {n p q k : Nat} {tb : VlcTable}

/-! ## Positions inside BS -/

theorem State.lenFits_iff : s.lenFits = true ↔ s.endPos < 2 ^ s.cfg.cursorBits ∧ s.endPos < 4294967296 := by
  simp only [State.lenFits, State.endPos, decide_eq_true_eq]

/-- Under the launch premise a position inside BS is one that the cursor can hold. -/
theorem State.lt_cursor (hl : s.lenFits = true) (hp : p ≤ s.endPos) : p < 2 ^ s.cfg.cursorBits :=
  lt_of_le_of_lt hp (State.lenFits_iff.1 hl).1

theorem State.setPos_eq_atBit (hl : s.lenFits = true) (hp : p ≤ s.endPos) : s.setPos p = s.atBit p := by
  have h : (s.setPos p).bitpos = p := State.pos_setPos (State.lt_cursor hl hp)
  exact congrArg s.atBit h

@[simp] theorem State.atBit_atBit (s : State) (p q : Nat) : (s.atBit p).atBit q = s.atBit q := rfl

theorem State.bitsAre_iff {v : Nat} : s.bitsAre p n v = true ↔ p + n ≤ s.endPos ∧ s.memRead p n = v := by
  simp only [State.bitsAre, Bool.and_eq_true, decide_eq_true_eq]

/-- A read of two runs of bits is the read of each. -/
theorem State.memRead_add (s : State) (p m n : Nat) :
    s.memRead p (m + n) = 2 ^ n * s.memRead p m + s.memRead (p + m) n := by
  induction n with
  | zero => simp [State.memRead]
  | succ n ih =>
    rw [← Nat.add_assoc, State.memRead, ih, State.memRead, Nat.pow_succ, Nat.add_assoc p m n]
    ring

/-- Adjacent runs of bits, from the value of both. -/
theorem State.bitsAre_split {m v : Nat} (h : s.bitsAre p (m + n) v = true) :
    s.bitsAre p m (v / 2 ^ n) = true ∧ s.bitsAre (p + m) n (v % 2 ^ n) = true := by
  obtain ⟨hin, hv⟩ := State.bitsAre_iff.1 h
  have hlt : s.memRead (p + m) n < 2 ^ n := State.memRead_lt
  rw [State.memRead_add] at hv
  rw [State.bitsAre_iff, State.bitsAre_iff, ← hv]
  refine ⟨⟨by omega, ?_⟩, by omega, ?_⟩
  · rw [Nat.mul_add_div (Nat.two_pow_pos n), Nat.div_eq_of_lt hlt, Nat.add_zero]
  · rw [Nat.mul_add_mod, Nat.mod_eq_of_lt hlt]

/-! ## A state at a position of the stream -/

/-- `u` stands at bit `p` of the bitstream of `s`, under the tables of `s`. -/
structure ReadsAt (s : State) (p : Nat) (u : State) : Prop where
  bs : u.bs = s.bs
  len : u.len = s.len
  cfg : u.cfg = s.cfg
  pos : u.bitpos = p

namespace ReadsAt

theorem refl (s : State) : ReadsAt s s.pos s := ⟨rfl, rfl, rfl, rfl⟩

theorem atBit (h : ReadsAt s p u) (q : Nat) : ReadsAt s q (u.atBit q) := ⟨h.bs, h.len, h.cfg, rfl⟩

theorem endPos (h : ReadsAt s p u) : u.endPos = s.endPos := by rw [State.endPos, State.endPos, h.len]

theorem lenFits (h : ReadsAt s p u) (hl : s.lenFits = true) : u.lenFits = true := by
  rw [State.lenFits_iff, h.endPos, h.cfg]
  exact State.lenFits_iff.1 hl

theorem memRead (h : ReadsAt s p u) : u.memRead q n = s.memRead q n := State.memRead_congr h.bs h.len

theorem setPos (h : ReadsAt s p u) (hl : s.lenFits = true) (hq : q ≤ s.endPos) : u.setPos q = u.atBit q :=
  State.setPos_eq_atBit (h.lenFits hl) (h.endPos.symm ▸ hq)

theorem peek (h : ReadsAt s p u) : u.peek n = s.memRead p n := by
  rw [State.peek, h.memRead, State.pos, h.pos]

theorem getBits (h : ReadsAt s p u) (hl : s.lenFits = true) (hn : p + n ≤ s.endPos) :
    getBits e n u = .ok (s.memRead p n) (u.atBit (p + n)) := by
  have hpos : u.pos = p := h.pos
  rw [getBits_ok (by rw [hpos, h.endPos]; exact hn), hpos, h.memRead, h.setPos hl hn]

theorem getFlag (h : ReadsAt s p u) (hl : s.lenFits = true) (hn : p + 1 ≤ s.endPos) :
    getFlag e u = .ok (s.bitAt p == 1) (u.atBit (p + 1)) := by
  rw [Machine.getFlag, Parse.bind_ok (h.getBits hl hn), State.memRead_one]
  rfl

/-- A flag whose bit is known. -/
theorem getFlag_of_bitsAre (h : ReadsAt s p u) (hl : s.lenFits = true) {v : Nat} (hv : s.bitsAre p 1 v = true) :
    Machine.getFlag e u = .ok (v == 1) (u.atBit (p + 1)) := by
  obtain ⟨hin, rfl⟩ := State.bitsAre_iff.1 hv
  rw [h.getFlag hl hin, State.memRead_one]

theorem getFolded (h : ReadsAt s p u) (hl : s.lenFits = true) (hn : p + n ≤ s.endPos) :
    getFolded e n u = .ok (Machine.unfold n (s.memRead p n)) (u.atBit (p + n)) := by
  rw [Machine.getFolded, Parse.bind_ok (h.getBits hl hn)]
  rfl

/-- A marker bit that is 1. -/
theorem marker (h : ReadsAt s p u) (hl : s.lenFits = true) (hm : s.bitsAre p 1 1 = true) :
    marker e u = .ok () (u.atBit (p + 1)) := by
  rw [Machine.marker, Parse.bind_ok (h.getFlag_of_bitsAre hl hm)]
  rfl

theorem matchesRow (h : ReadsAt s p u) (hp : p < 2 ^ s.cfg.cursorBits) : u.matchesRow = (s.setPos p).matchesRow := by
  funext row
  have hpos : u.pos = p := h.pos
  rw [State.matchesRow, State.matchesRow, hpos, h.endPos, h.memRead, State.pos_setPos hp, State.endPos_setPos,
    State.memRead_setPos]

/-- A code word that stands at the bit. -/
theorem vlc (h : ReadsAt s p u) (hl : s.lenFits = true) (hp : p ≤ s.endPos) {row : VlcRow}
    (hr : s.readsRow tb p row = true) : vlc e tb u = .ok (some row.sym) (u.atBit (p + row.len)) := by
  have hf : (u.cfg.table tb).find? u.matchesRow = some row := by
    rw [h.matchesRow (State.lt_cursor hl hp), h.cfg]
    exact eq_of_beq hr
  have hpos : u.pos = p := h.pos
  have hin : p + row.len ≤ s.endPos := by
    rw [← h.endPos, ← hpos]
    exact find_inside hf
  rw [vlc_found hf, hpos, h.setPos hl hin]

end ReadsAt

/-! ## Symbols -/

/-- One symbol is a code word that stands at the bit. -/
theorem State.readsNumbers_one : s.readsNumbers [(tb, n)] p = some q ↔
    ∃ row, s.readsRow tb p row = true ∧ numberOf tb (some row.sym) = some n ∧ p + row.len = q := by
  simp only [State.readsNumbers, State.readsRow, beq_iff_eq]
  constructor
  · intro h
    split at h
    · next row hrow =>
      split at h
      · next hn => exact ⟨row, hrow, hn, Option.some.inj h⟩
      · cases h
    · cases h
  · rintro ⟨row, hrow, hn, rfl⟩
    rw [hrow]
    exact if_pos hn

/-- A run of symbols is the first one and the rest after it. -/
theorem State.readsNumbers_cons {l : List (VlcTable × Nat)} : s.readsNumbers ((tb, n) :: l) p = some q ↔
    ∃ m, s.readsNumbers [(tb, n)] p = some m ∧ s.readsNumbers l m = some q := by
  simp only [State.readsNumbers_one]
  simp only [State.readsNumbers, State.readsRow, beq_iff_eq]
  constructor
  · intro h
    split at h
    · next row hrow =>
      split at h
      · next hn => exact ⟨_, ⟨row, hrow, hn, rfl⟩, h⟩
      · cases h
    · cases h
  · rintro ⟨_, ⟨row, hrow, hn, rfl⟩, h⟩
    rw [hrow]
    exact (if_pos hn).trans h

theorem State.readsRow_inside (hl : s.lenFits = true) (hp : p ≤ s.endPos) {row : VlcRow}
    (h : s.readsRow tb p row = true) : p + row.len ≤ s.endPos := by
  have hf : ((s.setPos p).cfg.table tb).find? (s.setPos p).matchesRow = some row := eq_of_beq h
  have := find_inside hf
  rwa [State.pos_setPos (State.lt_cursor hl hp)] at this

theorem State.readsNumbers_le {l : List (VlcTable × Nat)} (h : s.readsNumbers l p = some q) : p ≤ q := by
  induction l generalizing p with
  | nil => exact le_of_eq (Option.some.inj h)
  | cons c l ih =>
    obtain ⟨tb, n⟩ := c
    obtain ⟨m, hm, hrest⟩ := State.readsNumbers_cons.1 h
    obtain ⟨row, _, _, rfl⟩ := State.readsNumbers_one.1 hm
    have := ih hrest
    omega

theorem State.readsNumber_inside (hl : s.lenFits = true) (hp : p ≤ s.endPos)
    (h : s.readsNumbers [(tb, n)] p = some q) : q ≤ s.endPos := by
  obtain ⟨row, hrow, _, rfl⟩ := State.readsNumbers_one.1 h
  exact State.readsRow_inside hl hp hrow

/-- A symbol is in the alphabet of its table. -/
theorem State.readsNumber_le_greatest (h : s.readsNumbers [(tb, n)] p = some q) : n ≤ greatestSymbol tb := by
  obtain ⟨row, _, hn, _⟩ := State.readsNumbers_one.1 h
  unfold numberOf at hn
  split at hn
  · next heq =>
    split at hn
    · next hle => exact Option.some.inj hn ▸ hle
    · cases hn
  all_goals cases hn

/-- A symbol that stands at the bit. -/
theorem ReadsAt.vlcNumber (h : ReadsAt s p u) (hl : s.lenFits = true) (hp : p ≤ s.endPos)
    (hn : s.readsNumbers [(tb, n)] p = some q) : vlcNumber e bad tb u = .ok n (u.atBit q) := by
  obtain ⟨row, hrow, hnum, rfl⟩ := State.readsNumbers_one.1 hn
  rw [Machine.vlcNumber, Parse.bind_ok (h.vlc hl hp hrow), hnum]
  rfl

/-- No code word at the cursor: INVALID, which a table of numbers answers with its raise. -/
theorem vlcNumber_invalid (h : s.readsInvalid tb = true) : vlcNumber e bad tb s = .error bad s := by
  have hrow : ∀ row ∈ s.cfg.table tb, s.matchesRow row = false ∧ s.runsOutIn row = false := by
    intro row hmem
    have := List.all_eq_true.1 h row hmem
    simpa only [Bool.and_eq_true, Bool.not_eq_true'] using this
  have hnone : (s.cfg.table tb).find? s.matchesRow = none :=
    List.find?_eq_none.2 fun row hmem => by rw [(hrow row hmem).1]; exact Bool.false_ne_true
  have hwhole : (s.cfg.table tb).any s.runsOutIn = false :=
    List.any_eq_false.2 fun row hmem => by rw [(hrow row hmem).2]; exact Bool.false_ne_true
  rw [vlcNumber, Parse.bind_ok (vlc_none hnone hwhole)]
  rfl

end Sys2Proof.Machine
end

section
/-! SPRITE_TRAJ with no point, with one, and with an invalid length (42_gmc.md R212). -/

namespace Sys2Proof.Machine

variable {s u : State} {ex : Tag → Raise} {e bad : Raise} {family : Tag} {a b n p lx ly : Nat}

/-- What a length and the bits after it stand for: 0 for no bits, else the folded number (20_memory.md R76). -/
def foldedComponent (n v : Nat) : Int := if n = 0 then 0 else unfold n v

/-- A component fits a 16-bit register: its length is at most 14. -/
theorem toS_foldedComponent (hn : n ≤ 14) {v : Nat} (hv : v < 2 ^ n) :
    toS 16 (foldedComponent n v) = BitVec.ofInt 16 (foldedComponent n v) := by
  have hpow : 2 ^ n ≤ 2 ^ 14 := Nat.pow_le_pow_right (by decide) hn
  have hcast : (2 : Int) ^ n = (2 ^ n : Nat) := by norm_cast
  have hb : -16384 < foldedComponent n v ∧ foldedComponent n v < 16384 := by
    unfold foldedComponent unfold
    rw [hcast]
    split_ifs <;> omega
  exact toS_ofInt (by norm_num; omega) (by norm_num; omega)

/-- A component that stands at the bit: its length, then its bits. -/
theorem ReadsAt.trajComponent (h : ReadsAt s p u) (hl : s.lenFits = true) (hp : p ≤ s.endPos)
    (hn : s.readsNumbers [(.spriteTraj, n)] p = some a) (hin : a + n ≤ s.endPos) :
    trajComponent e bad u = .ok (foldedComponent n (s.memRead a n)) (u.atBit (a + n)) := by
  rw [Machine.trajComponent, Parse.bind_ok (h.vlcNumber hl hp hn)]
  by_cases h0 : n = 0
  · subst h0
    rfl
  · rw [if_neg h0, (h.atBit a).getFolded hl hin, foldedComponent, if_neg h0]
    rfl

/-- A marker of a point that is not left out. -/
theorem ReadsAt.trajMarker (h : ReadsAt s p u) (hl : s.lenFits = true) (hm : s.bitsAre p 1 1 = true) {t : Tag} {o : Bool}
    (ho : (o && u.divx413) = false) (v : IVec) :
    trajItem ex family bad v (.marker t o) u = .ok v (u.atBit (p + 1)) := by
  rw [trajItem, Parse.getState_bind, ho, Bool.not_false, whenP_true, Parse.bind_ok (h.marker hl hm)]
  rfl

theorem ReadsAt.trajComponentItem (h : ReadsAt s p u) (hl : s.lenFits = true) (hp : p ≤ s.endPos)
    (hn : s.readsNumbers [(.spriteTraj, n)] p = some a) (hin : a + n ≤ s.endPos) (v : IVec) (c : Comp) :
    trajItem ex family bad v (.component c) u =
      .ok (v.setComp c (foldedComponent n (s.memRead a n))) (u.atBit (a + n)) := by
  rw [trajItem, Parse.bind_ok (h.trajComponent hl hp hn hin)]
  rfl

/-- A whole point as the default CFG.GRAMMAR has it, outside DIVX413. -/
theorem trajPoint_default (hl : s.lenFits = true) (hg : s.cfg.layout.traj = Config.trajItems) (hd : s.divx413 = false)
    (hx : s.readsNumbers [(.spriteTraj, lx)] s.pos = some a) (hmid : s.bitsAre (a + lx) 1 1 = true)
    (hy : s.readsNumbers [(.spriteTraj, ly)] (a + lx + 1) = some b) (hafter : s.bitsAre (b + ly) 1 1 = true) :
    trajPoint ex family bad s = .ok ⟨foldedComponent lx (s.memRead a lx), foldedComponent ly (s.memRead b ly)⟩
      (s.atBit (b + ly + 1)) := by
  obtain ⟨hmid', _⟩ := State.bitsAre_iff.1 hmid
  obtain ⟨hafter', _⟩ := State.bitsAre_iff.1 hafter
  have hpos := State.readsNumbers_le hx
  have r := ReadsAt.refl s
  have hdo : ∀ (q : Nat) (o : Bool), (o && (s.atBit q).divx413) = false := by
    intro q o
    rw [show (s.atBit q).divx413 = false from hd, Bool.and_false]
  rw [trajPoint, Parse.getState_bind, hg, Config.trajItems, trajItems,
    Parse.bind_ok (r.trajComponentItem hl (by omega) hx (by omega) _ _), trajItems,
    Parse.bind_ok ((r.atBit _).trajMarker hl hmid (hdo _ _) _), State.atBit_atBit, trajItems,
    Parse.bind_ok ((r.atBit _).trajComponentItem hl (by omega) hy (by omega) _ _), State.atBit_atBit, trajItems,
    Parse.bind_ok ((r.atBit _).trajMarker hl hafter (hdo _ _) _)]
  rfl

/-- A point beyond the number of points is cleared. -/
theorem trajStep_cleared {i : Fin 4} (h : s.seq.numSpriteWarpingPoints.toNat ≤ i.val) :
    trajStep i s = .ok () (s.setTraj i ⟨0, 0⟩) := by
  rw [trajStep, Parse.getState_bind, if_neg (by omega)]
  rfl

theorem trajStep_read {i : Fin 4} (h : i.val < s.seq.numSpriteWarpingPoints.toNat) {v : IVec}
    (hv : trajPoint truncated .vop (invalid .gmcVlc) s = .ok v u) : trajStep i s = .ok () (u.setTraj i v) := by
  rw [trajStep, Parse.getState_bind, if_pos h, Parse.bind_ok hv]
  rfl

theorem toS_zero : toS 16 0 = 0 := by decide

theorem Quad.set_four {α : Type} (q : Quad α) (a b c d : α) :
    (((q.set 0 a).set 1 b).set 2 c).set 3 d = ⟨a, b, c, d⟩ := rfl

/-- The four points, of which at most the first is read. -/
theorem spriteTrajP_of_first {v : IVec} (h : trajStep 0 s = .ok () (u.setTraj 0 v))
    (hn : u.seq.numSpriteWarpingPoints.toNat ≤ 1) :
    spriteTrajP s = .ok () { u with
      pic := { u.pic with spriteTraj := ⟨⟨toS 16 v.x, toS 16 v.y⟩, ⟨0, 0⟩, ⟨0, 0⟩, ⟨0, 0⟩⟩ } } := by
  rw [spriteTrajP, forEach_cons, Parse.bind_ok h, forEach_cons, Parse.bind_ok (trajStep_cleared hn), forEach_cons,
    Parse.bind_ok (trajStep_cleared (Nat.le_succ_of_le hn)), forEach_cons,
    Parse.bind_ok (trajStep_cleared (Nat.le_succ_of_le (Nat.le_succ_of_le hn)))]
  simp only [forEach_nil, Parse.pure_apply, State.setTraj, State.updPic, toS_zero, Quad.set_four]

theorem trajPoint_invalid (hg : s.cfg.layout.traj = Config.trajItems) (h : s.readsInvalid .spriteTraj = true) :
    trajPoint ex family bad s = .error bad s := by
  have hitem : ∀ c v, trajItem ex family bad v (.component c) s = .error bad s := fun c v => by
    rw [trajItem, trajComponent]
    exact Parse.bind_error (Parse.bind_error (vlcNumber_invalid h))
  rw [trajPoint, Parse.getState_bind, hg, Config.trajItems, trajItems, Parse.bind_error (hitem _ _)]

/-- Settles O30: the points are cleared, or the first one is read part by part, or its length raises. -/
theorem spriteTrajReadsOnePoint : Obligations.SpriteTrajReadsOnePoint := by
  unfold Obligations.SpriteTrajReadsOnePoint
  intro s hl hg
  refine ⟨fun hn => ?_, fun lx a ly b hn hd hx hmid hy hafter => ?_, fun hn hbad => ?_⟩
  · have hn : s.seq.numSpriteWarpingPoints.toNat = 0 := by rw [hn]; rfl
    have h0 := spriteTrajP_of_first (trajStep_cleared (i := 0) (le_of_eq hn)) (by omega)
    rw [toS_zero] at h0
    exact congrArg completes (runAt_ok h0)
  · have hn : s.seq.numSpriteWarpingPoints.toNat = 1 := by rw [hn]; rfl
    have hp := trajStep_read (i := 0) (by rw [hn]; decide) (trajPoint_default hl hg hd hx hmid hy hafter)
    have h1 := spriteTrajP_of_first hp (le_of_eq hn)
    rw [toS_foldedComponent (State.readsNumber_le_greatest hx) State.memRead_lt,
      toS_foldedComponent (State.readsNumber_le_greatest hy) State.memRead_lt] at h1
    exact congrArg completes (runAt_ok h1)
  · have hn : s.seq.numSpriteWarpingPoints.toNat = 1 := by rw [hn]; rfl
    have hstep : trajStep 0 s = .error (invalid .gmcVlc) s := by
      rw [trajStep, Parse.getState_bind, if_pos (by rw [hn]; decide), Parse.bind_error (trajPoint_invalid hg hbad)]
    have h2 : spriteTrajP s = .error (invalid .gmcVlc) s := by
      rw [spriteTrajP, forEach_cons, Parse.bind_error hstep]
    exact ⟨_, congrArg completes (runAt_error h2), rfl, rfl, rfl⟩

end Sys2Proof.Machine
end

section
/-! The first pass over a slice of one macroblock (45_resync.md R340 to R345): what its operations write, the record of
that macroblock, and the marker after it. -/

namespace Sys2Proof.Machine

variable {s t u : State} {n p q : Nat}

/-! ## The walk over the slice and its end -/

theorem State.nextInSlice_mbTotal (s : State) : s.nextInSlice.mbTotal = s.mbTotal := rfl

theorem State.nextInSlice_resyncMbi (s : State) : s.nextInSlice.resyncMbi = s.resyncMbi := rfl

theorem ReadsAt.nextInSlice (h : ReadsAt s p u) : ReadsAt s p u.nextInSlice := ⟨h.bs, h.len, h.cfg, h.pos⟩

/-- A pass that decodes one macroblock and then meets the marker, or the end of the picture. -/
theorem partALoop_one {step : Parse Bool} {k : Nat} (hstep : step s = .ok true u)
    (hstop : step u.nextInSlice = .ok false u.nextInSlice) : partALoop step (k + 1) 0 s = .ok 1 u.nextInSlice := by
  rw [partALoop, Parse.bind_ok hstep, if_pos rfl, Parse.update_bind]
  cases k with
  | zero => rfl
  | succ k =>
    rw [partALoop, Parse.bind_ok hstop]
    rfl

theorem partRange_ok {c : Nat} (h0 : c ≠ 0) (h : s.resyncMbi + c ≤ s.mbTotal) : partRange c s = .ok () s := by
  rw [partRange, Parse.getState_bind, if_neg (by omega)]
  rfl

/-- No stuffing stands before the marker (R344). -/
theorem partStuffing_none {fuel : Nat} (h : s.peek n ≠ 1) : partStuffing n fuel s = .ok () s := by
  cases fuel with
  | zero => rfl
  | succ fuel =>
    rw [partStuffing, Parse.getState_bind, if_neg h]
    rfl

theorem ReadsAt.partMarker (h : ReadsAt s p u) (hl : s.lenFits = true) {v : Nat} (hv : s.bitsAre p n v = true) :
    partMarker n v u = .ok () (u.atBit (p + n)) := by
  obtain ⟨hin, rfl⟩ := State.bitsAre_iff.1 hv
  rw [Machine.partMarker, Parse.bind_ok (h.getBits hl hin), if_pos rfl]
  rfl

/-- What the end of a pass of `c` macroblocks leaves of `u`, with the cursor at bit `q` and the quantiser `quant`. -/
def State.endPass (u : State) (q c : Nat) (quant : BitVec 9) : State :=
  ((((u.atBit q).updSlice fun l => { l with mbNumLeft := toU 20 c }).updPic
    fun p => { p with qscale := quant }).post .ok).setFsm .partB

/-- PARTITION_A on a slice of one macroblock whose step leaves `u` at the marker. -/
theorem partitionA_one {step : Parse Bool} {bits value : ResyncPatterns → Nat} (hl : s.lenFits = true)
    (hroom : s.resyncMbi < s.mbTotal) (hstep : step s.toSliceStart = .ok true u)
    (hstop : step u.nextInSlice = .ok false u.nextInSlice) (r : ReadsAt s p u) (hseq : u.seq = s.seq)
    (hslice : u.slice = s.toSliceStart.slice) (hstuff : s.memRead p n ≠ 1)
    (hmark : s.bitsAre p (bits s.cfg.resync) (value s.cfg.resync) = true) :
    partitionA step n bits value s =
      .ok () (u.nextInSlice.endPass (p + bits s.cfg.resync) 1 s.pic.qscale) := by
  obtain ⟨k, hk⟩ : ∃ k, s.mbTotal - s.resyncMbi = k + 1 := ⟨s.mbTotal - s.resyncMbi - 1, by omega⟩
  have r' := r.nextInSlice
  have htotal : u.nextInSlice.mbTotal = s.mbTotal := by
    rw [State.nextInSlice_mbTotal, State.mbTotal, State.mbW, State.mbH, hseq]
    rfl
  have hfirst : u.nextInSlice.resyncMbi = s.resyncMbi := by
    rw [State.nextInSlice_resyncMbi, State.resyncMbi, State.mbW, hseq, hslice]
    rfl
  have hloop : partALoop step (s.toSliceStart.mbTotal - s.toSliceStart.resyncMbi) 0 s.toSliceStart =
      .ok 1 u.nextInSlice := by
    show partALoop step (s.mbTotal - s.resyncMbi) 0 _ = _
    rw [hk]
    exact partALoop_one hstep hstop
  have hrange := partRange_ok (s := u.nextInSlice) (c := 1) Nat.one_ne_zero (by rw [htotal, hfirst]; omega)
  have hnone : partStuffing n u.nextInSlice.turns u.nextInSlice = .ok () u.nextInSlice :=
    partStuffing_none (by rw [r'.peek]; exact hstuff)
  rw [partitionA, Parse.update_bind, Parse.getState_bind, Parse.bind_ok hloop, Parse.bind_ok hrange,
    Parse.getState_bind, Parse.bind_ok hnone]
  show (partMarker (bits s.cfg.resync) (value s.cfg.resync) >>= _) _ = _
  rw [Parse.bind_ok (r'.partMarker hl hmark)]
  rfl

/-! ## What the step of one macroblock may write -/

/-- `t` with the records of `s`. -/
def State.withRecords (t s : State) : State := { t with stores := { t.stores with partmem := s.stores.partmem } }

/-- The state `u` inside the first pass over the slice of `s`, at bit `p`: of the stores the record and the own words of
the first macroblock alone are written, and of the registers none but BITPOS, MB and the model's own fields. -/
structure FirstPass (s : State) (p : Nat) (u : State) : Prop where
  reads : ReadsAt s p u
  frame : OwnFrame s.toSliceStart (u.withRecords s)
  records : Cells.wf PartRec.zero u.stores.partmem = true
  others : ∀ j, j ≠ 0 → u.partAt j = s.partAt j
  pic : u.pic = s.pic
  status : u.status = s.status
  port : u.port = s.port
  slice : u.slice = s.toSliceStart.slice

namespace FirstPass

theorem start (h : s.stores.wf = true) : FirstPass s s.pos s.toSliceStart where
  reads := ⟨rfl, rfl, rfl, rfl⟩
  frame := OwnFrame.refl h
  records := by
    obtain ⟨_, _, _, _, _, _, _, _, _, part⟩ := Stores.wf_iff.1 h
    exact part
  others _ _ := rfl
  pic := rfl
  status := rfl
  port := rfl
  slice := rfl

theorem seq (h : FirstPass s p u) : u.seq = s.seq := by
  obtain ⟨_, _, hseq, _⟩ := h.frame.picture
  exact hseq

theorem ctrl (h : FirstPass s p u) : u.ctrl = s.ctrl := by
  obtain ⟨_, _, _, _, hctrl, _⟩ := h.frame.picture
  exact hctrl

theorem mbi (h : FirstPass s p u) : u.mbi = s.resyncMbi := by
  rw [State.mbi, State.mbW, h.seq, h.slice]
  rfl

theorem blockPos (h : FirstPass s p u) (k : Fin 6) : u.blockPos k = s.toSliceStart.blockPos k := h.frame.blockPos k

theorem resyncMbi (h : FirstPass s p u) : u.resyncMbi = s.resyncMbi := by
  rw [State.resyncMbi, State.mbW, h.seq, h.slice]
  rfl

/-- The record of the first macroblock is the first of PARTMEM. -/
theorem partIndex (h : FirstPass s p u) : u.partIndex = 0 := by
  rw [State.partIndex, h.mbi, h.resyncMbi, Nat.sub_self]

theorem partHere (h : FirstPass s p u) : u.partHere = u.partAt 0 := congrArg u.partAt h.partIndex

theorem atBit (h : FirstPass s p u) (q : Nat) : FirstPass s q (u.atBit q) where
  reads := h.reads.atBit q
  frame := ⟨h.frame.wf, h.frame.picture, h.frame.slots, h.frame.pic, h.frame.slice⟩
  records := h.records
  others := h.others
  pic := h.pic
  status := h.status
  port := h.port
  slice := h.slice

theorem setDir (h : FirstPass s p u) (k : Fin 6) (d : Bool) : FirstPass s p (u.setDir k d) where
  reads := ⟨h.reads.bs, h.reads.len, h.reads.cfg, h.reads.pos⟩
  frame := ⟨h.frame.wf, h.frame.picture, h.frame.slots, h.frame.pic, h.frame.slice⟩
  records := h.records
  others := h.others
  pic := h.pic
  status := h.status
  port := h.port
  slice := h.slice

theorem writeDc (h : FirstPass s p u) (k : Fin 6) (v : BitVec 16) : FirstPass s p (u.writeDc k v) where
  reads := ⟨h.reads.bs, h.reads.len, h.reads.cfg, h.reads.pos⟩
  frame := by
    have e : (u.writeDc k v).withRecords s = (u.withRecords s).writeDc k v := by
      unfold State.withRecords State.writeDc State.updStores Stores.setDcPlane
      dsimp only
      split_ifs <;> rfl
    rw [e]
    exact h.frame.writeDc v
  records := by
    rw [show (u.writeDc k v).stores.partmem = u.stores.partmem from (Stores.setDcPlane_rest _ _ _).2.2.2.2]
    exact h.records
  others j hj := by
    rw [State.partAt, show (u.writeDc k v).stores.partmem = u.stores.partmem from (Stores.setDcPlane_rest _ _ _).2.2.2.2]
    exact h.others j hj
  pic := h.pic
  status := h.status
  port := h.port
  slice := h.slice

theorem writeQ (h : FirstPass s p u) (v : BitVec 9) : FirstPass s p (u.writeQ v) where
  reads := ⟨h.reads.bs, h.reads.len, h.reads.cfg, h.reads.pos⟩
  frame := h.frame.writeQ v
  records := h.records
  others := h.others
  pic := h.pic
  status := h.status
  port := h.port
  slice := h.slice

theorem writeMv (h : FirstPass s p u) (k : Fin 4) (v : Mv) : FirstPass s p (u.writeMv k v) where
  reads := ⟨h.reads.bs, h.reads.len, h.reads.cfg, h.reads.pos⟩
  frame := h.frame.writeMv k v
  records := h.records
  others := h.others
  pic := h.pic
  status := h.status
  port := h.port
  slice := h.slice

theorem updPart (h : FirstPass s p u) (f : PartRec → PartRec) : FirstPass s p (u.updPart f) where
  reads := ⟨h.reads.bs, h.reads.len, h.reads.cfg, h.reads.pos⟩
  frame := ⟨h.frame.wf, h.frame.picture, h.frame.slots, h.frame.pic, h.frame.slice⟩
  records := Cells.wf_write h.records
  others j hj := (Cells.read_write_other h.records (h.partIndex.symm ▸ hj)).trans (h.others j hj)
  pic := h.pic
  status := h.status
  port := h.port
  slice := h.slice

/-- The record after it is rewritten. -/
theorem partAt_updPart (h : FirstPass s p u) (f : PartRec → PartRec) : (u.updPart f).partAt 0 = f (u.partAt 0) := by
  have e : (u.updPart f).partAt u.partIndex = f u.partHere := Cells.read_write_same h.records
  rwa [h.partIndex, h.partHere] at e

/-- The record does not change with DCMEM. -/
theorem partAt_writeDc (u : State) (k : Fin 6) (v : BitVec 16) (j : Nat) : (u.writeDc k v).partAt j = u.partAt j :=
  congrArg (fun m => Cells.read PartRec.zero m j) (Stores.setDcPlane_rest u.stores k _).2.2.2.2

theorem partAt_writeMv (u : State) (k : Fin 4) (v : Mv) (j : Nat) : (u.writeMv k v).partAt j = u.partAt j := rfl

theorem partAt_writeMvAll (u : State) (v : Mv) (j : Nat) : (u.writeMvAll v).partAt j = u.partAt j := by
  rw [State.writeMvAll, partAt_writeMv, partAt_writeMv, partAt_writeMv, partAt_writeMv]

theorem qmem_writeDc (u : State) (k : Fin 6) (v : BitVec 16) : (u.writeDc k v).stores.qmem = u.stores.qmem :=
  (Stores.setDcPlane_rest u.stores k _).2.2.1

end FirstPass

/-! ## DC without a differential -/

/-- A differential of size 0 (44_residual.md R292). -/
theorem ReadsAt.dcDiffP_zero (h : ReadsAt s p u) (hl : s.lenFits = true) (hp : p ≤ s.endPos) {k : Fin 6}
    (hn : s.readsNumbers [(if k.val < 4 then .dcLum else .dcChrom, 0)] p = some q) :
    dcDiffP k u = .ok 0 (u.atBit q) := by
  rw [dcDiffP, Parse.bind_ok (h.vlcNumber hl hp hn)]
  rfl

/-- PRED_DC without CTRL.STRICT writes the direction and the word of the block (44_residual.md R310 to R315). -/
theorem predDcP_lenient (hs : s.ctrl.strict = false) (k : Fin 6) (d : Int) :
    ∃ v, predDcP k d s = .ok (d + s.dcPredictor k) ((s.predDcDir k).writeDc k v) := by
  have hr : ∀ l c, dcRange l c (s.predDcDir k) = .ok () (s.predDcDir k) := by
    intro l c
    rw [dcRange, Parse.getState_bind, if_neg]
    · rfl
    · rintro ⟨h, _⟩
      exact Bool.false_ne_true (hs.symm.trans h)
  let u := s.predDcDir k
  refine ⟨toS 16 (u.dcWord ((d + u.dcPredictor k) * u.scaleOf k)), ?_⟩
  rw [predDcP, Parse.getState_bind, Parse.update_bind, Parse.bind_ok (hr _ _), Parse.update_bind]
  rfl

/-! ## The record of an intra macroblock -/

/-- The record of an intra macroblock with no differential: its quantiser and its directions. -/
def PartRec.intraZero (quant : BitVec 9) (dir : Six Bool) : PartRec :=
  { PartRec.zero with intra := true, qscale := quant, dir := dir }

/-- Inside the DC of the six blocks: the record and QMEM hold the quantiser. -/
structure IntraPass (s : State) (p : Nat) (u : State) : Prop where
  pass : FirstPass s p u
  record : ∃ d, u.partAt 0 = .intraZero s.pic.qscale d
  quant : Cells.read 0 u.stores.qmem s.resyncMbi = s.pic.qscale

theorem Six.set_all (k : Fin 6) (a : BitVec 16) : (Six.all a).set k a = Six.all a := by
  fin_cases k <;> rfl

/-- The DC of one block with a differential of size 0. -/
theorem IntraPass.partDc (h : IntraPass s p u) (hl : s.lenFits = true) (hs : s.ctrl.strict = false) (hp : p ≤ s.endPos)
    {k : Fin 6} {tg : Tag} (hn : s.readsNumbers [(if k.val < 4 then .dcLum else .dcChrom, 0)] p = some q) :
    ∃ v, partDc tg k u = .ok () v ∧ IntraPass s q v := by
  obtain ⟨d, hd⟩ := h.record
  have hdiff := h.pass.reads.dcDiffP_zero hl hp hn
  have f1 := (h.pass.atBit q).updPart fun r => { r with dcDiff := r.dcDiff.set k (toS 16 0) }
  have r1 := (h.pass.atBit q).partAt_updPart fun r => { r with dcDiff := r.dcDiff.set k (toS 16 0) }
  set u1 := (u.atBit q).updPart fun r => { r with dcDiff := r.dcDiff.set k (toS 16 0) } with hu1
  obtain ⟨w, hpred⟩ := predDcP_lenient (s := u1) (by rw [f1.ctrl]; exact hs) k 0
  have f2 : FirstPass s q ((u1.predDcDir k).writeDc k w) := (f1.setDir k _).writeDc k w
  set u2 := (u1.predDcDir k).writeDc k w with hu2
  have r2 : u2.partAt 0 = .intraZero s.pic.qscale d := by
    rw [hu2, FirstPass.partAt_writeDc]
    refine r1.trans ?_
    rw [show (u.atBit q).partAt 0 = u.partAt 0 from rfl, hd, toS_zero, PartRec.intraZero, PartRec.zero]
    dsimp only
    rw [Six.set_all]
  refine ⟨u2.updPart fun r => { r with dir := r.dir.set k (u2.mb.predDir.get k) }, ?_, f2.updPart _,
    ⟨d.set k (u2.mb.predDir.get k), ?_⟩, ?_⟩
  · rw [Machine.partDc, Parse.bind_ok (withTag_ok hdiff), putPart, Parse.update_bind, ← hu1, Parse.bind_ok hpred]
    rfl
  · rw [f2.partAt_updPart, r2]
    rfl
  · show Cells.read 0 u2.stores.qmem s.resyncMbi = _
    rw [hu2, FirstPass.qmem_writeDc]
    exact h.quant

/-- The DC of the blocks of a list, their differentials all of size 0. -/
theorem IntraPass.forEach_partDc (hl : s.lenFits = true) (hs : s.ctrl.strict = false) {tg : Tag} (l : List (Fin 6)) :
    ∀ {p u}, IntraPass s p u → p ≤ s.endPos →
      s.readsNumbers (l.map fun k => (if k.val < 4 then .dcLum else .dcChrom, 0)) p = some q →
      ∃ v, forEach (Machine.partDc tg) l u = .ok () v ∧ IntraPass s q v := by
  induction l with
  | nil =>
    intro p u h _ hn
    cases hn
    exact ⟨u, rfl, h⟩
  | cons k l ih =>
    intro p u h hp hn
    obtain ⟨m, hm, hrest⟩ := State.readsNumbers_cons.1 hn
    obtain ⟨v, hv, h'⟩ := h.partDc (tg := tg) hl hs hp hm
    obtain ⟨w, hw, h''⟩ := ih h' (State.readsNumber_inside hl hp hm) hrest
    refine ⟨w, ?_, h''⟩
    rw [forEach_cons, Parse.bind_ok hv, hw]

/-- An intra macroblock of mode class 0 in partition A: its record is begun and its quantiser stored. -/
theorem FirstPass.partBodyI_zero (h : FirstPass s p u) (hl : s.lenFits = true) (hs : s.ctrl.strict = false)
    (hp : p ≤ s.endPos)
    (hn : s.readsNumbers (sixBlocks.map fun k => (if k.val < 4 then .dcLum else .dcChrom, 0)) p = some q) :
    ∃ v, partBodyI 0 u = .ok () v ∧ IntraPass s q v := by
  have f1 := h.updPart fun _ => { PartRec.zero with cbpc := toU 2 ((0 % 4 : Nat) : Int), intra := true }
  have r1 := h.partAt_updPart fun _ => { PartRec.zero with cbpc := toU 2 ((0 % 4 : Nat) : Int), intra := true }
  set u1 := u.updPart fun _ => { PartRec.zero with cbpc := toU 2 ((0 % 4 : Nat) : Int), intra := true } with hu1
  have f2 := f1.updPart fun r => { r with qscale := u1.pic.qscale }
  have h1 : IntraPass s p u1.recordQuant := by
    refine ⟨f2.writeQ _, ⟨Six.all false, ?_⟩, ?_⟩
    · refine (f1.partAt_updPart fun r => { r with qscale := u1.pic.qscale }).trans ?_
      rw [r1, f1.pic]
      rfl
    · have hq : Cells.wf 0 u1.stores.qmem = true := by
        obtain ⟨_, _, _, _, _, _, q, _⟩ := Stores.wf_iff.1 f1.frame.wf
        exact q
      rw [← f2.mbi, ← f1.pic]
      exact Cells.read_write_same hq
  obtain ⟨v, hv, h2⟩ := IntraPass.forEach_partDc (tg := .partADc) hl hs sixBlocks h1 hp hn
  refine ⟨v, ?_, h2⟩
  rw [partBodyI, putPart, Parse.update_bind, ← hu1, show (0 / 4 % 2 == 1) = false from rfl, whenP_false,
    Parse.pure_bind', Parse.update_bind]
  exact hv

/-! ## The steps -/

/-- Where no marker stands, a mode class that is not the stuffing begins a macroblock (R341). -/
theorem ReadsAt.partStepI_decodes (h : ReadsAt s p u) (hl : s.lenFits = true) (hp : p ≤ s.endPos) {c : Nat}
    (hmark : s.memRead p s.cfg.resync.dcBits ≠ s.cfg.resync.dcMarker) (hc : c ≠ 8)
    (hn : s.readsNumbers [(.intraMcbpc, c)] p = some q) (hbody : partBodyI c (u.atBit q) = .ok () t) :
    partStepI u = .ok true t := by
  have hmode : ∀ fuel, partModeI (fuel + 1) u = .ok (some c) (u.atBit q) := by
    intro fuel
    rw [partModeI, Parse.getState_bind, h.cfg, h.peek, if_neg hmark, Parse.bind_ok (h.vlcNumber hl hp hn), if_neg hc]
    rfl
  rw [partStepI, Parse.getState_bind, State.turns, Parse.bind_ok (hmode _)]
  exact Parse.bind_ok hbody

/-- At the marker the step decodes nothing. -/
theorem ReadsAt.partStepI_stops (h : ReadsAt s p u)
    (hmark : s.memRead p s.cfg.resync.dcBits = s.cfg.resync.dcMarker) : partStepI u = .ok false u := by
  have hmode : ∀ fuel, partModeI (fuel + 1) u = .ok none u := by
    intro fuel
    rw [partModeI, Parse.getState_bind, h.cfg, h.peek, if_pos hmark]
    rfl
  rw [partStepI, Parse.getState_bind, State.turns, Parse.bind_ok (hmode _)]
  rfl

/-- A skip bit where no marker stands (R342). -/
theorem ReadsAt.partStepP_skips (h : ReadsAt s p u) (hl : s.lenFits = true)
    (hmark : s.memRead p s.cfg.resync.motionBits ≠ s.cfg.resync.motionMarker) (hskip : s.bitsAre p 1 1 = true) :
    partStepP u = .ok true (u.atBit (p + 1)).partSkip := by
  have hmode : ∀ fuel, partModeP (fuel + 1) u = .ok .skip (u.atBit (p + 1)) := by
    intro fuel
    rw [partModeP, Parse.getState_bind, h.cfg, h.peek, if_neg hmark, Parse.bind_ok (h.getFlag_of_bitsAre hl hskip)]
    rfl
  rw [partStepP, Parse.getState_bind, State.turns, Parse.bind_ok (hmode _)]
  rfl

theorem ReadsAt.partStepP_stops (h : ReadsAt s p u)
    (hmark : s.memRead p s.cfg.resync.motionBits = s.cfg.resync.motionMarker) : partStepP u = .ok false u := by
  have hmode : ∀ fuel, partModeP (fuel + 1) u = .ok .marker u := by
    intro fuel
    rw [partModeP, Parse.getState_bind, h.cfg, h.peek, if_pos hmark]
    rfl
  rw [partStepP, Parse.getState_bind, State.turns, Parse.bind_ok (hmode _)]
  rfl

/-! ## A skipped macroblock -/

/-- Every own word of MVMEM reads the vector that all four were written with. -/
theorem mvmem_writeMvAll (hwf : Cells.wf (Vec.zero 16) u.stores.mvmem = true) (v : Mv) (k : Fin 4) :
    Cells.read (Vec.zero 16) (u.writeMvAll v).stores.mvmem (u.blockPos (lumaBlock k)) = v := by
  have write : ∀ {m : Cells Mv} (i a : Nat), Cells.wf (Vec.zero 16) m = true →
      a = i ∨ Cells.read (Vec.zero 16) m a = v → Cells.read (Vec.zero 16) (Cells.write (Vec.zero 16) i v m) a = v := by
    intro m i a hm ha
    by_cases hai : a = i
    · rw [hai, Cells.read_write_same hm]
    · rw [Cells.read_write_other hm hai]
      exact ha.resolve_left hai
  have h1 := Cells.wf_write (i := u.blockPos (lumaBlock 0)) (v := v) hwf
  have h2 := Cells.wf_write (i := u.blockPos (lumaBlock 1)) (v := v) h1
  have h3 := Cells.wf_write (i := u.blockPos (lumaBlock 2)) (v := v) h2
  fin_cases k
  · exact write _ _ h3 (.inr (write _ _ h2 (.inr (write _ _ h1 (.inr (write _ _ hwf (.inl rfl)))))))
  · exact write _ _ h3 (.inr (write _ _ h2 (.inr (write _ _ h1 (.inl rfl)))))
  · exact write _ _ h3 (.inr (write _ _ h2 (.inl rfl)))
  · exact write _ _ h3 (.inl rfl)

theorem State.partSkip_outside_gmc (hg : u.isGmc = false) :
    u.partSkip = ((u.updPart fun _ => { PartRec.zero with skipped := true, mcsel := false }).updPart
      fun r => { r with mv := Quad.all (Vec.zero 16) }).writeMvAll (Vec.zero 16) := by
  simp only [State.partSkip, State.partVector, hg, Bool.false_eq_true, if_false]

/-- A skipped macroblock outside GMC: its record, and its own words of MVMEM zero (R342). -/
theorem FirstPass.partSkip (h : FirstPass s p u) (hg : u.isGmc = false) :
    FirstPass s p u.partSkip ∧ u.partSkip.partAt 0 = { PartRec.zero with skipped := true }
      ∧ ∀ k : Fin 4, Cells.read (Vec.zero 16) u.partSkip.stores.mvmem (s.toSliceStart.blockPos (lumaBlock k)) = ⟨0, 0⟩ := by
  have f1 := h.updPart fun _ => { PartRec.zero with skipped := true, mcsel := false }
  have r1 := h.partAt_updPart fun _ => { PartRec.zero with skipped := true, mcsel := false }
  set u1 := u.updPart fun _ => { PartRec.zero with skipped := true, mcsel := false } with hu1
  have f2 := f1.updPart fun r => { r with mv := Quad.all (Vec.zero 16) }
  have r2 := f1.partAt_updPart fun r => { r with mv := Quad.all (Vec.zero 16) }
  set u2 := u1.updPart fun r => { r with mv := Quad.all (Vec.zero 16) } with hu2
  rw [State.partSkip_outside_gmc hg, ← hu1, ← hu2]
  refine ⟨(((f2.writeMv _ _).writeMv _ _).writeMv _ _).writeMv _ _, ?_, fun k => ?_⟩
  · rw [FirstPass.partAt_writeMvAll, r2, r1]
    rfl
  · have hmv : Cells.wf (Vec.zero 16) u2.stores.mvmem = true := by
      obtain ⟨_, _, _, _, _, _, _, mv, _⟩ := Stores.wf_iff.1 f2.frame.wf
      exact mv
    rw [← f2.blockPos]
    exact mvmem_writeMvAll hmv _ k

/-! ## The pass as a whole -/

/-- What the statement says of the state after a pass that ends at bit `stop`. -/
theorem FirstPass.endPass (h : FirstPass s p u) (stop : Nat) :
    let here : State := { s with slice := { s.slice with mbX := s.slice.resyncMbX, mbY := s.slice.resyncMbY } }
    let t := u.nextInSlice.endPass stop 1 s.pic.qscale
    t.bitpos = stop ∧ t.fsm = .partB ∧ t.status = { s.status with result := .ok }
      ∧ t.slice.mbNumLeft = 1 ∧ t.pic = { s.pic with chromaQscale := t.pic.chromaQscale } ∧ t.port = s.port
      ∧ sameButPicture s t ∧ ownSlotsOnly here { t with stores := { t.stores with partmem := s.stores.partmem } }
      ∧ ∀ j, j ≠ 0 → t.partAt j = s.partAt j := by
  intro here t
  have hpic : t.pic = { u.pic with qscale := s.pic.qscale } := rfl
  refine ⟨rfl, rfl, ?_, toU_nat (w := 20) (v := 1) (by decide), ?_, h.port, h.frame.picture, h.frame.slots, h.others⟩
  · show { u.status with result := .ok } = _
    rw [h.status]
  · rw [hpic, h.pic]

/-- Settles O50: the one step of each pass leaves the record, and the pass ends at the marker after it. -/
theorem firstPassRecordsAndCounts : Obligations.FirstPassRecordsAndCounts := by
  unfold Obligations.FirstPassRecordsAndCounts
  intro s p hl hres hfit hwf hstrict hroom here done
  have start := FirstPass.start hwf
  refine ⟨fun hno hread hmark => ?_, fun hg hskip hmark => ?_⟩
  · obtain ⟨a, ha, hdc⟩ := State.readsNumbers_cons.1 hread
    have hmark' : s.bitsAre p s.cfg.resync.dcBits s.cfg.resync.dcMarker = true := by rw [hres]; exact hmark
    obtain ⟨hin, hval⟩ := State.bitsAre_iff.1 hmark
    have hle := State.readsNumbers_le hread
    have hpos : s.pos ≤ s.endPos := by omega
    obtain ⟨u, hu, hintra⟩ := (start.atBit a).partBodyI_zero hl hstrict (State.readsNumber_inside hl hpos ha) hdc
    have f := hintra.pass
    have hstep := start.reads.partStepI_decodes hl hpos (by rw [hres]; exact hno) (by decide) ha hu
    have hstop := f.reads.nextInSlice.partStepI_stops (State.bitsAre_iff.1 hmark').2
    have hstuff : s.memRead p 9 ≠ 1 := by
      have := (State.bitsAre_iff.1 (State.bitsAre_split (m := 9) (n := 10) hmark).1).2
      rw [this]
      decide
    have hrun := partitionA_one (n := 9) (bits := ResyncPatterns.dcBits) (value := ResyncPatterns.dcMarker) hl hroom
      hstep hstop f.reads f.seq f.slice hstuff hmark'
    obtain ⟨d, hd⟩ := hintra.record
    have hstop19 : p + s.cfg.resync.dcBits = p + 19 := by rw [hres]; rfl
    rw [hstop19] at hrun
    refine ⟨_, (inStores_fits hfit).trans (congrArg _ (runAt_ok hrun)), f.endPass _, hintra.quant, ?_⟩
    show u.partAt 0 = _
    exact hd.trans (by rw [show (u.nextInSlice.endPass (p + 19) 1 s.pic.qscale).partAt 0 = u.partAt 0 from rfl, hd]; rfl)
  · have hmark' : s.bitsAre (s.pos + 1) s.cfg.resync.motionBits s.cfg.resync.motionMarker = true := by
      rw [hres]
      exact hmark
    have hno : s.memRead s.pos 17 ≠ 0x1F001 := by
      have h1 := (State.bitsAre_iff.1 hskip).2
      have h16 := (State.bitsAre_iff.1 (State.bitsAre_split (m := 16) (n := 1) hmark).1).2
      rw [show 17 = 1 + 16 from rfl, State.memRead_add, h1, h16]
      decide
    have hgmc : (s.toSliceStart.atBit (s.pos + 1)).isGmc = false := by
      rw [Bool.eq_false_iff]
      intro h
      obtain ⟨hs, hu⟩ := Bool.and_eq_true_iff.1 h
      exact hg ⟨eq_of_beq hs, eq_of_beq hu⟩
    obtain ⟨f, hrec, hmv⟩ := (start.atBit (s.pos + 1)).partSkip hgmc
    have hstep := start.reads.partStepP_skips hl (by rw [hres]; exact hno) hskip
    have hstop := f.reads.nextInSlice.partStepP_stops (State.bitsAre_iff.1 hmark').2
    have hstuff : s.memRead (s.pos + 1) 10 ≠ 1 := by
      have := (State.bitsAre_iff.1 (State.bitsAre_split (m := 10) (n := 7) hmark).1).2
      rw [this]
      decide
    have hrun := partitionA_one (n := 10) (bits := ResyncPatterns.motionBits) (value := ResyncPatterns.motionMarker) hl
      hroom hstep hstop f.reads f.seq f.slice hstuff hmark'
    have hstop18 : s.pos + 1 + s.cfg.resync.motionBits = s.pos + 18 := by rw [hres]; rfl
    rw [hstop18] at hrun
    exact ⟨_, (inStores_fits hfit).trans (congrArg _ (runAt_ok hrun)), f.endPass _, hrec, hmv⟩

end Sys2Proof.Machine
end

section
/-! Motion vectors that stand in the bitstream (43_macroblock.md R257, R258): what MVD reads, and that what it reads fits
the registers. -/

namespace Sys2Proof.Machine

variable {s u : State} {e : Raise} {p q fc : Nat} {pred v lo hi : Int}

/-- A component is the predictor, or a magnitude of `fc - 1` refining bits with a sign, added to it and wrapped. -/
theorem State.readsMvd_cases (h : s.readsMvd pred fc p = some (v, q)) :
    s.readsNumbers [(.mv, 0)] p = some q ∧ v = pred
      ∨ ∃ c m, s.readsNumbers [(.mv, c + 1)] p = some m ∧ m + fc ≤ s.endPos ∧ q = m + fc
        ∧ v = wrapMv (pred + if s.bitAt m = 1 then -((c * 2 ^ (fc - 1) + s.memRead (m + 1) (fc - 1) + 1 : Nat) : Int)
          else ((c * 2 ^ (fc - 1) + s.memRead (m + 1) (fc - 1) + 1 : Nat) : Int)) fc := by
  unfold State.readsMvd at h
  split at h
  · next row hrow =>
    have hr : s.readsRow .mv p row = true := beq_iff_eq.2 hrow
    dsimp only at h
    split at h
    · next hn =>
      obtain ⟨rfl, rfl⟩ := Prod.mk.inj (Option.some.inj h)
      exact .inl ⟨State.readsNumbers_one.2 ⟨row, hr, hn, rfl⟩, rfl⟩
    · next c hn =>
      split at h
      · next hin =>
        obtain ⟨rfl, rfl⟩ := Prod.mk.inj (Option.some.inj h)
        exact .inr ⟨c, _, State.readsNumbers_one.2 ⟨row, hr, hn, rfl⟩, hin, rfl, by push_cast; rfl⟩
      · cases h
    · cases h
  · cases h

/-- The magnitude of code `c + 1`, refined by `k` bits. -/
theorem ReadsAt.mvdMagnitude (h : ReadsAt s p u) (hl : s.lenFits = true) {c k : Nat} (hin : p + k ≤ s.endPos) :
    mvdMagnitude e (c + 1) k u = .ok (c * 2 ^ k + s.memRead p k + 1) (u.atBit (p + k)) := by
  unfold Machine.mvdMagnitude
  by_cases hk : 0 < k
  · rw [if_pos hk, Parse.bind_ok (h.getBits hl hin)]
    rfl
  · obtain rfl : k = 0 := by omega
    have hu : u.atBit (p + 0) = u := by rw [Nat.add_zero, ← h.pos]; rfl
    rw [if_neg hk, hu, pow_zero, Nat.mul_one]
    rfl

/-- MVD reads the component that stands at the bit. -/
theorem ReadsAt.mvdP (h : ReadsAt s p u) (hl : s.lenFits = true) (hp : p ≤ s.endPos) (hfc : fc ≠ 0)
    (hv : s.readsMvd pred fc p = some (v, q)) : mvdP pred fc u = .ok v (u.atBit q) := by
  obtain ⟨hn, rfl⟩ | ⟨c, m, hn, hin, rfl, rfl⟩ := State.readsMvd_cases hv
  · rw [Machine.mvdP, Parse.bind_ok (h.vlcNumber hl hp hn)]
    rfl
  · have hm : m + 1 + (fc - 1) = m + fc := by omega
    rw [Machine.mvdP, Parse.bind_ok (h.vlcNumber hl hp hn), if_neg (Nat.succ_ne_zero c),
      Parse.bind_ok ((h.atBit m).getFlag hl (by omega)), State.atBit_atBit,
      Parse.bind_ok ((h.atBit (m + 1)).mvdMagnitude hl (by omega)), State.atBit_atBit, hm, Int.add_comm]
    simp only [beq_iff_eq]
    rfl

theorem State.readsMvd_inside (hl : s.lenFits = true) (hp : p ≤ s.endPos) (h : s.readsMvd pred fc p = some (v, q)) :
    q ≤ s.endPos := by
  obtain ⟨hn, _⟩ | ⟨_, _, _, hin, rfl, _⟩ := State.readsMvd_cases h
  · exact State.readsNumber_inside hl hp hn
  · exact hin

/-- A wrapped component has at most 12 signed bits. -/
theorem wrapMv_bounds (hfc : fc ≤ 7) (v : Int) : -2048 ≤ wrapMv v fc ∧ wrapMv v fc ≤ 2047 := by
  have hm : (2 : Int) ^ (5 + fc) ≤ 4096 := by
    calc (2 : Int) ^ (5 + fc) ≤ 2 ^ 12 := pow_le_pow_right₀ (by norm_num) (by omega)
      _ = 4096 := by norm_num
  have hpos : (0 : Int) < 2 ^ (5 + fc) := by positivity
  have h0 := Int.emod_nonneg v (ne_of_gt hpos)
  have h1 := Int.emod_lt_of_pos v hpos
  unfold wrapMv
  dsimp only
  split <;> omega

/-- A component stays in every range that holds the predictor and 12 signed bits. -/
theorem State.readsMvd_bounds (hfc : fc ≤ 7) (hlo : lo ≤ -2048) (hhi : 2047 ≤ hi) (h : lo ≤ pred ∧ pred ≤ hi)
    (hv : s.readsMvd pred fc p = some (v, q)) : lo ≤ v ∧ v ≤ hi := by
  obtain ⟨_, rfl⟩ | ⟨_, _, _, _, _, rfl⟩ := State.readsMvd_cases hv
  · exact h
  · have := wrapMv_bounds hfc (fc := fc)
    constructor
    · exact le_trans hlo (this _).1
    · exact le_trans (this _).2 hhi

/-! ## Vectors -/

/-- A vector is its two components, one after the other. -/
theorem State.readsMv_iff {w d : IVec} : s.readsMv w fc p = some (d, q) ↔
    ∃ m, s.readsMvd w.x fc p = some (d.x, m) ∧ s.readsMvd w.y fc m = some (d.y, q) := by
  unfold State.readsMv
  constructor
  · intro h
    split at h
    · next x m hx =>
      obtain ⟨⟨y, q'⟩, hy, he⟩ := Option.map_eq_some_iff.1 h
      obtain ⟨rfl, rfl⟩ := Prod.mk.inj he
      exact ⟨m, hx, hy⟩
    · cases h
  · rintro ⟨m, hx, hy⟩
    rw [hx]
    dsimp only
    rw [hy]
    rfl

/-- Both components of a vector that stands at the bit. -/
theorem ReadsAt.mvdPair (h : ReadsAt s p u) (hl : s.lenFits = true) (hp : p ≤ s.endPos) (hfc : fc ≠ 0) {w d : IVec}
    (hd : s.readsMv w fc p = some (d, q)) : mvdPair w fc u = .ok d (u.atBit q) := by
  obtain ⟨m, hx, hy⟩ := State.readsMv_iff.1 hd
  rw [Machine.mvdPair, Parse.bind_ok (h.mvdP hl hp hfc hx),
    Parse.bind_ok ((h.atBit m).mvdP hl (State.readsMvd_inside hl hp hx) hfc hy)]
  rfl

theorem State.readsMv_inside (hl : s.lenFits = true) (hp : p ≤ s.endPos) {w d : IVec}
    (h : s.readsMv w fc p = some (d, q)) : q ≤ s.endPos := by
  obtain ⟨m, hx, hy⟩ := State.readsMv_iff.1 h
  exact State.readsMvd_inside hl (State.readsMvd_inside hl hp hx) hy

/-- A vector as two 16-bit registers hold it. -/
def IVec.reg (v : IVec) : Mv := ⟨BitVec.ofInt 16 v.x, BitVec.ofInt 16 v.y⟩

theorem toS16_of_bounds {v : Int} (h : -32768 ≤ v ∧ v ≤ 32767) : toS 16 v = BitVec.ofInt 16 v :=
  toS_ofInt (by norm_num; omega) (by norm_num; omega)

theorem IVec.toMv_eq_reg {v : IVec} (hx : -32768 ≤ v.x ∧ v.x ≤ 32767) (hy : -32768 ≤ v.y ∧ v.y ≤ 32767) :
    v.toMv = v.reg := by
  rw [IVec.toMv, toS16_of_bounds hx, toS16_of_bounds hy, IVec.reg]

theorem toInt16_bounds (b : BitVec 16) : -32768 ≤ b.toInt ∧ b.toInt ≤ 32767 := by
  have h1 := b.le_toInt
  have h2 := b.toInt_lt
  norm_num at h1 h2
  omega

/-- A stored vector in field units: its y halved toward 0 (R276). -/
def halfMv (v : Mv) : IVec := ⟨v.x.toInt, Int.tdiv v.y.toInt 2⟩

/-- A vector in field units as the last vectors of a B picture hold it: its y doubled (R276). -/
def IVec.doubled (v : IVec) : IVec := ⟨v.x, 2 * v.y⟩

/-- A vector predicted from a stored one fits its registers. -/
theorem State.readsMv_fits (hfc : fc ≤ 7) {w : Mv} {d : IVec} (h : s.readsMv (mvValue w) fc p = some (d, q)) :
    d.toMv = d.reg := by
  obtain ⟨m, hx, hy⟩ := State.readsMv_iff.1 h
  exact IVec.toMv_eq_reg (State.readsMvd_bounds hfc (by norm_num) (by norm_num) (toInt16_bounds _) hx)
    (State.readsMvd_bounds hfc (by norm_num) (by norm_num) (toInt16_bounds _) hy)

/-- A field vector predicted from a stored one fits its registers, doubled too. -/
theorem State.readsMv_half_fits (hfc : fc ≤ 7) {w : Mv} {d : IVec} (h : s.readsMv (halfMv w) fc p = some (d, q)) :
    d.toMv = d.reg ∧ d.doubled.toMv = d.doubled.reg := by
  obtain ⟨m, hx, hy⟩ := State.readsMv_iff.1 h
  have bx := State.readsMvd_bounds hfc (by norm_num) (by norm_num) (toInt16_bounds _) hx
  have hw := toInt16_bounds w.y
  have hd : -16384 ≤ d.y ∧ d.y ≤ 16383 := by
    refine State.readsMvd_bounds hfc (by norm_num) (by norm_num) ?_ hy
    show -16384 ≤ Int.tdiv w.y.toInt 2 ∧ Int.tdiv w.y.toInt 2 ≤ 16383
    rw [Int.tdiv_eq_ediv, show Int.sign 2 = 1 from rfl]
    split <;> omega
  constructor
  · exact IVec.toMv_eq_reg bx (by omega)
  · refine IVec.toMv_eq_reg bx ?_
    show -32768 ≤ 2 * d.y ∧ 2 * d.y ≤ 32767
    omega

end Sys2Proof.Machine
end

section
/-! MB_B part by part (43_macroblock.md R270 to R277): the mode, the vectors of an explicit macroblock, the direct mode,
the skip and the end, each as a state with a new cursor, slice and working record. -/

namespace Sys2Proof.Machine

variable {s b u : State} {p q r : Nat} {l l' : Slice} {m m' : Mb} {d : Dir} {v v' w : IVec} {ty : BType}

/-! ## A state inside a macroblock -/

/-- `s` inside a macroblock: the cursor at bit `p`, the slice registers `l`, the working record `m`. -/
def State.withMb (s : State) (p : Nat) (l : Slice) (m : Mb) : State := { s with bitpos := p, slice := l, mb := m }

theorem ReadsAt.ofBase (h : ReadsAt s q b) (p : Nat) (l : Slice) (m : Mb) : ReadsAt s p (b.withMb p l m) :=
  ⟨h.bs, h.len, h.cfg, rfl⟩

theorem ReadsAt.withMb (h : ReadsAt s p (b.withMb p l m)) (q : Nat) (l' : Slice) (m' : Mb) :
    ReadsAt s q (b.withMb q l' m') := ⟨h.bs, h.len, h.cfg, rfl⟩

/-- The macroblock and the count of the slice are the same. -/
def Slice.samePlace (l l' : Slice) : Prop := l'.mbX = l.mbX ∧ l'.mbY = l.mbY ∧ l'.mbValid = l.mbValid

theorem State.withMb_mbi (h : s.slice.samePlace l) : (s.withMb p l m).mbi = s.mbi := by
  obtain ⟨hx, hy, _⟩ := h
  rw [State.mbi, State.mbi, show (s.withMb p l m).slice = l from rfl, hx, hy]
  rfl

theorem State.withMb_blockPos (h : s.slice.samePlace l) (n : Fin 6) : (s.withMb p l m).blockPos n = s.blockPos n := by
  obtain ⟨hx, hy, _⟩ := h
  simp only [State.blockPos, State.blockX, State.blockY, State.planeW, show (s.withMb p l m).slice = l from rfl, hx, hy]
  rfl

theorem State.withMb_colocMv (h : s.slice.samePlace l) (n : Fin 4) : (s.withMb p l m).colocMv n = s.colocMv n := by
  simp only [State.colocMv, State.withMb_mbi h, State.withMb_blockPos h]
  rfl

theorem State.withMb_colocType (h : s.slice.samePlace l) :
    (s.withMb p l m).colocType (s.withMb p l m).mbi = s.colocType s.mbi := by
  rw [State.withMb_mbi h]
  rfl

/-! ## The last vectors and the vectors of a direction -/

/-- SLICE.last_mv[d] (10_state.md R40). -/
def Slice.last (l : Slice) : Dir → LastMv
  | .fwd => l.lastMvFwd
  | .bwd => l.lastMvBwd

/-- SLICE.last_mv[d] <- v. -/
def Slice.withLast (l : Slice) (d : Dir) (v : LastMv) : Slice :=
  match d with
  | .fwd => { l with lastMvFwd := v }
  | .bwd => { l with lastMvBwd := v }

/-- MB.mv[d][i] <- v. -/
def Mb.withMv (m : Mb) (d : Dir) (i : Fin 4) (v : Mv) : Mb :=
  match d with
  | .fwd => { m with mvFwd := m.mvFwd.set i v }
  | .bwd => { m with mvBwd := m.mvBwd.set i v }

/-- MB.mv_dir |= the bit of d. -/
def Mb.withDir (m : Mb) (d : Dir) : Mb := { m with mvDir := m.mvDir ||| dirBit d }

theorem Slice.last_withLast (l : Slice) (d : Dir) (v : LastMv) : (l.withLast d v).last d = v := by cases d <;> rfl

theorem Slice.withLast_withLast (l : Slice) (d : Dir) (v w : LastMv) :
    (l.withLast d v).withLast d w = l.withLast d w := by cases d <;> rfl

theorem State.withMb_lastMv (s : State) : (s.withMb p l m).lastMv d = l.last d := by cases d <;> rfl

theorem State.withMb_rangeOf (s : State) : (s.withMb p l m).rangeOf d = s.rangeOf d := by cases d <;> rfl

theorem State.withMb_addDir (s : State) : (s.withMb p l m).addDir (dirBit d) = s.withMb p l (m.withDir d) := rfl

theorem State.withMb_setMv (s : State) (i : Fin 4) (x : Mv) :
    (s.withMb p l m).setMv d i x = s.withMb p l (m.withMv d i x) := by cases d <;> rfl

theorem State.withMb_setLastMv (s : State) (x : LastMv) :
    (s.withMb p l m).setLastMv d x = s.withMb p (l.withLast d x) m := by cases d <;> rfl

/-- A read of a vector from the state inside a macroblock. -/
theorem ReadsAt.mvdPair_withMb (h : ReadsAt s p (b.withMb p l m)) (hl : s.lenFits = true) (hp : p ≤ s.endPos) {fc : Nat}
    (hfc : fc ≠ 0) (hv : s.readsMv w fc p = some (v, q)) :
    Machine.mvdPair w fc (b.withMb p l m) = .ok v (b.withMb q l m) := h.mvdPair hl hp hfc hv

/-- An explicit vector, predicted from the first last one, which updates both (R275). -/
theorem ReadsAt.bVector (h : ReadsAt s p (b.withMb p l m)) (hl : s.lenFits = true) (hp : p ≤ s.endPos)
    (hfc : b.rangeOf d ≠ 0) (hv : s.readsMv (mvValue (l.last d).field0) (b.rangeOf d) p = some (v, q)) :
    bVector d (b.withMb p l m) =
      .ok () (b.withMb q (l.withLast d ⟨v.toMv, v.toMv⟩) ((m.withDir d).withMv d 0 v.toMv)) := by
  rw [Machine.bVector, Parse.update_bind, State.withMb_addDir, Parse.getState_bind, State.withMb_lastMv,
    State.withMb_rangeOf, Parse.bind_ok ((h.withMb p l (m.withDir d)).mvdPair_withMb hl hp hfc hv), update_apply,
    State.withMb_setMv, State.withMb_setLastMv]

/-- The vector of one field, predicted from its last one, which it updates (R276). -/
theorem ReadsAt.bFieldVector (h : ReadsAt s p (b.withMb p l m)) (hl : s.lenFits = true) (hp : p ≤ s.endPos)
    (hfc : b.rangeOf d ≠ 0) {second : Bool}
    (hv : s.readsMv (halfMv ((l.last d).get second)) (b.rangeOf d) p = some (v, q)) :
    bFieldVector d second (b.withMb p l m) =
      .ok () (b.withMb q (l.withLast d ((l.last d).set second v.doubled.toMv))
        (m.withMv d (if second then 1 else 0) v.toMv)) := by
  rw [Machine.bFieldVector, Parse.getState_bind, State.withMb_lastMv, State.withMb_rangeOf]
  refine (Parse.bind_ok (h.mvdPair_withMb hl hp hfc hv)).trans ?_
  rw [update_apply, State.withMb_setMv, State.withMb_lastMv, State.withMb_setLastMv]
  rfl

/-- The two field vectors of a direction (R276). -/
theorem ReadsAt.bFieldVectors (h : ReadsAt s p (b.withMb p l m)) (hl : s.lenFits = true) (hp : p ≤ s.endPos)
    (hfc : b.rangeOf d ≠ 0) (hv : s.readsMv (halfMv (l.last d).field0) (b.rangeOf d) p = some (v, q))
    (hv' : s.readsMv (halfMv (l.last d).field1) (b.rangeOf d) q = some (v', r)) :
    bFieldVectors d (b.withMb p l m) =
      .ok () (b.withMb r (l.withLast d ⟨v.doubled.toMv, v'.doubled.toMv⟩)
        (((m.withDir d).withMv d 0 v.toMv).withMv d 1 v'.toMv)) := by
  have h1 := (h.withMb p l (m.withDir d)).bFieldVector (second := false) hl hp hfc hv
  have h2 := (h.withMb q (l.withLast d ((l.last d).set false v.doubled.toMv))
    ((m.withDir d).withMv d 0 v.toMv)).bFieldVector (v := v') (q := r) (second := true) hl
    (State.readsMv_inside hl hp hv) hfc (by rw [Slice.last_withLast]; exact hv')
  rw [Machine.bFieldVectors, Parse.update_bind, State.withMb_addDir, Parse.bind_ok h1]
  refine h2.trans ?_
  rw [Slice.last_withLast, Slice.withLast_withLast]
  rfl

/-! ## The vectors of an explicit macroblock -/

/-- The slice after the vector of a direction, where it is used. -/
def Slice.withVector (l : Slice) (use : Bool) (d : Dir) (x : LastMv) : Slice := if use then l.withLast d x else l

/-- The working record after the vector of a direction, where it is used. -/
def Mb.withVector (m : Mb) (use : Bool) (d : Dir) (x : Mv) : Mb := if use then (m.withDir d).withMv d 0 x else m

/-- The working record after the two field vectors of a direction, where they are used. -/
def Mb.withFields (m : Mb) (use : Bool) (d : Dir) (x y : Mv) : Mb :=
  if use then ((m.withDir d).withMv d 0 x).withMv d 1 y else m

/-- What stands at bit `p` for a direction of a frame macroblock: its vector `v` up to bit `q`, or nothing. -/
def State.readsVector (s : State) (use : Bool) (w : Mv) (fc p : Nat) (v : IVec) (q : Nat) : Prop :=
  if use then s.readsMv (mvValue w) fc p = some (v, q) else q = p

/-- What stands at bit `p` for a direction of a field macroblock: its two vectors up to bit `r`, or nothing. -/
def State.readsFields (s : State) (use : Bool) (last : LastMv) (fc p : Nat) (v v' : IVec) (q r : Nat) : Prop :=
  if use then s.readsMv (halfMv last.field0) fc p = some (v, q) ∧ s.readsMv (halfMv last.field1) fc q = some (v', r)
  else r = p

theorem ReadsAt.whenP_bVector (h : ReadsAt s p (b.withMb p l m)) (hl : s.lenFits = true) (hp : p ≤ s.endPos)
    {use : Bool} (hfc : use = true → b.rangeOf d ≠ 0) (hv : s.readsVector use (l.last d).field0 (b.rangeOf d) p v q) :
    whenP use (Machine.bVector d) (b.withMb p l m) =
      .ok () (b.withMb q (l.withVector use d ⟨v.toMv, v.toMv⟩) (m.withVector use d v.toMv)) := by
  cases use with
  | true => exact h.bVector hl hp (hfc rfl) hv
  | false =>
    obtain rfl : q = p := hv
    rfl

theorem ReadsAt.whenP_bFieldVectors (h : ReadsAt s p (b.withMb p l m)) (hl : s.lenFits = true) (hp : p ≤ s.endPos)
    (hfc : b.rangeOf d ≠ 0) {use : Bool} (hv : s.readsFields use (l.last d) (b.rangeOf d) p v v' q r) :
    whenP use (Machine.bFieldVectors d) (b.withMb p l m) =
      .ok () (b.withMb r (l.withVector use d ⟨v.doubled.toMv, v'.doubled.toMv⟩)
        (m.withFields use d v.toMv v'.toMv)) := by
  cases use with
  | true => exact h.bFieldVectors hl hp hfc hv.1 hv.2
  | false =>
    obtain rfl : r = p := hv
    rfl

theorem State.readsVector_inside (hl : s.lenFits = true) (hp : p ≤ s.endPos) {use : Bool} {x : Mv} {fc : Nat}
    (hv : s.readsVector use x fc p v q) : q ≤ s.endPos := by
  cases use with
  | true => exact State.readsMv_inside hl hp hv
  | false =>
    obtain rfl : q = p := hv
    exact hp

theorem State.readsFields_inside (hl : s.lenFits = true) (hp : p ≤ s.endPos) {use : Bool} {x : LastMv} {fc : Nat}
    (hv : s.readsFields use x fc p v v' q r) : r ≤ s.endPos := by
  cases use with
  | true => exact State.readsMv_inside hl (State.readsMv_inside hl hp hv.1) hv.2
  | false =>
    obtain rfl : r = p := hv
    exact hp

theorem Slice.last_bwd_withVector_fwd (l : Slice) (use : Bool) (x : LastMv) :
    (l.withVector use .fwd x).last .bwd = l.last .bwd := by cases use <;> rfl

/-- The vectors of an explicit frame macroblock (R275). -/
theorem ReadsAt.bExplicit_frame (h : ReadsAt s p (b.withMb p l m)) (hl : s.lenFits = true) (hp : p ≤ s.endPos)
    (hf : typeUsesFwd ty = true → b.fc ≠ 0) (hb : typeUsesBwd ty = true → b.bc ≠ 0)
    (hv : s.readsVector (typeUsesFwd ty) l.lastMvFwd.field0 b.fc p v q)
    (hv' : s.readsVector (typeUsesBwd ty) l.lastMvBwd.field0 b.bc q v' r) :
    bExplicit ⟨ty, false, false⟩ (b.withMb p l m) =
      .ok () (b.withMb r
        ((l.withVector (typeUsesFwd ty) .fwd ⟨v.toMv, v.toMv⟩).withVector (typeUsesBwd ty) .bwd ⟨v'.toMv, v'.toMv⟩)
        (({ m with mvType := .mv16x16 }.withVector (typeUsesFwd ty) .fwd v.toMv).withVector (typeUsesBwd ty) .bwd
          v'.toMv)) := by
  have h1 := (h.withMb p l { m with mvType := .mv16x16 }).whenP_bVector (d := .fwd) hl hp hf hv
  have h2 := (h.withMb q (l.withVector (typeUsesFwd ty) .fwd ⟨v.toMv, v.toMv⟩)
    ({ m with mvType := .mv16x16 }.withVector (typeUsesFwd ty) .fwd v.toMv)).whenP_bVector (d := .bwd) (v := v') (q := r)
    (use := typeUsesBwd ty) hl (State.readsVector_inside hl hp hv) hb (by rw [Slice.last_bwd_withVector_fwd]; exact hv')
  rw [bExplicit, Parse.update_bind]
  exact (Parse.bind_ok h1).trans h2

/-- The vectors of an explicit field macroblock (R276). -/
theorem ReadsAt.bExplicit_field (h : ReadsAt s p (b.withMb p l m)) (hl : s.lenFits = true) (hp : p ≤ s.endPos)
    (hf : b.fc ≠ 0) (hb : b.bc ≠ 0) {f f' g g' : IVec} {q q' r r' : Nat}
    (hv : s.readsFields (typeUsesFwd ty) l.lastMvFwd b.fc p f f' q q')
    (hv' : s.readsFields (typeUsesBwd ty) l.lastMvBwd b.bc q' g g' r r') :
    bExplicit ⟨ty, false, true⟩ (b.withMb p l m) =
      .ok () (b.withMb r'
        ((l.withVector (typeUsesFwd ty) .fwd ⟨f.doubled.toMv, f'.doubled.toMv⟩).withVector (typeUsesBwd ty) .bwd
          ⟨g.doubled.toMv, g'.doubled.toMv⟩)
        (({ m with mvType := .mvField }.withFields (typeUsesFwd ty) .fwd f.toMv f'.toMv).withFields (typeUsesBwd ty) .bwd
          g.toMv g'.toMv)) := by
  have h1 := (h.withMb p l { m with mvType := .mvField }).whenP_bFieldVectors (d := .fwd) hl hp hf hv
  have h2 := (h.withMb q' (l.withVector (typeUsesFwd ty) .fwd ⟨f.doubled.toMv, f'.doubled.toMv⟩)
    ({ m with mvType := .mvField }.withFields (typeUsesFwd ty) .fwd f.toMv f'.toMv)).whenP_bFieldVectors (d := .bwd)
    (v := g) (v' := g') (q := r) (r := r') (use := typeUsesBwd ty) hl (State.readsFields_inside hl hp hv) hb
    (by rw [Slice.last_bwd_withVector_fwd]; exact hv')
  rw [bExplicit, Parse.update_bind]
  exact (Parse.bind_ok h1).trans h2

/-! ## The mode -/

/-- modb's first bit is 1: the direct mode without a differential (R273). -/
theorem ReadsAt.bMode_directSkip (h : ReadsAt s p (b.withMb p l m)) (hl : s.lenFits = true)
    (hbit : s.bitsAre p 1 1 = true) :
    bMode (b.withMb p l m) = .ok ⟨.direct, true, false⟩ (b.withMb (p + 1) l { m with cbp := 0 }) := by
  rw [bMode, Parse.bind_ok (h.getFlag_of_bitsAre hl hbit)]
  rfl

/-- MB_TYPE_B (R273). -/
theorem ReadsAt.bTypeP (h : ReadsAt s p u) (hl : s.lenFits = true) (hp : p ≤ s.endPos) {row : VlcRow}
    (hr : s.readsRow .mbTypeB p row = true) (hs : row.sym = .btype ty) : bTypeP u = .ok ty (u.atBit (p + row.len)) := by
  rw [Machine.bTypeP, Parse.bind_ok (h.vlc hl hp hr), hs]
  rfl

/-- The parts of the mode where modb's first bit is 0, one after the other (R273). -/
theorem bExplicitMode_of {c f : Bool} {s1 s2 s3 s4 s5 : State} (hflag : getFlag mbBEnd s = .ok c s1)
    (htype : Machine.bTypeP s1 = .ok ty s2) (hpattern : bPattern c s2 = .ok () s3)
    (hquant : whenP (ty != .direct && s3.mb.cbp != 0) (dquantBP mbBEnd) s3 = .ok () s4)
    (hlace : bInterlaced ty s4 = .ok f s5) : bExplicitMode s = .ok ⟨ty, false, f⟩ s5 := by
  rw [bExplicitMode, Parse.bind_ok hflag, Parse.bind_ok htype, Parse.bind_ok hpattern, Parse.getState_bind,
    Parse.bind_ok hquant, Parse.bind_ok hlace]
  rfl

/-- modb's first bit is 0: the rest of the mode follows (R273). -/
theorem ReadsAt.bMode_explicit (h : ReadsAt s p (b.withMb p l m)) (hl : s.lenFits = true)
    (hbit : s.bitsAre p 1 0 = true) : bMode (b.withMb p l m) = bExplicitMode (b.withMb (p + 1) l m) := by
  rw [bMode, Parse.bind_ok (h.getFlag_of_bitsAre hl hbit)]
  rfl

/-- modb is 01: a type, no pattern, then the interlaced part (R273). -/
theorem ReadsAt.bMode_uncoded (h : ReadsAt s p (b.withMb p l m)) (hl : s.lenFits = true)
    (hbits : s.bitsAre p 2 1 = true) {row : VlcRow} (hr : s.readsRow .mbTypeB (p + 2) row = true)
    (hs : row.sym = .btype ty) {f : Bool}
    (hlace : bInterlaced ty (b.withMb (p + 2 + row.len) l { m with cbp := 0 }) = .ok f (b.withMb q l m')) :
    bMode (b.withMb p l m) = .ok ⟨ty, false, f⟩ (b.withMb q l m') := by
  obtain ⟨h1, h2⟩ := State.bitsAre_split (m := 1) (n := 1) hbits
  obtain ⟨hin, _⟩ := State.bitsAre_iff.1 hbits
  rw [h.bMode_explicit hl h1]
  refine bExplicitMode_of ((h.withMb (p + 1) l m).getFlag_of_bitsAre hl h2)
    ((h.withMb (p + 2) l m).bTypeP hl hin hr hs) (s3 := b.withMb (p + 2 + row.len) l { m with cbp := 0 }) rfl ?_ hlace
  show whenP (ty != .direct && false) _ _ = _
  rw [Bool.and_false]
  rfl

/-- A direct macroblock with no coded block has no interlaced part. -/
theorem bInterlaced_direct (hm : m.cbp = 0) : bInterlaced .direct (b.withMb p l m) = .ok false (b.withMb p l m) := by
  have hd : fieldDct mbBEnd ((b.withMb p l m).mb.cbp != 0) = pure () := by
    rw [show (b.withMb p l m).mb.cbp = 0 from hm]
    exact whenP_false _
  rw [bInterlaced, Parse.getState_bind]
  split
  · rw [hd]
    rfl
  · rfl

theorem bInterlaced_progressive (hi : b.seq.interlaced = false) :
    bInterlaced ty (b.withMb p l m) = .ok false (b.withMb p l m) := by
  rw [bInterlaced, Parse.getState_bind, show (b.withMb p l m).seq.interlaced = false from hi]
  rfl

/-- In an interlaced sequence an explicit macroblock with no coded block begins with its field flag. -/
theorem bInterlaced_explicit (hi : b.seq.interlaced = true) (hm : m.cbp = 0) :
    bInterlaced ty (b.withMb p l m) = bFieldFlag ty (b.withMb p l m) := by
  have hd : fieldDct mbBEnd ((b.withMb p l m).mb.cbp != 0) = pure () := by
    rw [show (b.withMb p l m).mb.cbp = 0 from hm]
    exact whenP_false _
  rw [bInterlaced, Parse.getState_bind, show (b.withMb p l m).seq.interlaced = true from hi, if_pos rfl, hd]
  rfl

/-- The field flag of a frame macroblock. -/
theorem ReadsAt.bFieldFlag_frame (h : ReadsAt s p (b.withMb p l m)) (hl : s.lenFits = true) (ht : ty ≠ .direct)
    (hbit : s.bitsAre p 1 0 = true) : bFieldFlag ty (b.withMb p l m) = .ok false (b.withMb (p + 1) l m) := by
  rw [bFieldFlag, if_neg ht, Parse.bind_ok (h.getFlag_of_bitsAre hl hbit)]
  rfl

/-- The working record with the selectors of a direction, where it is used (R273). -/
def Mb.withSelectors (m : Mb) (use : Bool) (d : Dir) (x y : Bool) : Mb :=
  if use then
    match d with
    | .fwd => { m with fieldSelectFwd0 := x, fieldSelectFwd1 := y }
    | .bwd => { m with fieldSelectBwd0 := x, fieldSelectBwd1 := y }
  else m

theorem ReadsAt.whenP_fieldSelectFwd (h : ReadsAt s p (b.withMb p l m)) (hl : s.lenFits = true) {use : Bool}
    (hin : (if use then p + 2 else p) ≤ s.endPos) :
    whenP use fieldSelectFwd (b.withMb p l m) = .ok () (b.withMb (if use then p + 2 else p) l
      (m.withSelectors use .fwd (s.bitAt p == 1) (s.bitAt (p + 1) == 1))) := by
  cases use with
  | true =>
    have hin : p + 2 ≤ s.endPos := hin
    rw [whenP_true, fieldSelectFwd, Parse.bind_ok (h.getFlag hl (by omega))]
    refine (Parse.bind_ok ((h.withMb (p + 1) l m).getFlag hl hin)).trans ?_
    rfl
  | false => rfl

theorem ReadsAt.whenP_fieldSelectBwd (h : ReadsAt s p (b.withMb p l m)) (hl : s.lenFits = true) {use : Bool}
    (hin : (if use then p + 2 else p) ≤ s.endPos) :
    whenP use fieldSelectBwd (b.withMb p l m) = .ok () (b.withMb (if use then p + 2 else p) l
      (m.withSelectors use .bwd (s.bitAt p == 1) (s.bitAt (p + 1) == 1))) := by
  cases use with
  | true =>
    have hin : p + 2 ≤ s.endPos := hin
    rw [whenP_true, fieldSelectBwd, Parse.bind_ok (h.getFlag hl (by omega))]
    refine (Parse.bind_ok ((h.withMb (p + 1) l m).getFlag hl hin)).trans ?_
    rfl
  | false => rfl

/-- The field flag of a field macroblock and its selectors, two for each direction (R273): `q` is the bit after the
forward ones, `r` the bit after all. -/
theorem ReadsAt.bFieldFlag_field (h : ReadsAt s p (b.withMb p l m)) (hl : s.lenFits = true) (ht : ty ≠ .direct)
    (hbit : s.bitsAre p 1 1 = true) (hq : q = if typeUsesFwd ty then p + 3 else p + 1)
    (hr : r = if typeUsesBwd ty then q + 2 else q) (hin : r ≤ s.endPos) :
    bFieldFlag ty (b.withMb p l m) = .ok true (b.withMb r l
      ((m.withSelectors (typeUsesFwd ty) .fwd (s.bitAt (p + 1) == 1) (s.bitAt (p + 2) == 1)).withSelectors
        (typeUsesBwd ty) .bwd (s.bitAt q == 1) (s.bitAt (q + 1) == 1))) := by
  have hq' : q = if typeUsesFwd ty then p + 1 + 2 else p + 1 := hq
  have hle : q ≤ r := by
    rw [hr]
    split <;> omega
  have h1 := (h.withMb (p + 1) l m).whenP_fieldSelectFwd (use := typeUsesFwd ty) hl (by rw [← hq']; omega)
  rw [← hq'] at h1
  have h2 := (h.withMb q l (m.withSelectors (typeUsesFwd ty) .fwd (s.bitAt (p + 1) == 1)
    (s.bitAt (p + 2) == 1))).whenP_fieldSelectBwd (use := typeUsesBwd ty) hl (by rw [← hr]; exact hin)
  rw [← hr] at h2
  rw [bFieldFlag, if_neg ht, Parse.bind_ok (h.getFlag_of_bitsAre hl hbit)]
  refine (Parse.bind_ok h1).trans ((Parse.bind_ok h2).trans ?_)
  rfl

/-! ## The direct mode -/

/-- Both vectors of a direct partition from the co-located vector `v`, where the time `pp` is not 0 (R277). -/
def directPair (v d : IVec) (pp pb : Int) : Mv × Mv :=
  let fwd (p d : Int) : Int := Int.tdiv (p * pb) pp + d
  let bwd (p d : Int) : Int := if d = 0 then Int.tdiv (p * (pb - pp)) pp else fwd p d - p
  (⟨toS 16 (fwd v.x d.x), toS 16 (fwd v.y d.y)⟩, ⟨toS 16 (bwd v.x d.x), toS 16 (bwd v.y d.y)⟩)

theorem directFwd_of_ne {pp : Int} (h : pp ≠ 0) (p pb d : Int) : directFwd p pp pb d = Int.tdiv (p * pb) pp + d := by
  rw [directFwd, divT, if_neg h]

theorem directBwd_of_ne {pp : Int} (h : pp ≠ 0) (p pb d : Int) :
    directBwd p pp pb d = if d = 0 then Int.tdiv (p * (pb - pp)) pp else Int.tdiv (p * pb) pp + d - p := by
  rw [directBwd, directFwd_of_ne h, divT, if_neg h, ite_not]

/-- MB.mv[0][i] and MB.mv[1][i] <- the pair. -/
def Mb.withPair (m : Mb) (i : Fin 4) (x : Mv × Mv) : Mb :=
  { m with mvFwd := m.mvFwd.set i x.1, mvBwd := m.mvBwd.set i x.2 }

theorem State.withMb_setDirect (s : State) {pp : Int} (h : pp ≠ 0) (i : Fin 4) (v d : IVec) (pb : Int) :
    (s.withMb p l m).setDirect i v d pp pb = s.withMb p l (m.withPair i (directPair v d pp pb)) := by
  rw [State.setDirect, directFwd_of_ne h, directFwd_of_ne h, directBwd_of_ne h, directBwd_of_ne h,
    State.withMb_setMv, State.withMb_setMv]
  rfl

theorem State.withMb_directOne (hp : s.slice.samePlace l) (h : s.pic.ppTime.toInt ≠ 0) (d : IVec) (i : Fin 4) :
    (s.withMb p l m).directOne d i =
      s.withMb p l (m.withPair i (directPair (mvValue (s.colocMv i)) d s.pic.ppTime.toInt s.pic.pbTime.toInt)) := by
  rw [State.directOne, State.withMb_colocMv hp]
  exact State.withMb_setDirect s h _ _ _ _

/-- The selector of field `second` of the co-located macroblock. -/
def MbType.selector (c : MbType) (second : Bool) : Bool := if second then c.fieldSelectFwd1 else c.fieldSelectFwd0

/-- A field time of the picture, shifted for field `second` of the co-located macroblock (R276). -/
def State.directTime (s : State) (t : BitVec 32) (second : Bool) : Int :=
  s.fieldTime t ((s.colocType s.mbi).selector second) second

theorem State.withMb_directField (hp : s.slice.samePlace l) (d : IVec) (second : Bool)
    (h : s.directTime s.pic.ppFieldTime second ≠ 0) :
    (s.withMb p l m).directField d second =
      s.withMb p l (m.withPair (if second then 1 else 0) (directPair (s.colocField second) d
        (s.directTime s.pic.ppFieldTime second) (s.directTime s.pic.pbFieldTime second))) := by
  have hf : (s.withMb p l m).colocField second = s.colocField second := by
    simp only [State.colocField, State.withMb_colocMv hp]
  rw [State.directField, hf, State.withMb_colocType hp]
  exact State.withMb_setDirect s h _ _ _ _

/-- The times of the direct mode are not 0: the field times of a field macroblock, the picture's of another. -/
def State.directTimed (s : State) : Prop :=
  if (s.colocType s.mbi).mvType = .mvField then
    s.directTime s.pic.ppFieldTime false ≠ 0 ∧ s.directTime s.pic.ppFieldTime true ≠ 0
  else s.pic.ppTime.toInt ≠ 0

/-- The working record of a direct macroblock with the differential `d`, by the co-located type (R276, R277). -/
def State.directMb (s : State) (m : Mb) (d : IVec) : Mb :=
  let block (n : Fin 4) : Mv × Mv :=
    directPair (mvValue (s.colocMv n)) d s.pic.ppTime.toInt s.pic.pbTime.toInt
  let field (i : Bool) : Mv × Mv :=
    directPair (s.colocField i) d (s.directTime s.pic.ppFieldTime i) (s.directTime s.pic.pbFieldTime i)
  let u : Mb := { m with mvDir := 3, mvType := (s.colocType s.mbi).mvType }
  match (s.colocType s.mbi).mvType with
  | .mv16x16 => { u with mvFwd := Quad.all (block 0).1, mvBwd := Quad.all (block 0).2 }
  | .mv8x8 => { u with
      mvFwd := ⟨(block 0).1, (block 1).1, (block 2).1, (block 3).1⟩
      mvBwd := ⟨(block 0).2, (block 1).2, (block 2).2, (block 3).2⟩ }
  | .mvField => ((u.withPair 0 (field false)).withPair 1 (field true))

theorem State.withMb_direct (hp : s.slice.samePlace l) (ht : s.directTimed) (d : IVec) :
    (s.withMb p l m).direct d = s.withMb p l (s.directMb m d) := by
  unfold State.directTimed at ht
  rw [State.direct, State.withMb_colocType hp, State.directMb]
  cases hc : (s.colocType s.mbi).mvType with
  | mv16x16 =>
    rw [if_neg (by rw [hc]; decide)] at ht
    dsimp only
    rw [show (s.withMb p l m).setMvDir (dirForward ||| dirBackward) = s.withMb p l { m with mvDir := 3 } from rfl,
      State.withMb_directOne hp ht]
    rfl
  | mv8x8 =>
    rw [if_neg (by rw [hc]; decide)] at ht
    dsimp only [fourBlocks, List.foldl]
    rw [show ((s.withMb p l m).setMvDir (dirForward ||| dirBackward)).setMvType .mv8x8 =
        s.withMb p l { m with mvDir := 3, mvType := .mv8x8 } from rfl,
      State.withMb_directOne hp ht, State.withMb_directOne hp ht, State.withMb_directOne hp ht,
      State.withMb_directOne hp ht]
    rfl
  | mvField =>
    rw [if_pos hc] at ht
    dsimp only
    rw [show ((s.withMb p l m).setMvDir (dirForward ||| dirBackward)).setMvType .mvField =
        s.withMb p l { m with mvDir := 3, mvType := .mvField } from rfl,
      State.withMb_directField hp d false ht.1, State.withMb_directField hp d true ht.2]
    rfl

/-! ## The blocks -/

/-- One block of the inter block loop (R261). -/
def interBlock (n : Fin 6) : Parse Unit := do
  let s ← getState
  if s.codedBit n then blockInterP n else update (fun s => s.setLastIndex n (-1))

theorem interBlocks_eq : interBlocks = forEach interBlock sixBlocks := rfl

theorem interBlock_uncoded {n : Fin 6} (h : s.codedBit n = false) : interBlock n s = .ok () (s.setLastIndex n (-1)) := by
  rw [interBlock, Parse.getState_bind, h]
  rfl

theorem interBlock_coded {n : Fin 6} (h : s.codedBit n = true) : interBlock n s = blockInterP n s := by
  rw [interBlock, Parse.getState_bind, h]
  rfl

/-- MB.last_index[n] <- i. -/
def Mb.withLastIndex (m : Mb) (n : Fin 6) (i : BitVec 7) : Mb := { m with lastIndex := m.lastIndex.set n i }

/-- An uncoded block of the loop inside a macroblock. -/
theorem interBlock_withMb {n : Fin 6} (h : m.cbp.getLsbD (5 - n.val) = false) :
    interBlock n (b.withMb p l m) = .ok () (b.withMb p l (m.withLastIndex n (-1))) := interBlock_uncoded h

/-- The working record after the uncoded blocks of `ns`. -/
def Mb.withUncoded (m : Mb) (ns : List (Fin 6)) : Mb := ns.foldl (fun x n => x.withLastIndex n (-1)) m

/-- The last indices after the uncoded blocks of `ns`. -/
def uncodedIndices (ns : List (Fin 6)) (x : Six (BitVec 7)) : Six (BitVec 7) := ns.foldl (fun x n => x.set n (-1)) x

theorem uncodedIndices_sixBlocks (x : Six (BitVec 7)) : uncodedIndices sixBlocks x = Six.all (-1) := rfl

theorem Mb.withUncoded_eq (m : Mb) (ns : List (Fin 6)) :
    m.withUncoded ns = { m with lastIndex := uncodedIndices ns m.lastIndex } := by
  induction ns generalizing m with
  | nil => rfl
  | cons n ns ih => exact ih (m.withLastIndex n (-1))


/-- The loop over uncoded blocks `ns` clears their last indices and goes on (R261). -/
theorem forEach_interBlock_uncoded (ns rest : List (Fin 6)) (h : ∀ n ∈ ns, m.cbp.getLsbD (5 - n.val) = false) :
    forEach interBlock (ns ++ rest) (b.withMb p l m) = forEach interBlock rest (b.withMb p l (m.withUncoded ns)) := by
  induction ns generalizing m with
  | nil => rfl
  | cons n ns ih =>
    rw [List.cons_append, forEach_cons, Parse.bind_ok (interBlock_withMb (h n List.mem_cons_self))]
    exact ih fun k hk => h k (List.mem_cons_of_mem n hk)

/-- With no coded block the loop clears the last indices (R261). -/
theorem interBlocks_uncoded (h : m.cbp = 0) :
    interBlocks (b.withMb p l m) = .ok () (b.withMb p l { m with lastIndex := Six.all (-1) }) := by
  have hn : ∀ n ∈ sixBlocks, m.cbp.getLsbD (5 - n.val) = false := by
    intro n _
    rw [h]
    exact BitVec.getLsbD_zero
  have hrun := forEach_interBlock_uncoded (b := b) (p := p) (l := l) sixBlocks [] hn
  rw [List.append_nil, Mb.withUncoded_eq, uncodedIndices_sixBlocks] at hrun
  exact hrun

/-! ## The whole operation -/

/-- MB at the start of a macroblock (10_state.md R46). -/
def State.cleanMb (s : State) : Mb := { Mb.reset with qscale := s.pic.qscale }

/-- The state at the end of a macroblock of a B picture, with the cursor at bit `p`, the slice `l` and the record `m`. -/
def State.endedB (s : State) (p : Nat) (l : Slice) (m : Mb) : State :=
  { s with
    bitpos := p
    fsm := .resyncCheck
    mb := m
    slice := { l with
      mbValid := BitVec.ofNat 20 (s.slice.mbValid.toNat + 1), nextMbi := BitVec.ofNat 20 (s.mbi + 1) }
    stores := { s.stores with
      qmem := Cells.write 0 s.mbi s.pic.qscale s.stores.qmem
      mbtype := Cells.write MbType.zero s.mbi m.typeWord s.stores.mbtype }
    eng := { s.eng with phase := .peek, failed := s.eng.failed.filter (fun i => i != s.mbi) } }

theorem State.storeMotion_b (h : s.pic.pictType = .b) : s.storeMotion = s := by rw [State.storeMotion, if_pos h]

/-- The epilogue of a macroblock of a B picture writes QMEM and MBTYPEMEM (R262, R263). -/
theorem State.withMb_endMb (hb : s.pic.pictType = .b) (hp : s.slice.samePlace l) (hq : m.qscale = s.pic.qscale)
    (hv : s.slice.mbValid.toNat + 1 < 1048576) (hi : s.mbi + 1 < 1048576) :
    (s.withMb p l m).endMb = s.endedB p l m := by
  have hmbi := State.withMb_mbi (p := p) (m := m) hp
  have hm : ((s.withMb p l m).writeQ m.qscale).storeMotion = (s.withMb p l m).writeQ m.qscale :=
    State.storeMotion_b hb
  obtain ⟨_, _, hvalid⟩ := hp
  have e1 : toU 20 ((l.mbValid.toNat + 1 : Nat) : Int) = BitVec.ofNat 20 (s.slice.mbValid.toNat + 1) := by
    rw [hvalid]
    exact toU_nat hv
  have e2 : toU 20 (((s.withMb p l m).mbi + 1 : Nat) : Int) = BitVec.ofNat 20 (s.mbi + 1) := by
    rw [hmbi]
    exact toU_nat hi
  have hend : (s.withMb p l m).endMb =
      { s with
        bitpos := p
        fsm := .resyncCheck
        mb := m
        slice := { l with
          mbValid := toU 20 ((l.mbValid.toNat + 1 : Nat) : Int), nextMbi := toU 20 (((s.withMb p l m).mbi + 1 : Nat) : Int) }
        stores := { s.stores with
          qmem := Cells.write 0 (s.withMb p l m).mbi m.qscale s.stores.qmem
          mbtype := Cells.write MbType.zero (s.withMb p l m).mbi m.typeWord s.stores.mbtype }
        eng := { s.eng with
          phase := .peek, failed := s.eng.failed.filter (fun i => i != (s.withMb p l m).mbi) } } := by
    unfold State.endMb State.epilogue
    dsimp only
    rw [show (s.withMb p l m).mb.qscale = m.qscale from rfl, hm]
    rfl
  rw [hend, e1, e2, hmbi, hq]
  rfl

/-- The slice registers at the start of a macroblock: the predictors of a row begin at zero (R271). -/
def State.rowSlice (s : State) : Slice :=
  if s.slice.mbX = 0 then { s.slice with lastMvFwd := LastMv.zero, lastMvBwd := LastMv.zero } else s.slice

theorem State.rowSlice_samePlace (s : State) : s.slice.samePlace s.rowSlice := by
  unfold State.rowSlice
  split <;> exact ⟨rfl, rfl, rfl⟩

theorem State.rowStart_eq (s : State) : s.rowStart = { s with slice := s.rowSlice } := by
  unfold State.rowStart State.rowSlice
  split <;> rfl

theorem State.rowStart_startMb (s : State) : s.rowStart.startMb = s.withMb s.pos s.rowSlice s.cleanMb := by
  rw [State.rowStart_eq]
  rfl

theorem State.rowStart_rowMissing (s : State) :
    s.rowStart.rowMissing = true ↔ s.slice.mbX = 0 ∧ s.coloc.rowprog < s.slice.mbY.toNat + 1 := by
  obtain ⟨hx, hy, _⟩ := s.rowSlice_samePlace
  rw [State.rowStart_eq, State.rowMissing, Bool.and_eq_true, beq_iff_eq, decide_eq_true_iff, hx, hy]

/-- MB_B where it waits (R271). -/
theorem execMbB_waits (hfit : s.fitsStores = true) (hrow : s.rowStart.rowMissing = true) :
    exec .mbB s = .next { s with slice := s.rowSlice, fsm := .waitRow } := by
  have hrun : mbBP s = .ok () { s with slice := s.rowSlice, fsm := .waitRow } := by
    rw [mbBP, Parse.update_bind, Parse.getState_bind, hrow, State.rowStart_eq]
    rfl
  exact (inStores_fits hfit).trans (congrArg _ (runAt_ok hrun))

/-- MB_B where it does not wait: its body, then the end. -/
theorem execMbB_of_bBody (hfit : s.fitsStores = true) (hrow : s.rowStart.rowMissing = false)
    (h : bBody (s.withMb s.pos s.rowSlice s.cleanMb) = .ok () u) : exec .mbB s = .next u.endMb := by
  have hrun : mbBP s = .ok () u.endMb := by
    rw [mbBP, Parse.update_bind, Parse.getState_bind, hrow]
    show mbBRow s.rowStart = _
    rw [mbBRow, Parse.update_bind, State.rowStart_startMb, Parse.bind_ok h]
    rfl
  exact (inStores_fits hfit).trans (congrArg _ (runAt_ok hrun))

theorem bBody_skipped (hp : s.slice.samePlace l) (h : (s.colocType s.mbi).skipped = true) :
    bBody (s.withMb p l m) = .ok () (s.withMb p l m).colocSkip := by
  rw [bBody, Parse.getState_bind, State.withMb_colocType hp, if_pos h]
  rfl

theorem bBody_coded (hp : s.slice.samePlace l) (h : (s.colocType s.mbi).skipped = false) :
    bBody (s.withMb p l m) = bCoded (s.withMb p l m) := by
  rw [bBody, Parse.getState_bind, State.withMb_colocType hp, h]
  rfl

/-- The mode, the motion and the blocks of a B macroblock, one after the other. -/
theorem bCoded_of {md : BMode} (hmode : bMode s = .ok md (b.withMb p l m))
    (hmotion : bMotion md (b.withMb p l { m with direct := md.type == .direct }) = .ok () (b.withMb q l' m'))
    (hblocks : interBlocks (b.withMb q l' m') = .ok () u) : bCoded s = .ok () u := by
  rw [bCoded, Parse.bind_ok hmode]
  exact (Parse.bind_ok hmotion).trans hblocks

theorem ReadsAt.bMotion_direct (h : ReadsAt s p (s.withMb p l m)) (hl : s.lenFits = true) (hp : p ≤ s.endPos)
    (hplace : s.slice.samePlace l) (ht : s.directTimed) (hv : s.readsMv ⟨0, 0⟩ 1 p = some (v, q)) :
    bMotion ⟨.direct, false, false⟩ (s.withMb p l m) = .ok () (s.withMb q l (s.directMb m v)) := by
  rw [bMotion, if_pos rfl]
  show (Machine.mvdPair ⟨0, 0⟩ 1 >>= _) _ = _
  rw [Parse.bind_ok (h.mvdPair_withMb hl hp Nat.one_ne_zero hv), update_apply, State.withMb_direct hplace ht]

theorem bMotion_directSkip (hplace : s.slice.samePlace l) (ht : s.directTimed) :
    bMotion ⟨.direct, true, false⟩ (s.withMb p l m) = .ok () (s.withMb p l (s.directMb m ⟨0, 0⟩)) := by
  rw [bMotion, if_pos rfl]
  show update _ _ = _
  rw [update_apply, State.withMb_direct hplace ht]

theorem bMotion_explicit (ht : ty ≠ .direct) (f : Bool) : bMotion ⟨ty, false, f⟩ = bExplicit ⟨ty, false, f⟩ :=
  if_neg ht

theorem State.directMb_cbp (s : State) (m : Mb) (d : IVec) : (s.directMb m d).cbp = m.cbp := by
  unfold State.directMb
  cases (s.colocType s.mbi).mvType <;> rfl

theorem State.directMb_qscale (s : State) (m : Mb) (d : IVec) : (s.directMb m d).qscale = m.qscale := by
  unfold State.directMb
  cases (s.colocType s.mbi).mvType <;> rfl

theorem State.directMb_lastIndex (s : State) (m : Mb) (d : IVec) : (s.directMb m d).lastIndex = m.lastIndex := by
  unfold State.directMb
  cases (s.colocType s.mbi).mvType <;> rfl

end Sys2Proof.Machine
end

section
/-! MB_B as whole next states (43_macroblock.md R271 to R277): the co-located skip, the direct mode with and without its
differential, and the frame and field vectors of an explicit macroblock with no coded block. -/

namespace Sys2Proof.Machine

variable {s b u : State} {p q r : Nat} {l : Slice} {m : Mb} {d v v' w : IVec} {ty : BType} {row : VlcRow}

/-- MB_B begins in a B picture and does not wait: the premises of every clause but the wait. -/
structure State.StartsB (s : State) : Prop where
  len : s.lenFits = true
  fits : s.fitsStores = true
  picture : s.pic.pictType = .b
  valid : s.slice.mbValid.toNat + 1 < 1048576
  index : s.mbi + 1 < 1048576
  ready : ¬(s.slice.mbX = 0 ∧ s.coloc.rowprog < s.slice.mbY.toNat + 1)

theorem State.StartsB.notMissing (h : s.StartsB) : s.rowStart.rowMissing = false :=
  eq_false_of_ne_true fun hm => h.ready (s.rowStart_rowMissing.1 hm)

/-- A body that keeps the picture leaves the end of a B macroblock. -/
theorem State.StartsB.exec (h : s.StartsB) (hplace : s.slice.samePlace l) (hq : m.qscale = s.pic.qscale)
    (hbody : bBody (s.withMb s.pos s.rowSlice s.cleanMb) = .ok () (s.withMb p l m)) :
    exec .mbB s = .next (s.endedB p l m) := by
  rw [execMbB_of_bBody h.fits h.notMissing hbody, State.withMb_endMb h.picture hplace hq h.valid h.index]

/-- A skipped co-located macroblock: no bit is read (R272). -/
theorem State.StartsB.exec_skipped (h : s.StartsB) (hc : (s.colocType s.mbi).skipped = true) :
    Machine.exec .mbB s =
      .next (s.endedB s.pos s.rowSlice { Mb.reset with qscale := s.pic.qscale, skipped := true, mvDir := 2 }) :=
  h.exec s.rowSlice_samePlace rfl (bBody_skipped s.rowSlice_samePlace hc)

/-- The three parts of a macroblock with no coded block, whose co-located one is not skipped. -/
theorem State.StartsB.exec_uncoded (h : s.StartsB) (hc : (s.colocType s.mbi).skipped = false) {md : BMode} {m m' : Mb}
    (hmode : bMode (s.withMb s.pos s.rowSlice s.cleanMb) = .ok md (s.withMb p s.rowSlice m))
    (hmotion : bMotion md (s.withMb p s.rowSlice { m with direct := md.type == .direct }) = .ok () (s.withMb q l m'))
    (hplace : s.slice.samePlace l) (hq : m'.qscale = s.pic.qscale) (hm : m'.cbp = 0) :
    Machine.exec .mbB s = .next (s.endedB q l { m' with lastIndex := Six.all (-1) }) := by
  refine h.exec hplace hq ?_
  rw [bBody_coded s.rowSlice_samePlace hc]
  exact bCoded_of hmode hmotion (interBlocks_uncoded hm)

/-- The three parts of an explicit macroblock with no coded block. -/
theorem State.StartsB.exec_explicit (h : s.StartsB) (hc : (s.colocType s.mbi).skipped = false) (ht : ty ≠ .direct)
    {f : Bool} {m m' : Mb}
    (hmode : bMode (s.withMb s.pos s.rowSlice s.cleanMb) = .ok ⟨ty, false, f⟩ (s.withMb p s.rowSlice m))
    (hm : m.direct = false)
    (hmotion : bExplicit ⟨ty, false, f⟩ (s.withMb p s.rowSlice m) = .ok () (s.withMb q l m'))
    (hplace : s.slice.samePlace l) (hq : m'.qscale = s.pic.qscale) (hcbp : m'.cbp = 0) :
    Machine.exec .mbB s = .next (s.endedB q l { m' with lastIndex := Six.all (-1) }) := by
  refine h.exec_uncoded hc hmode ?_ hplace hq hcbp
  rw [bMotion_explicit ht]
  dsimp only
  rw [beq_false_of_ne ht, ← hm]
  exact hmotion

/-- The record of a direct macroblock keeps the last indices of the one it starts from. -/
theorem State.directMb_clearedIndices (hm : m.lastIndex = Six.all (-1)) :
    { s.directMb m d with lastIndex := Six.all (-1) } = s.directMb m d := by
  rw [← hm, ← s.directMb_lastIndex m d]

/-- The record of a macroblock that begins its direct mode. -/
def State.directStart (s : State) : Mb := { s.cleanMb with direct := true }

/-- The direct mode without a differential (R273, R277). -/
theorem State.StartsB.exec_directSkip (h : s.StartsB) (hc : (s.colocType s.mbi).skipped = false)
    (hbit : s.bitsAre s.pos 1 1 = true) (ht : s.directTimed) :
    Machine.exec .mbB s = .next (s.endedB (s.pos + 1) s.rowSlice (s.directMb s.directStart ⟨0, 0⟩)) := by
  have hread : ReadsAt s s.pos (s.withMb s.pos s.rowSlice s.cleanMb) := ReadsAt.ofBase (ReadsAt.refl s) _ _ _
  have hrun := h.exec_uncoded hc (hread.bMode_directSkip h.len hbit)
    (bMotion_directSkip (m := s.directStart) s.rowSlice_samePlace ht) s.rowSlice_samePlace
    (State.directMb_qscale s s.directStart _) (State.directMb_cbp s s.directStart _)
  rwa [State.directMb_clearedIndices rfl] at hrun

/-- The direct mode with its differential (R273, R277). -/
theorem State.StartsB.exec_direct (h : s.StartsB) (hc : (s.colocType s.mbi).skipped = false)
    (hbits : s.bitsAre s.pos 2 1 = true) (hr : s.readsRow .mbTypeB (s.pos + 2) row = true)
    (hs : row.sym = .btype .direct) (hv : s.readsMv ⟨0, 0⟩ 1 (s.pos + 2 + row.len) = some (d, q)) (ht : s.directTimed) :
    Machine.exec .mbB s = .next (s.endedB q s.rowSlice (s.directMb s.directStart d)) := by
  have hread : ReadsAt s s.pos (s.withMb s.pos s.rowSlice s.cleanMb) := ReadsAt.ofBase (ReadsAt.refl s) _ _ _
  have hrun := h.exec_uncoded hc (hread.bMode_uncoded h.len hbits hr hs (bInterlaced_direct rfl))
    ((hread.withMb (s.pos + 2 + row.len) s.rowSlice s.directStart).bMotion_direct h.len
      (State.readsRow_inside h.len (State.bitsAre_iff.1 hbits).1 hr) s.rowSlice_samePlace ht hv) s.rowSlice_samePlace
    (State.directMb_qscale s s.directStart _) (State.directMb_cbp s s.directStart _)
  rwa [State.directMb_clearedIndices rfl] at hrun

/-! ## Explicit macroblocks -/

/-- The slice after the vectors of the directions in use. -/
theorem Slice.withVector_withVector (l : Slice) (fwd bwd : Bool) (x y : LastMv) :
    (l.withVector fwd .fwd x).withVector bwd .bwd y =
      { l with
        lastMvFwd := if fwd then x else l.lastMvFwd
        lastMvBwd := if bwd then y else l.lastMvBwd } := by
  cases fwd <;> cases bwd <;> rfl

theorem Slice.withVector_samePlace (l : Slice) (use : Bool) (d : Dir) (x : LastMv) :
    l.samePlace (l.withVector use d x) := by
  cases use <;> cases d <;> exact ⟨rfl, rfl, rfl⟩

theorem Slice.samePlace_trans {l l' l'' : Slice} (h : l.samePlace l') (h' : l'.samePlace l'') : l.samePlace l'' := by
  obtain ⟨hx, hy, hv⟩ := h
  obtain ⟨hx', hy', hv'⟩ := h'
  exact ⟨hx'.trans hx, hy'.trans hy, hv'.trans hv⟩

/-- What a direction in use leaves does not depend on its register form where that form is exact. -/
theorem ite_congr_of_true {α : Type} {use : Bool} {x y z : α} (h : use = true → x = y) :
    (if use = true then x else z) = if use = true then y else z := by
  cases use with
  | true => exact h rfl
  | false => rfl

/-- MB.mv_dir of a macroblock that uses the given directions. -/
def usedDirs (fwd bwd : Bool) : BitVec 2 :=
  let forward : BitVec 2 := if fwd then 0#2 ||| dirBit .fwd else 0#2
  if bwd then forward ||| dirBit .bwd else forward

/-- The record of an explicit frame macroblock with no coded block. -/
def State.frameMb (s : State) (fwd bwd : Bool) (x y : Mv) : Mb :=
  { s.cleanMb with
    mvDir := usedDirs fwd bwd
    mvFwd := if fwd then ⟨x, Vec.zero 16, Vec.zero 16, Vec.zero 16⟩ else s.cleanMb.mvFwd
    mvBwd := if bwd then ⟨y, Vec.zero 16, Vec.zero 16, Vec.zero 16⟩ else s.cleanMb.mvBwd }

theorem State.frameMb_eq (s : State) (fwd bwd : Bool) (x y : Mv) :
    (s.cleanMb.withVector fwd .fwd x).withVector bwd .bwd y = s.frameMb fwd bwd x y := by
  cases fwd <;> cases bwd <;> rfl

theorem State.frameMb_congr {fwd bwd : Bool} {x x' y y' : Mv} (hx : fwd = true → x = x') (hy : bwd = true → y = y') :
    s.frameMb fwd bwd x y = s.frameMb fwd bwd x' y' := by
  have h1 := ite_congr_of_true (z := s.cleanMb.mvFwd)
    fun hu => congrArg (fun v => (⟨v, Vec.zero 16, Vec.zero 16, Vec.zero 16⟩ : Quad Mv)) (hx hu)
  have h2 := ite_congr_of_true (z := s.cleanMb.mvBwd)
    fun hu => congrArg (fun v => (⟨v, Vec.zero 16, Vec.zero 16, Vec.zero 16⟩ : Quad Mv)) (hy hu)
  rw [State.frameMb, h1, h2, State.frameMb]

/-- A range code of the picture has 3 bits. -/
theorem State.fc_le (s : State) : s.fc ≤ 7 := Nat.le_of_lt_succ s.pic.fCode.isLt

theorem State.bc_le (s : State) : s.bc ≤ 7 := Nat.le_of_lt_succ s.pic.bCode.isLt

theorem State.readsVector_fits {fc : Nat} (hfc : fc ≤ 7) {use : Bool} {x : Mv} (hv : s.readsVector use x fc p v q) :
    use = true → v.toMv = v.reg := by
  rintro rfl
  exact State.readsMv_fits hfc hv

theorem State.readsFields_fits {fc : Nat} (hfc : fc ≤ 7) {use : Bool} {x : LastMv}
    (hv : s.readsFields use x fc p v v' q r) :
    use = true →
      (v.toMv = v.reg ∧ v.doubled.toMv = v.doubled.reg) ∧ v'.toMv = v'.reg ∧ v'.doubled.toMv = v'.doubled.reg := by
  rintro rfl
  exact ⟨State.readsMv_half_fits hfc hv.1, State.readsMv_half_fits hfc hv.2⟩

/-- The interlaced part of a frame macroblock: no bit, or its field flag in an interlaced sequence. -/
theorem ReadsAt.bInterlaced_frame (h : ReadsAt s p (b.withMb p l m)) (hl : s.lenFits = true) (ht : ty ≠ .direct)
    (hm : m.cbp = 0) (hbit : b.seq.interlaced = true → s.bitsAre p 1 0 = true) :
    bInterlaced ty (b.withMb p l m) = .ok false (b.withMb (if b.seq.interlaced then p + 1 else p) l m) := by
  cases hi : b.seq.interlaced with
  | true => exact (bInterlaced_explicit hi hm).trans (h.bFieldFlag_frame hl ht (hbit hi))
  | false => exact bInterlaced_progressive hi

/-- An explicit frame macroblock with no coded block (R275). -/
theorem State.StartsB.exec_frame (h : s.StartsB) (hc : (s.colocType s.mbi).skipped = false)
    (hbits : s.bitsAre s.pos 2 1 = true) (hr : s.readsRow .mbTypeB (s.pos + 2) row = true)
    (hs : row.sym = .btype ty) (ht : ty ≠ .direct) (hfc : s.fc ≠ 0) (hbc : s.bc ≠ 0)
    (hbit : s.seq.interlaced = true → s.bitsAre (s.pos + 2 + row.len) 1 0 = true)
    (hp : p = if s.seq.interlaced then s.pos + 2 + row.len + 1 else s.pos + 2 + row.len)
    (hv : s.readsVector (typeUsesFwd ty) s.rowSlice.lastMvFwd.field0 s.fc p v q)
    (hv' : s.readsVector (typeUsesBwd ty) s.rowSlice.lastMvBwd.field0 s.bc q v' r) :
    Machine.exec .mbB s = .next (s.endedB r
      { s.rowSlice with
        lastMvFwd := if typeUsesFwd ty then ⟨v.reg, v.reg⟩ else s.rowSlice.lastMvFwd
        lastMvBwd := if typeUsesBwd ty then ⟨v'.reg, v'.reg⟩ else s.rowSlice.lastMvBwd }
      (s.frameMb (typeUsesFwd ty) (typeUsesBwd ty) v.reg v'.reg)) := by
  have hread : ReadsAt s s.pos (s.withMb s.pos s.rowSlice s.cleanMb) := ReadsAt.ofBase (ReadsAt.refl s) _ _ _
  have htype := State.readsRow_inside h.len (State.bitsAre_iff.1 hbits).1 hr
  have hin : p ≤ s.endPos := by
    rw [hp]
    split
    · next hi => exact (State.bitsAre_iff.1 (hbit hi)).1
    · exact htype
  have hlace := (hread.withMb (s.pos + 2 + row.len) s.rowSlice s.cleanMb).bInterlaced_frame h.len ht rfl hbit
  rw [← hp] at hlace
  have hmotion := (hread.withMb p s.rowSlice s.cleanMb).bExplicit_frame h.len hin (fun _ => hfc) (fun _ => hbc) hv hv'
  have hmode := hread.bMode_uncoded h.len hbits hr hs hlace
  rw [Slice.withVector_withVector, show ({ s.cleanMb with mvType := .mv16x16 } : Mb) = s.cleanMb from rfl,
    State.frameMb_eq] at hmotion
  have hf := State.readsVector_fits s.fc_le hv
  have hb := State.readsVector_fits s.bc_le hv'
  have hrun := h.exec_explicit hc ht hmode rfl hmotion s.rowSlice_samePlace rfl rfl
  rw [ite_congr_of_true fun hu => congrArg (fun x => LastMv.mk x x) (hf hu),
    ite_congr_of_true fun hu => congrArg (fun x => LastMv.mk x x) (hb hu), State.frameMb_congr hf hb] at hrun
  exact hrun

/-- The record of an explicit field macroblock with no coded block, up to its selectors. -/
def State.fieldMb (s : State) (m : Mb) (fwd bwd : Bool) (x x' y y' : Mv) : Mb :=
  { m with
    mvType := .mvField
    mvDir := usedDirs fwd bwd
    mvFwd := if fwd then ⟨x, x', Vec.zero 16, Vec.zero 16⟩ else s.cleanMb.mvFwd
    mvBwd := if bwd then ⟨y, y', Vec.zero 16, Vec.zero 16⟩ else s.cleanMb.mvBwd }

/-- The record after the selectors of a field macroblock. -/
def State.selectedMb (s : State) (fwd bwd f f' g g' : Bool) : Mb :=
  { s.cleanMb with
    fieldSelectFwd0 := fwd && f
    fieldSelectFwd1 := fwd && f'
    fieldSelectBwd0 := bwd && g
    fieldSelectBwd1 := bwd && g' }

theorem State.selectedMb_eq (s : State) (fwd bwd f f' g g' : Bool) :
    (s.cleanMb.withSelectors fwd .fwd f f').withSelectors bwd .bwd g g' = s.selectedMb fwd bwd f f' g g' := by
  cases fwd <;> cases bwd <;> rfl

theorem State.fieldMb_eq (s : State) (fwd bwd f f' g g' : Bool) (x x' y y' : Mv) :
    ({ s.selectedMb fwd bwd f f' g g' with mvType := .mvField }.withFields fwd .fwd x x').withFields bwd .bwd y y' =
      s.fieldMb (s.selectedMb fwd bwd f f' g g') fwd bwd x x' y y' := by
  cases fwd <;> cases bwd <;> rfl

theorem State.fieldMb_congr {fwd bwd : Bool} {x x' y y' w w' z z' : Mv} (hx : fwd = true → x = w ∧ x' = w')
    (hy : bwd = true → y = z ∧ y' = z') : s.fieldMb m fwd bwd x x' y y' = s.fieldMb m fwd bwd w w' z z' := by
  have h1 := ite_congr_of_true (z := s.cleanMb.mvFwd)
    fun hu => congrArg₂ (fun v v' => (⟨v, v', Vec.zero 16, Vec.zero 16⟩ : Quad Mv)) (hx hu).1 (hx hu).2
  have h2 := ite_congr_of_true (z := s.cleanMb.mvBwd)
    fun hu => congrArg₂ (fun v v' => (⟨v, v', Vec.zero 16, Vec.zero 16⟩ : Quad Mv)) (hy hu).1 (hy hu).2
  rw [State.fieldMb, h1, h2, State.fieldMb]

/-- An explicit field macroblock with no coded block (R276): `k` is the bit after the forward selectors. -/
theorem State.StartsB.exec_field (h : s.StartsB) (hc : (s.colocType s.mbi).skipped = false)
    (hbits : s.bitsAre s.pos 2 1 = true) (hr : s.readsRow .mbTypeB (s.pos + 2) row = true)
    (hs : row.sym = .btype ty) (ht : ty ≠ .direct) (hfc : s.fc ≠ 0) (hbc : s.bc ≠ 0) (hi : s.seq.interlaced = true)
    {n k : Nat} (hn : n = s.pos + 2 + row.len) (hbit : s.bitsAre n 1 1 = true)
    (hk : k = if typeUsesFwd ty then n + 3 else n + 1) (hp : p = if typeUsesBwd ty then k + 2 else k)
    (hin : p ≤ s.endPos) {f f' g g' : IVec} {q q' r r' : Nat}
    (hv : s.readsFields (typeUsesFwd ty) s.rowSlice.lastMvFwd s.fc p f f' q q')
    (hv' : s.readsFields (typeUsesBwd ty) s.rowSlice.lastMvBwd s.bc q' g g' r r') :
    Machine.exec .mbB s = .next (s.endedB r'
      { s.rowSlice with
        lastMvFwd := if typeUsesFwd ty then ⟨f.doubled.reg, f'.doubled.reg⟩ else s.rowSlice.lastMvFwd
        lastMvBwd := if typeUsesBwd ty then ⟨g.doubled.reg, g'.doubled.reg⟩ else s.rowSlice.lastMvBwd }
      (s.fieldMb (s.selectedMb (typeUsesFwd ty) (typeUsesBwd ty) (s.bitAt (n + 1) == 1) (s.bitAt (n + 2) == 1)
        (s.bitAt k == 1) (s.bitAt (k + 1) == 1)) (typeUsesFwd ty) (typeUsesBwd ty) f.reg f'.reg g.reg g'.reg)) := by
  subst hn
  have hread : ReadsAt s s.pos (s.withMb s.pos s.rowSlice s.cleanMb) := ReadsAt.ofBase (ReadsAt.refl s) _ _ _
  have hlace := (bInterlaced_explicit hi rfl).trans
    ((hread.withMb (s.pos + 2 + row.len) s.rowSlice s.cleanMb).bFieldFlag_field h.len ht hbit hk hp hin)
  rw [State.selectedMb_eq] at hlace
  have hmode := hread.bMode_uncoded h.len hbits hr hs hlace
  have hmotion := (hread.withMb p s.rowSlice (s.selectedMb (typeUsesFwd ty) (typeUsesBwd ty)
    (s.bitAt (s.pos + 2 + row.len + 1) == 1) (s.bitAt (s.pos + 2 + row.len + 2) == 1) (s.bitAt k == 1)
    (s.bitAt (k + 1) == 1))).bExplicit_field h.len hin hfc hbc hv hv'
  rw [Slice.withVector_withVector, State.fieldMb_eq] at hmotion
  have hf := State.readsFields_fits s.fc_le hv
  have hb := State.readsFields_fits s.bc_le hv'
  have hrun := h.exec_explicit hc ht hmode rfl hmotion s.rowSlice_samePlace rfl rfl
  rw [ite_congr_of_true fun hu => congrArg₂ LastMv.mk (hf hu).1.2 (hf hu).2.2,
    ite_congr_of_true fun hu => congrArg₂ LastMv.mk (hb hu).1.2 (hb hu).2.2,
    State.fieldMb_congr (fun hu => ⟨(hf hu).1.1, (hf hu).2.1⟩) fun hu => ⟨(hb hu).1.1, (hb hu).2.1⟩] at hrun
  exact hrun

end Sys2Proof.Machine
end

section
/-! A coded B macroblock (43_macroblock.md R247, R261, R274; 44_residual.md R291, R296, R305): the pattern and the
quantiser delta of its mode, a block of one coefficient, and the end with the stepped quantiser. -/

namespace Sys2Proof.Machine

variable {s b u : State} {e : Raise} {p q : Nat} {l : Slice} {m : Mb} {v v' : IVec} {row : VlcRow}
  {tb : RlTable} {run level : Nat} {last : Bool}

/-! ## A block of one coefficient -/

/-- A table's entry with its sign bit (R297). -/
theorem ReadsAt.nextCoef_entry (h : ReadsAt s p u) (hl : s.lenFits = true) (hp : p ≤ s.endPos)
    (hr : s.readsRow (vlcOf tb) p row = true) (hs : row.sym = .rl last run level) (hin : p + row.len + 1 ≤ s.endPos) :
    nextCoef tb u =
      .ok ⟨⟨last, run, signedLevel level (s.bitAt (p + row.len) == 1)⟩, false⟩ (u.atBit (p + row.len + 1)) := by
  have hsign : withSign last run level (u.atBit (p + row.len)) =
      .ok ⟨last, run, signedLevel level (s.bitAt (p + row.len) == 1)⟩ (u.atBit (p + row.len + 1)) := by
    rw [withSign, Parse.bind_ok ((h.atBit _).getFlag hl hin)]
    rfl
  rw [nextCoef, Parse.bind_ok (h.vlc hl hp hr), hs]
  exact Parse.bind_ok hsign

/-- A last coefficient inside the block ends the loop at its position (R296, R302). -/
theorem ReadsAt.coefLoop_last (h : ReadsAt s p u) (hl : s.lenFits = true) (hp : p ≤ s.endPos)
    (hr : s.readsRow (vlcOf tb) p row = true) (hs : row.sym = .rl true run level) (hrun : run ≤ 63)
    (hin : p + row.len + 1 ≤ s.endPos) (n : Fin 6) (scan : List Nat) (mode : DeqMode) (fuel : Nat) :
    coefLoop n tb scan mode (fuel + 1) (-1) u =
      .ok (run : Int) ((u.atBit (p + row.len + 1)).setCoef n (permAt scan run)
        (deq mode u.pic.qscale.toNat (signedLevel level (s.bitAt (p + row.len) == 1)))) := by
  have hj : -1 + (run : Int) + 1 + (if (true : Bool) = true then 192 else 0) = run + 192 := by
    rw [if_pos rfl]
    omega
  have hval (c : Coef) (w : State) : valueOf mode ⟨c, false⟩ w = .ok (deq mode w.pic.qscale.toNat c.level) w := rfl
  rw [coefLoop, Parse.bind_ok (h.nextCoef_entry hl hp hr hs hin)]
  dsimp only
  rw [Parse.bind_ok (hval _ _), hj, if_pos (by omega), if_neg (by omega), add_sub_cancel_right, Int.toNat_natCast,
    Parse.update_bind]
  rfl

/-- Whether an inter block is dequantised as it is read (R291). -/
def State.interMode (s : State) : DeqMode := if s.seq.mpegQuant then .plain else .scaled

/-- An inter block of one coefficient (R291, R302, R305). -/
theorem ReadsAt.blockInterP_last (h : ReadsAt s p u) (hl : s.lenFits = true) (hp : p ≤ s.endPos)
    (hrvlc : u.useRvlc = false) (hr : s.readsRow .rlInter p row = true) (hs : row.sym = .rl true run level)
    (hrun : run ≤ 63) (hin : p + row.len + 1 ≤ s.endPos) (n : Fin 6) :
    blockInterP n u = .ok () (((u.atBit (p + row.len + 1)).setCoef n (permAt u.interScan run)
      (deq u.interMode u.pic.qscale.toNat (signedLevel level (s.bitAt (p + row.len) == 1)))).setLastIndex n run) := by
  have hloop := h.coefLoop_last (tb := .inter) hl hp hr hs hrun hin n u.interScan u.interMode 64
  rw [blockInterP, Parse.getState_bind, hrvlc]
  exact Parse.bind_ok hloop

/-- The dequantised level of an entry: its sign is the sign bit (R305). -/
theorem deq_signedLevel (mode : DeqMode) (q : Nat) (hlevel : 1 ≤ level) (minus : Bool) :
    deq mode q (signedLevel level minus) = if minus then -deq mode q level else deq mode q level := by
  have hpos : (0 : Int) < level := by exact_mod_cast hlevel
  cases minus with
  | false => rfl
  | true =>
    cases mode with
    | plain => rfl
    | scaled =>
      show deq .scaled q (-(level : Int)) = -deq .scaled q level
      rw [deq, deq]
      rw [if_neg (by omega), if_pos hpos]
      ring

/-- The dequantised level of an entry in an inter block (R305). -/
theorem State.deq_interMode (s : State) {k : Nat} {qs : Int} (hq : (k : Int) = qs) (hlevel : 1 ≤ level) :
    deq s.interMode k level =
      if s.seq.mpegQuant then (level : Int) else level * (2 * qs) + (if qs % 2 = 1 then qs else qs - 1) := by
  subst hq
  rw [State.interMode]
  cases s.seq.mpegQuant with
  | true => rfl
  | false =>
    have hodd : k % 2 = 1 ↔ (k : Int) % 2 = 1 := by omega
    show deq .scaled k level = _
    rw [deq, if_pos (by exact_mod_cast hlevel), if_neg Bool.false_ne_true]
    simp only [hodd]

/-- A coefficient's value by its sign bit, where the table's entry has the given size (R301, R305). -/
theorem State.deq_signed (s : State) {k : Nat} {size : Int} (hsize : deq s.interMode k level = size) (hlevel : 1 ≤ level) :
    deq s.interMode k (signedLevel level (s.bitAt p == 1)) = if s.bitAt p = 1 then -size else size := by
  rw [deq_signedLevel _ _ hlevel, hsize]
  simp only [beq_iff_eq]

/-- MB.last_index holds a position of a block. -/
theorem toS7_position (hrun : run ≤ 63) : toS 7 (run : Int) = BitVec.ofNat 7 run := by
  rw [toS_ofInt (by omega) (by norm_num; omega), BitVec.ofInt_natCast]

/-- A word reads as the value last written there, whatever the form of the memory, where that value is listed. -/
theorem Cells.read_write_listed {α : Type} [DecidableEq α] {d v : α} (hv : v ≠ d) (i : Nat) (c : Cells α) :
    Cells.read d (Cells.write d i v c) i = v := by
  have hhead (rest : Cells α) : Cells.read d ((i, v) :: rest) i = v := if_pos rfl
  induction c with
  | nil =>
    rw [Cells.write, if_neg hv]
    exact hhead []
  | cons x rest ih =>
    obtain ⟨j, w⟩ := x
    rw [Cells.write, if_neg hv, if_neg hv]
    split_ifs with hlt heq
    · exact hhead _
    · exact hhead _
    · rw [Cells.read, if_neg heq, if_neg hlt]
      exact ih

/-! ## The quantiser -/

/-- The state after the quantiser delta `d` (R247). -/
def State.stepped (s : State) (d : Int) : State := s.setQscale (s.steppedQuant d)

/-- The quantiser delta of a B macroblock, 2 up or down by its bit (R274). -/
def State.deltaAt (s : State) (p : Nat) : Int := if s.bitAt p = 1 then 2 else -2

theorem State.deltaAt_eq (s : State) (p : Nat) : 4 * (s.memRead p 1 : Int) - 2 = s.deltaAt p := by
  have := State.bitAt_lt_two (s := s) (p := p)
  rw [State.memRead_one, State.deltaAt]
  split <;> omega

/-- A quantiser delta that stands at the bit (R274). -/
theorem ReadsAt.dquantBP_present (h : ReadsAt s p (s.withMb p l m)) (hl : s.lenFits = true)
    (hbit : s.bitsAre p 1 1 = true) (hin : p + 2 ≤ s.endPos) :
    dquantBP e (s.withMb p l m) = .ok () ((s.stepped (s.deltaAt (p + 1))).withMb (p + 2) l
      { m with dquant := toS 3 (s.deltaAt (p + 1)), qscale := s.steppedQuant (s.deltaAt (p + 1)) }) := by
  have hup : Machine.getBits e 1 (s.withMb (p + 1) l m) = .ok (s.memRead (p + 1) 1) (s.withMb (p + 2) l m) :=
    (h.withMb (p + 1) l m).getBits hl (n := 1) hin
  rw [dquantBP, Parse.bind_ok (h.getFlag_of_bitsAre hl hbit)]
  show (Machine.getBits e 1 >>= _) (s.withMb (p + 1) l m) = _
  rw [Parse.bind_ok hup, State.deltaAt_eq, update_apply]
  rfl

/-- The quantiser of a B macroblock after its delta, as a number. -/
theorem State.steppedQuant_eq (s : State) (h3 : 3 ≤ s.seq.quantPrecision.toNat) (h9 : s.seq.quantPrecision.toNat ≤ 9)
    (d : Int) {q : Int} (hq : q = max 1 (min (s.pic.qscale.toNat + d) (2 ^ s.seq.quantPrecision.toNat - 1))) :
    s.steppedQuant d = BitVec.ofInt 9 q ∧ ((BitVec.ofInt 9 q).toNat : Int) = q ∧ BitVec.ofInt 9 q ≠ 0 := by
  have hlo : (2 : Int) ^ 3 ≤ 2 ^ s.seq.quantPrecision.toNat := pow_le_pow_right₀ (by norm_num) h3
  have hhi : (2 : Int) ^ s.seq.quantPrecision.toNat ≤ 2 ^ 9 := pow_le_pow_right₀ (by norm_num) h9
  norm_num at hlo hhi
  have hclip : clip (s.pic.qscale.toNat + d) 1 (2 ^ s.seq.quantPrecision.toNat - 1) = q := by
    rw [clip, hq]
    split_ifs <;> omega
  have hq1 : 1 ≤ q := by omega
  have hq2 : q < 512 := by omega
  obtain ⟨k, rfl⟩ := Int.eq_ofNat_of_zero_le (by omega : 0 ≤ q)
  have hk : k < 2 ^ 9 := by omega
  have hnum : (BitVec.ofInt 9 (k : Int)).toNat = k := by
    rw [BitVec.ofInt_natCast, BitVec.toNat_ofNat, Nat.mod_eq_of_lt hk]
  refine ⟨?_, congrArg Nat.cast hnum, fun h0 => ?_⟩
  · rw [State.steppedQuant, hclip]
    exact (toU_nat hk).trans (BitVec.ofInt_natCast 9 k).symm
  · rw [h0] at hnum
    obtain rfl : 0 = k := hnum
    omega

/-- MB.dquant holds the delta of a B macroblock. -/
theorem State.toS3_deltaAt (s : State) (p : Nat) : toS 3 (s.deltaAt p) = BitVec.ofInt 3 (s.deltaAt p) := by
  rw [State.deltaAt]
  split <;> decide

/-! ## The mode -/

/-- The record of a coded forward macroblock after its mode: one coded block, the delta and the stepped quantiser. -/
def State.codedMb (s : State) (d : Int) : Mb :=
  { s.cleanMb with cbp := 1, dquant := toS 3 d, qscale := s.steppedQuant d }

/-- modb is 00, the pattern has its last bit alone, and a quantiser delta follows (R273, R274). -/
theorem ReadsAt.bMode_delta (h : ReadsAt s p (s.withMb p l s.cleanMb)) (hl : s.lenFits = true)
    (hbits : s.bitsAre p 2 0 = true) (hr : s.readsRow .mbTypeB (p + 2) row = true) (hs : row.sym = .btype .forward)
    {n : Nat} (hn : n = p + 2 + row.len) (hpat : s.bitsAre n 7 3 = true) (hin : n + 8 ≤ s.endPos)
    (hi : s.seq.interlaced = false) :
    bMode (s.withMb p l s.cleanMb) = .ok ⟨.forward, false, false⟩
      ((s.stepped (s.deltaAt (n + 7))).withMb (n + 8) l (s.codedMb (s.deltaAt (n + 7)))) := by
  subst hn
  obtain ⟨h1, h2⟩ := State.bitsAre_split (m := 1) (n := 1) hbits
  obtain ⟨htype, _⟩ := State.bitsAre_iff.1 hbits
  obtain ⟨h6, h7⟩ := State.bitsAre_split (m := 6) (n := 1) hpat
  obtain ⟨hin6, hval⟩ := State.bitsAre_iff.1 h6
  have hpattern : bPattern (0 % 2 ^ 1 == 1) (s.withMb (p + 2 + row.len) l s.cleanMb) =
      .ok () (s.withMb (p + 2 + row.len + 6) l { s.cleanMb with cbp := 1 }) := by
    show (Machine.getBits mbBEnd 6 >>= _) _ = _
    rw [Parse.bind_ok ((h.withMb (p + 2 + row.len) l s.cleanMb).getBits hl hin6), hval]
    rfl
  rw [h.bMode_explicit hl h1]
  refine bExplicitMode_of ((h.withMb (p + 1) l s.cleanMb).getFlag_of_bitsAre hl h2)
    ((h.withMb (p + 2) l s.cleanMb).bTypeP hl htype hr hs) hpattern ?_ (bInterlaced_progressive hi)
  exact (h.withMb (p + 2 + row.len + 6) l { s.cleanMb with cbp := 1 }).dquantBP_present hl h7 hin

/-! ## The blocks -/

/-- With the last block alone coded, the loop reads that block (R261). -/
theorem ReadsAt.interBlocks_last (h : ReadsAt s p (b.withMb p l m)) (hl : s.lenFits = true) (hp : p ≤ s.endPos)
    (hcbp : m.cbp = 1) (hrvlc : b.useRvlc = false) (hr : s.readsRow .rlInter p row = true)
    (hs : row.sym = .rl true run level) (hrun : run ≤ 63) (hin : p + row.len + 1 ≤ s.endPos) :
    interBlocks (b.withMb p l m) = .ok () (b.withMb (p + row.len + 1) l { m with
      block := m.block.set 5 (Cells.write 0 (permAt b.interScan run)
        (toS 16 (deq b.interMode b.pic.qscale.toNat (signedLevel level (s.bitAt (p + row.len) == 1)))) (m.block.get 5))
      lastIndex := (uncodedIndices [0, 1, 2, 3, 4] m.lastIndex).set 5 (toS 7 run) }) := by
  have hn : ∀ n ∈ ([0, 1, 2, 3, 4] : List (Fin 6)), m.cbp.getLsbD (5 - n.val) = false := by
    rw [hcbp]
    decide
  have hcoded : (b.withMb p l (m.withUncoded [0, 1, 2, 3, 4])).codedBit 5 = true := by
    rw [Mb.withUncoded_eq]
    show m.cbp.getLsbD 0 = true
    rw [hcbp]
    rfl
  have hblock := (h.withMb p l (m.withUncoded [0, 1, 2, 3, 4])).blockInterP_last hl hp hrvlc hr hs hrun hin 5
  have hlast := (interBlock_coded hcoded).trans hblock
  rw [interBlocks_eq, show sixBlocks = [0, 1, 2, 3, 4] ++ [5] from rfl, forEach_interBlock_uncoded _ _ hn, forEach_cons,
    Parse.bind_ok hlast, Mb.withUncoded_eq]
  rfl

/-! ## The whole operation -/

/-- The record of a coded forward macroblock before its blocks: the delta `d`, the vector `x`. -/
def State.movedMb (s : State) (d : Int) (x : Mv) : Mb :=
  { s.codedMb d with
    mvDir := usedDirs true false
    mvFwd := ⟨x, Vec.zero 16, Vec.zero 16, Vec.zero 16⟩ }

/-- The record of a coded forward macroblock: the delta `d`, the vector `x`, one coefficient in its last block. -/
def State.codedRecord (s : State) (d : Int) (x : Mv) (pos : Nat) (value : Int) (run : Nat) : Mb :=
  { s.movedMb d x with
    block := (Six.all []).set 5 (Cells.write 0 pos (toS 16 value) [])
    lastIndex := (Six.all (-1)).set 5 (toS 7 run) }

/-- A forward macroblock with a quantiser delta and one coefficient (R273, R274, R275, R302). -/
theorem State.StartsB.exec_coded (h : s.StartsB) (hc : (s.colocType s.mbi).skipped = false)
    (hi : s.seq.interlaced = false) (hrvlc : s.useRvlc = false) (hfc : s.fc ≠ 0)
    (hbits : s.bitsAre s.pos 2 0 = true) (hr : s.readsRow .mbTypeB (s.pos + 2) row = true)
    (hs : row.sym = .btype .forward) {n : Nat} (hn : n = s.pos + 2 + row.len) (hpat : s.bitsAre n 7 3 = true)
    (hin : n + 8 ≤ s.endPos) (hv : s.readsMv (mvValue s.rowSlice.lastMvFwd.field0) s.fc (n + 8) = some (v, q))
    {row' : VlcRow} (hr' : s.readsRow .rlInter q row' = true) (hs' : row'.sym = .rl true run level) (hrun : run ≤ 63)
    (hend : q + row'.len + 1 ≤ s.endPos) :
    Machine.exec .mbB s = .next ((s.stepped (s.deltaAt (n + 7))).endedB (q + row'.len + 1)
      (s.rowSlice.withVector true .fwd ⟨v.toMv, v.toMv⟩)
      (s.codedRecord (s.deltaAt (n + 7)) v.toMv (permAt s.interScan run)
        (deq s.interMode (s.steppedQuant (s.deltaAt (n + 7))).toNat
          (signedLevel level (s.bitAt (q + row'.len) == 1))) run)) := by
  have hread : ReadsAt s s.pos (s.withMb s.pos s.rowSlice s.cleanMb) := ReadsAt.ofBase (ReadsAt.refl s) _ _ _
  have hmode := hread.bMode_delta h.len hbits hr hs hn hpat hin hi
  generalize s.deltaAt (n + 7) = d at hmode ⊢
  have hstep (p : Nat) (l : Slice) (m : Mb) : ReadsAt s p ((s.stepped d).withMb p l m) := ⟨rfl, rfl, rfl, rfl⟩
  have hmotion : bExplicit ⟨.forward, false, false⟩ ((s.stepped d).withMb (n + 8) s.rowSlice (s.codedMb d)) =
      .ok () ((s.stepped d).withMb q (s.rowSlice.withVector true .fwd ⟨v.toMv, v.toMv⟩) (s.movedMb d v.toMv)) :=
    (hstep (n + 8) s.rowSlice (s.codedMb d)).bExplicit_frame (ty := .forward) (v := v) (v' := v) (r := q)
    h.len hin (fun _ => hfc) (by intro hf; cases hf) hv rfl
  have hblocks := (hstep q (s.rowSlice.withVector true .fwd ⟨v.toMv, v.toMv⟩) (s.movedMb d v.toMv)).interBlocks_last
    h.len (State.readsMv_inside h.len hin hv) rfl hrvlc hr' hs' hrun hend
  have hbody := (bBody_coded s.rowSlice_samePlace hc).trans (bCoded_of hmode hmotion hblocks)
  have hplace : s.slice.samePlace (s.rowSlice.withVector true .fwd ⟨v.toMv, v.toMv⟩) :=
    Slice.samePlace_trans s.rowSlice_samePlace (Slice.withVector_samePlace _ _ _ _)
  rw [execMbB_of_bBody h.fits h.notMissing hbody,
    State.withMb_endMb (s := s.stepped d) h.picture hplace rfl h.valid h.index]
  rfl

/-- The word of a coefficient that a block of zeros takes. -/
theorem read_codedRecord (s : State) (d : Int) (x : Mv) (pos : Nat) (value : Int) (run : Nat) :
    Cells.read 0 ((s.codedRecord d x pos value run).block.get 5) pos = toS 16 value :=
  Cells.read_write_same Cells.wf_nil

end Sys2Proof.Machine
end

section
/-! MB_B waits, skips, or moves (43_macroblock.md R270 to R277). -/

namespace Sys2Proof.Machine

variable {s : State}

/-- The move out of WAIT_ROW (30_encoding.md R110). -/
theorem step_waitRow (h : s.fsm = .waitRow) :
    step s = .next (if s.slice.mbY.toNat + 1 ≤ s.coloc.rowprog then { s with fsm := .mb } else s) := by
  have hmove : engineMove s = some s.leaveWait := by rw [engineMove, h]
  rw [step_of_engineMove hmove, State.leaveWait]
  by_cases hrow : s.coloc.rowprog < s.slice.mbY.toNat + 1
  · rw [if_pos hrow, if_neg (by omega)]
  · rw [if_neg hrow, if_pos (by omega)]
    rfl

/-- Where the macroblock's row is published, COLOC reads as it stands (20_memory.md R87). -/
theorem State.coloc_published (hi : s.mbi < s.mbTotal) (hrow : s.mbi / s.mbW + 1 ≤ s.coloc.rowprog) :
    s.colocType s.mbi = Cells.read MbType.zero s.coloc.mbtype s.mbi
      ∧ ∀ n : Fin 4, s.colocMv n = Cells.read (Vec.zero 16) s.coloc.mvmem (s.blockPos (lumaBlock n)) := by
  have hp : s.published s.mbi = true := State.published_iff.2 ⟨hi, hrow⟩
  exact ⟨State.colocType_published hp, fun n => State.colocMv_published hp⟩

/-- Settles O37: each clause is the whole run of MB_B in its case; its parts are the mode, the motion, the blocks and
the end. -/
theorem mbBWaitsSkipsOrMovesDirectly : Obligations.MbBWaitsSkipsOrMovesDirectly := by
  unfold Obligations.MbBWaitsSkipsOrMovesDirectly
  intro s hl hfit hb hv hi rowBegins missing slice other clean ended oneDirect there pp pb block shifted field direct timed
    reg value half doubled fc bc
  have starts (hm : ¬missing) : s.StartsB := ⟨hl, hfit, hb, hv, hi, hm⟩
  refine ⟨fun hm => ?_, step_waitRow, State.coloc_published, fun hm hc => ?_, fun hm hc hbit ht => ?_,
    fun row ty hm hc hbits hr hs => ⟨fun d q hty hd ht => ?_, fun f b q r hty hf hb' hbit hfirst hfwd => ?_,
      fun f f' b b' q q' r r' hty hf hb' hlace hbit hin hfwd hbwd => ?_⟩,
    fun row row' f q run level hm hc hlace hrvlc hf h3 h9 hbits hr hs => ?_⟩
  · exact execMbB_waits hfit (s.rowStart_rowMissing.2 hm)
  · exact (starts hm).exec_skipped hc
  · exact (starts hm).exec_directSkip hc hbit ht
  · subst hty
    exact (starts hm).exec_direct hc hbits hr hs hd ht
  · cases ty with
    | direct => exact absurd rfl hty
    | _ => exact (starts hm).exec_frame (v := f) (v' := b) hc hbits hr hs hty hf hb' hbit rfl hfirst hfwd
  · cases ty with
    | direct => exact absurd rfl hty
    | _ =>
      exact (starts hm).exec_field (f := f) (f' := f') (g := b) (g' := b') (q := q) (r := r) hc hbits hr hs hty
        hf hb' hlace rfl hbit rfl rfl hin hfwd hbwd
  · intro p hpat hin hmv hr' hs' hrun hlevel hend d qs size scan
    have hexec := (starts hm).exec_coded hc hlace hrvlc hf hbits hr hs rfl hpat hin hmv hr' hs' hrun hend
    obtain ⟨hstep, hqs, hne⟩ := s.steppedQuant_eq h3 h9 (s.deltaAt (p + 7)) rfl
    have hvalue := s.deq_signed (p := q + row'.len) (s.deq_interMode hqs hlevel) hlevel
    rw [hstep, hvalue] at hexec
    refine ⟨_, hexec, rfl, rfl, rfl, s.toS3_deltaAt _, hstep, rfl, ?_, State.readsMv_fits s.fc_le hmv,
      congrArg _ (toS7_position hrun), read_codedRecord _ _ _ _ _ _, ?_⟩
    · exact congrArg (fun x => { s.pic with qscale := x, chromaQscale := x }) hstep
    · show Cells.read 0 (Cells.write 0 s.mbi (s.steppedQuant (s.deltaAt (p + 7))) s.stores.qmem) s.mbi = _
      rw [hstep]
      exact Cells.read_write_listed hne _ _

end Sys2Proof.Machine
end

section
/-! The encoding (30_encoding.md R101, R102, R111, R130): which class a suffix has, what the decoder answers to the words
of the encoder, and how a step reaches the decoded instruction. -/

namespace Sys2Proof.Machine

variable {s t : State} {i : Instr} {c : Byte}

/-! ## The class of a suffix -/

/-- The first row that has the suffix gives its class. -/
theorem classOf_first {l rest : List ScRange} {r : ScRange} (hr : r.first ≤ c.toNat ∧ c.toNat ≤ r.last)
    (hl : ∀ q ∈ l, c.toNat < q.first ∨ q.last < c.toNat) : classOf (l ++ r :: rest) c = r.cls := by
  have hpass : l.find? (fun q => decide (q.first ≤ c.toNat) && decide (c.toNat ≤ q.last)) = none := by
    refine List.find?_eq_none.2 fun q hq => ?_
    have := hl q hq
    simp only [Bool.and_eq_true, decide_eq_true_eq]
    omega
  have hrow : (decide (r.first ≤ c.toNat) && decide (c.toNat ≤ r.last)) = true := by
    simpa only [Bool.and_eq_true, decide_eq_true_eq] using hr
  rw [classOf, List.find?_append, hpass, Option.none_or, List.find?_cons, hrow]

theorem classOf_voObj (h : c.toNat ≤ 0x1F) : classOf Config.scClass c = .voObj :=
  classOf_first (l := []) (r := ⟨0x00, 0x1F, .voObj⟩) ⟨Nat.zero_le _, h⟩ nofun

theorem classOf_vol (h : 0x20 ≤ c.toNat) (h' : c.toNat ≤ 0x2F) : classOf Config.scClass c = .vol :=
  classOf_first (l := Config.scClass.take 1) (r := ⟨0x20, 0x2F, .vol⟩) ⟨h, h'⟩ (by simp [Config.scClass]; omega)

theorem classOf_reserved (h : 0x30 ≤ c.toNat) (h' : c.toNat ≤ 0xAF) : classOf Config.scClass c = .reserved :=
  classOf_first (l := Config.scClass.take 12) (r := ⟨0x30, 0xAF, .reserved⟩) ⟨h, h'⟩ (by simp [Config.scClass]; omega)

theorem classOf_other (h : 0xB9 ≤ c.toNat) : classOf Config.scClass c = .other :=
  classOf_first (l := Config.scClass.take 11) (r := ⟨0xB9, 0xFF, .other⟩) ⟨h, Nat.le_of_lt_succ c.isLt⟩
    (by simp [Config.scClass]; omega)

/-! ## Decode and encode -/

/-- The four bytes of a start code select the instruction of its suffix's class. -/
theorem decode_startCodeBytes (k : List ScRange) (c : Byte) :
    decode (.startCode k) (startCodeBytes c) = .ok (startCodeClass k c) := rfl

/-- The encoder writes a start code as the word of its suffix, which decodes to it where the class is its own. -/
theorem decode_startCode_of_class {k : ScClass} (h : classOf Config.scClass c = k) :
    decode (.startCode Config.scClass) (startCodeBytes c) = .ok (k.instr c) := by
  rw [decode_startCodeBytes, startCodeClass, h]

/-- An escape's selector bits choose its tier in a table that is not reversible (44_residual.md R296). -/
theorem decode_escape {tb : RlTable} (h : (!tb.isRvlc) = true) (bytes : List Byte) :
    decode (.coefficient false tb .escape) bytes = decodeEscape false tb bytes :=
  if_neg (by simpa using h)

/-- Settles O1: a start code by the class of its suffix, an escape by its selector bits; every other selection names its
instruction. -/
theorem decodeEncodeRoundTrip : Obligations.DecodeEncodeRoundTrip := by
  unfold Obligations.DecodeEncodeRoundTrip
  intro i h
  cases i with
  | scVoObj c => exact decode_startCode_of_class (classOf_voObj (of_decide_eq_true h))
  | scVol c =>
    obtain ⟨lo, hi⟩ := Bool.and_eq_true_iff.1 h
    exact decode_startCode_of_class (classOf_vol (of_decide_eq_true lo) (of_decide_eq_true hi))
  | scReserved c =>
    obtain ⟨lo, hi⟩ := Bool.and_eq_true_iff.1 h
    exact decode_startCode_of_class (classOf_reserved (of_decide_eq_true lo) (of_decide_eq_true hi))
  | scOther c => exact decode_startCode_of_class (classOf_other (of_decide_eq_true h))
  | coefEsc1 tb => exact decode_escape h _
  | coefEsc2 tb => exact decode_escape h _
  | _ => rfl

/-- Settles O2: each word is run through the decoder. -/
theorem tableWordsDecode : Obligations.TableWordsDecode := by
  unfold Obligations.TableWordsDecode
  decide

/-! ## Steps -/

/-- Where FSM makes no move of its own a step runs the decoded instruction. -/
theorem step_of_decoded (hm : engineMove s = none) (hd : decode (fetch s).1 (fetch s).2 = .ok i) : step s = exec i s := by
  simp only [step, hm, runSelected, hd]

/-- Settles O3: a step is a move of FSM or the decoded instruction. -/
theorem stepRunsDecoded : Obligations.StepRunsDecoded := by
  unfold Obligations.StepRunsDecoded
  exact fun s => ⟨fun i hm hd _ => step_of_decoded hm hd, fun t hm => step_of_engineMove hm⟩

/-- Where 00 00 01 and a suffix stand at the aligned cursor, SCAN fetches the start code. -/
theorem fetch_startCode (hf : s.fsm = .scan) (hin : s.scanByte + 4 ≤ s.len.toNat) (h0 : s.byteAt s.scanByte = 0)
    (h1 : s.byteAt (s.scanByte + 1) = 0) (h2 : s.byteAt (s.scanByte + 2) = 1) :
    fetch s = (.startCode s.cfg.scClass, startCodeBytes (s.byteAt (s.scanByte + 3))) := by
  have hin' : s.scanByte + 3 ≤ s.len.toNat := by omega
  have hhere : s.startCodeHere = true := by
    simp [State.startCodeHere, State.prefixAt, hin, hin', h0, h1, h2]
  have hbytes : s.bytesFrom s.scanByte 4 = startCodeBytes (s.byteAt (s.scanByte + 3)) := by
    simp only [State.bytesFrom, startCodeBytes, h0, h1, h2]
  simp only [fetch, hf, hhere, if_true, hbytes]

theorem engineMove_scan (hf : s.fsm = .scan) : engineMove s = none := by simp only [engineMove, hf]

theorem engineMove_idle (hf : s.fsm = .idle) : engineMove s = none := by simp only [engineMove, hf]

theorem fetch_idle (hf : s.fsm = .idle) : fetch s = (.command, [s.commandByte]) := by simp only [fetch, hf]

/-- Settles O4: in SCAN the start code at the aligned cursor is fetched, in IDLE the command register. -/
theorem stepInScanAndIdle : Obligations.StepInScanAndIdle := by
  unfold Obligations.StepInScanAndIdle
  refine fun s => ⟨fun c hf hin h0 h1 h2 hc => ?_, fun hf => ?_⟩
  · refine step_of_decoded (engineMove_scan hf) ?_
    rw [fetch_startCode hf hin h0 h1 h2, hc]
    exact decode_startCodeBytes _ _
  · refine step_of_decoded (engineMove_idle hf) ?_
    rw [fetch_idle hf]
    exact decode_commandByte

end Sys2Proof.Machine
end

section
/-! What a parse can raise (60_exceptions.md R371): inside an operation an INVALID_DATA or a fatal result, and nothing
that ends a command or a slice; the picture header may skip its picture too. Said once for every parse. -/

namespace Sys2Proof.Machine

variable {α β : Type} {P : State → Prop} {Q Q' : Raise → Prop} {s t u : State} {e bad r : Raise} {n : Nat}

/-! ## Raises -/

/-- An INVALID_DATA, or a code of the class Fatal-for-frame (60_exceptions.md R374). -/
def Raise.IsFailure (r : Raise) : Prop := r.code = .invalidData ∨ r.code.isFatal = true

theorem Raise.IsFailure.truncated (t : Tag) : (Machine.truncated t).IsFailure := .inr rfl

theorem Raise.IsFailure.exhausted (t : Tag) : (Machine.exhausted t).IsFailure := .inr rfl

theorem Raise.IsFailure.invalid (t : Tag) : (Machine.invalid t).IsFailure := .inl rfl

/-- What the picture header can raise: a failure, or FRAME_SKIPPED (41_header_vop.md R189, R192). -/
def Raise.OfPictureHeader (r : Raise) : Prop := r.IsFailure ∨ r.code = .frameSkipped

theorem Raise.IsFailure.ofPictureHeader (h : r.IsFailure) : r.OfPictureHeader := .inl h

/-! ## What leaves a property alone -/

/-- A property of State that no write of BITPOS, STATUS or SLICE changes. -/
structure StreamBlind (P : State → Prop) : Prop where
  pos : ∀ s p, P s → P (s.setPos p)
  status : ∀ s f, P s → P (s.updStatus f)
  slice : ∀ s f, P s → P (s.updSlice f)
  pic : ∀ s f, P s → P (s.updPic f)

/-- Where nothing is asked of the states, a parse is held to its raises alone. -/
theorem free : StreamBlind fun _ => True := ⟨fun _ _ _ => trivial, fun _ _ _ => trivial, fun _ _ _ => trivial,
  fun _ _ _ => trivial⟩

theorem streamBlind_fsm (f : Fsm) : StreamBlind fun s => s.fsm = f := ⟨fun _ _ h => h, fun _ _ h => h, fun _ _ h => h,
  fun _ _ h => h⟩

/-- The parse ends in no raise but one that meets `Q`. -/
abbrev Raises (Q : Raise → Prop) (m : Parse α) : Prop := Keeps (fun _ => True) Q m

/-- The parse ends in no raise but a failure. -/
abbrev FailsOnly (m : Parse α) : Prop := Raises Raise.IsFailure m

theorem Keeps.mono {m : Parse α} (h : Keeps P Q m) (hq : ∀ r, Q r → Q' r) : Keeps P Q' m := by
  intro s hs
  cases hm : m s with
  | ok a t => exact h.ok hs hm
  | error r t => exact (h.error hs hm).imp_right (hq r)

theorem FailsOnly.inPictureHeader {m : Parse α} (h : FailsOnly m) : Raises Raise.OfPictureHeader m :=
  h.mono fun _ => Raise.IsFailure.ofPictureHeader

theorem raises_update {f : State → State} : Raises Q (update f) := .update fun _ _ => trivial

namespace StreamBlind

theorem forward (h : StreamBlind P) (s : State) (q : Nat) (hs : P s) (_ : s.pos ≤ q) (_ : q ≤ s.endPos) :
    P (s.setPos q) := h.pos s q hs

theorem getBits (h : StreamBlind P) (he : Q e) : Keeps P Q (getBits e n) := .getBits h.forward he

theorem getFlag (h : StreamBlind P) (he : Q e) : Keeps P Q (getFlag e) := .getFlag h.forward he

theorem skipBits (h : StreamBlind P) (he : Q e) : Keeps P Q (skipBits e n) := .skipBits h.forward he

theorem getSigned (h : StreamBlind P) (he : Q e) : Keeps P Q (getSigned e n) := .getSigned h.forward he

theorem getFolded (h : StreamBlind P) (he : Q e) : Keeps P Q (getFolded e n) := .getFolded h.forward he

theorem vlc (h : StreamBlind P) {tb : VlcTable} (he : Q e) : Keeps P Q (vlc e tb) := .vlc h.forward he

theorem vlcNumber (h : StreamBlind P) {tb : VlcTable} (he : Q e) (hb : Q bad) : Keeps P Q (vlcNumber e bad tb) :=
  .vlcNumber h.forward he hb

theorem log (h : StreamBlind P) (s : State) (f : LogFlag) (hs : P s) : P (s.log f) := h.status s _ hs

theorem marker (h : StreamBlind P) (he : Q e) (hi : Q (invalid e.tag)) : Keeps P Q (marker e) :=
  .marker h.forward h.log he hi

/-! ## The rows of a header -/

section Rows

variable {φ ε : Type} {g : Reader φ ε} (hends : ∀ t, Q (g.ends t)) (hmark : ∀ t, Q (invalid (g.ends t).tag))
  (htake : ∀ f v, Keeps P Q (g.take f v)) (hact : ∀ a env, Keeps P Q (g.act a env))

include hends hmark htake hact

theorem runItem (h : StreamBlind P) (env : Env φ) (i : Item φ ε) : Keeps P Q (runItem g env i) := by
  cases i with
  | field f w => exact .getState_bind fun _ _ => .bind (h.getBits (hends _)) fun v => .bind (htake f v) fun _ => .pure _
  | put f v => exact .bind (htake f v) fun _ => .pure _
  | skip w => exact .getState_bind fun _ _ => .bind (h.skipBits (hends _)) fun _ => .pure _
  | mark => exact .getState_bind fun _ _ => .pure _
  | marker t => exact .bind (h.marker (hends t) (hmark t)) fun _ => .pure _
  | log f => exact .bind (.update fun u => h.log u f) fun _ => .pure _
  | need n => exact .getState_bind fun _ _ => .ite (fun _ => .raise (hends _)) fun _ => .pure _
  | act a => exact .bind (hact a env) fun _ => .pure _
  | leave => exact .pure _

theorem runRows [DecidableEq φ] (h : StreamBlind P) (l : List (Row φ ε)) : ∀ env, Keeps P Q (runRows g l env) := by
  induction l with
  | nil => exact fun _ => .pure _
  | cons r rows ih =>
    intro env
    refine .getState_bind fun _ _ => .ite (fun _ => .bind (h.runItem hends hmark htake hact env r.item) fun o => ?_)
      fun _ => ih env
    cases o with
    | none => exact .pure _
    | some env' => exact ih env'

theorem runLayout [DecidableEq φ] (h : StreamBlind P) (l : List (Row φ ε)) : Keeps P Q (runLayout g l) :=
  .getState_bind fun _ _ => h.runRows hends hmark htake hact l _

end Rows

/-! ## Parts that the packet header shares with the picture header -/

/-- The newpred fields raise as an exhausted read of theirs does, or at their marker. -/
theorem newpredFields (h : StreamBlind P) {ends : Tag → Raise} {tg : Tag} (he : ∀ t, Q (ends t))
    (hi : ∀ t, Q (invalid (ends t).tag)) : Keeps P Q (newpredFields ends tg) :=
  .getState_bind fun _ _ => h.runLayout he hi (fun _ _ => .pure _) (fun a => nomatch a) _

theorem trajPoint (h : StreamBlind P) {ex : Tag → Raise} {family : Tag} (he : ∀ t, Q (ex t))
    (hi : ∀ t, Q (invalid (ex t).tag)) (hb : Q bad) : Keeps P Q (trajPoint ex family bad) := by
  have component : Keeps P Q (trajComponent (ex family) bad) :=
    .bind (h.vlcNumber (he _) hb) fun _ => .ite (fun _ => .pure _) fun _ => h.getFolded (he _)
  have items : ∀ l v, Keeps P Q (trajItems ex family bad l v) := by
    intro l
    induction l with
    | nil => exact fun _ => .pure _
    | cons i l ih =>
      intro v
      cases i with
      | component c => exact .bind (.bind component fun _ => .pure _) fun _ => ih _
      | marker t o =>
        exact .bind (.getState_bind fun _ _ => .bind (.whenP fun _ => h.marker (he t) (hi t)) fun _ => .pure _)
          fun _ => ih _
  exact .getState_bind fun _ _ => items _ _

/-! ## The packet header -/

theorem packetTrajP (h : StreamBlind P) : Keeps P Raise.IsFailure packetTrajP := by
  refine .withTag (.forEach (fun _ => .getState_bind fun _ _ => .whenP fun _ => .bind ?_ fun _ => .pure _) _)
  exact h.trajPoint (fun _ => .inr rfl) (fun _ => .inl rfl) (.inl rfl)

theorem packetExtension (h : StreamBlind P) : Keeps P Raise.IsFailure packetExtension := by
  have modulo : ∀ n, Keeps P Raise.IsFailure (moduloBase n) := by
    intro n
    induction n with
    | zero => exact .raise (.exhausted _)
    | succ n ih => exact .bind (h.getFlag (.exhausted _)) fun _ => .ite (fun _ => ih) fun _ => .pure _
  have range : Keeps P Raise.IsFailure extRange :=
    .bind (h.getBits (.exhausted _)) fun _ => .whenP fun _ => .update fun u => h.log u _
  have mark : Keeps P Raise.IsFailure (Machine.marker packetEnd) := h.marker (.exhausted _) (.invalid _)
  have skip : ∀ k, Keeps P Raise.IsFailure (Machine.skipBits packetEnd k) := fun _ => h.skipBits (.exhausted _)
  exact .getState_bind fun _ _ => .bind (modulo _) fun _ => .bind mark fun _ => .bind (skip _) fun _ => .bind mark fun _ =>
    .bind (skip _) fun _ => .bind (skip _) fun _ => .bind (.whenP fun _ => h.packetTrajP) fun _ =>
    .bind (.whenP fun _ => range) fun _ => .whenP fun _ => range

theorem packetHeaderP (h : StreamBlind P) : Keeps P Raise.IsFailure packetHeaderP := by
  have zeros : ∀ n l, Keeps P Raise.IsFailure (packetPrefix n l) := by
    intro n
    induction n with
    | zero => exact fun _ => .pure _
    | succ n ih => exact fun _ => .bind (h.getFlag (.exhausted _)) fun _ => .ite (fun _ => .pure _) fun _ => ih _
  have lead : Keeps P Raise.IsFailure packetLead := .getState_bind fun _ _ => .ite (fun _ => .raise (.invalid _)) fun _ =>
    .bind (zeros _ _) fun _ => .ite (fun _ => .pure _) fun _ => .raise (.invalid _)
  have flag : ∀ b, Keeps P Raise.IsFailure (packetExtFlag b) := fun _ =>
    .ite (fun _ => h.getFlag (.exhausted _)) fun _ => .pure _
  have number : Keeps P Raise.IsFailure packetNumber := .getState_bind fun _ _ => .bind (h.getBits (.exhausted _)) fun _ =>
    .ite (fun _ => .raise (.invalid _)) fun _ => .ite (fun _ => .raise (.invalid _)) fun _ => .pure _
  have quant : Keeps P Raise.IsFailure packetQuant := .getState_bind fun _ _ => .bind (h.getBits (.exhausted _)) fun _ =>
    .whenP fun _ => .update fun u => h.pic u _
  exact .bind lead fun _ => .getState_bind fun _ _ => .bind (flag _) fun _ => .bind number fun _ => .bind quant fun _ =>
    .bind (flag _) fun _ => .bind (.whenP fun _ => h.packetExtension) fun _ =>
    .bind (.whenP fun _ => h.newpredFields .exhausted fun _ => .invalid _) fun _ => .bind (.update fun u => h.slice u _)
    fun _ => .pure _

end StreamBlind

namespace FailsOnly

/-! ## The header run -/

theorem takeResolution (v : Nat) : FailsOnly (takeResolution v) :=
  .bind raises_update fun _ => .getState_bind fun _ _ => .ite (fun _ => .raise (.inr rfl)) fun _ => raises_update

theorem takeWarpPoints (n : Nat) : FailsOnly (takeWarpPoints n) :=
  .ite (fun _ => .bind raises_update fun _ => .raise (.inr rfl)) fun _ => raises_update

theorem takeSeq (f : SeqField) (v : Nat) : FailsOnly (takeSeq f v) := by
  cases f
  case timeResolution => exact takeResolution v
  case warpPoints => exact takeWarpPoints v
  all_goals first | exact .pure _ | exact raises_update

theorem loadQmatrixP (k : MatKind) : FailsOnly (loadQmatrixP k) := by
  have entries : ∀ n i last, FailsOnly (matrixEntries k n i last) := by
    intro n
    induction n with
    | zero => exact fun _ _ => .pure _
    | succ n ih =>
      exact fun _ _ => .getState_bind fun _ _ => .ite (fun _ => .raise (.truncated _)) fun _ =>
        .bind (free.getBits (.truncated _)) fun _ => .ite (fun _ => raises_update) fun _ =>
        .bind raises_update fun _ => ih _ _
  exact entries _ _ _

theorem actSeq (a : SeqAct) (env : Env SeqField) : FailsOnly (actSeq a env) := by
  cases a with
  | loadMatrix k => exact loadQmatrixP k
  | refuseShape | refuseChroma => exact .raise (.invalid _)
  | _ => exact raises_update

theorem seqRows (t : Tag) (l : List (Row SeqField SeqAct)) : FailsOnly (runLayout (seqReader t) l) :=
  free.runLayout .truncated (fun _ => .invalid _) takeSeq actSeq l

theorem cplxEstP : FailsOnly cplxEstP := by
  have take : ∀ f v, FailsOnly (takeCplx f v) := by
    intro f v
    cases f
    case counter => exact raises_update
    all_goals exact .pure _
  have act : ∀ a env, FailsOnly (actCplx a env) := by
    intro a env
    cases a
    exact raises_update
  exact .bind raises_update fun _ => .getState_bind fun _ _ => free.runLayout .truncated (fun _ => .invalid _) take act _

theorem volPart (p : VolPart) : FailsOnly (volPart p) := by
  cases p with
  | rows l => exact seqRows _ l
  | complexity => exact .getState_bind fun _ _ => .whenP fun _ => cplxEstP

theorem extStudio : FailsOnly extStudio := by
  have matrix : ∀ m, FailsOnly (extMatrix m) := fun _ => .bind (free.getFlag (.truncated _)) fun _ => .whenP fun _ =>
    .forEach (fun _ => .bind (free.getBits (.truncated _)) fun _ => raises_update) _
  exact .bind (free.getBits (.truncated _)) fun _ => .whenP fun _ => .forEach matrix _

/-! ## Blocks -/

theorem dcDiffP (n : Fin 6) : FailsOnly (dcDiffP n) := by
  have bits : ∀ k, FailsOnly (dcDiffBits k) := fun _ => .getState_bind fun _ _ =>
    .ite (fun _ => .bind (free.getBits (.exhausted _)) fun _ => .ite (fun _ => .pure _) fun _ =>
      .bind (free.getBits (.exhausted _)) fun _ => .pure _) fun _ => free.getFolded (.exhausted _)
  exact .bind (free.vlcNumber (.exhausted _) (.invalid _)) fun _ => .ite (fun _ => .raise (.invalid _)) fun _ =>
    .ite (fun _ => .pure _) fun _ => .bind (bits _) fun _ =>
    .bind (.whenP fun _ => free.marker (.exhausted _) (.invalid _)) fun _ => .pure _

theorem predDcP (n : Fin 6) (d : Int) : FailsOnly (predDcP n d) := by
  have range : ∀ l k, FailsOnly (dcRange l k) := fun _ _ => .getState_bind fun _ _ =>
    .ite (fun _ => .raise (.invalid _)) fun _ => .pure _
  exact .getState_bind fun _ _ => .bind raises_update fun _ => .bind (range _ _) fun _ => .bind raises_update fun _ =>
    .pure _

theorem withSign (l : Bool) (r v : Nat) : FailsOnly (withSign l r v) := .bind (free.getFlag (.exhausted _)) fun _ => .pure _

theorem coefEsc1P (tb : RlTable) : FailsOnly (coefEsc1P tb) := by
  refine .getState_bind fun _ _ => .bind (free.vlc (.exhausted _)) fun r => ?_
  cases entryOf r with
  | some _ => exact withSign _ _ _
  | none => exact .raise (.invalid _)

theorem coefEsc2P (tb : RlTable) : FailsOnly (coefEsc2P tb) := by
  refine .getState_bind fun _ _ => .bind (free.vlc (.exhausted _)) fun r => ?_
  cases entryOf r with
  | some _ => exact withSign _ _ _
  | none => exact .raise (.invalid _)

theorem coefEsc3P : FailsOnly coefEsc3P := by
  have level : FailsOnly esc3Level := .getState_bind fun _ _ => .ite (fun _ => free.getSigned (.exhausted _)) fun _ =>
    .bind (free.marker (.exhausted _) (.invalid _)) fun _ => .bind (free.getSigned (.exhausted _)) fun _ =>
    .bind (free.marker (.exhausted _) (.invalid _)) fun _ => .pure _
  exact .bind (free.getFlag (.exhausted _)) fun _ => .bind (free.getBits (.exhausted _)) fun _ => .bind level fun _ =>
    .pure _

theorem coefRvlcP : FailsOnly coefRvlcP := by
  have flag : FailsOnly (getFlag blockEnd) := free.getFlag (.exhausted _)
  have bits : ∀ k, FailsOnly (getBits blockEnd k) := fun _ => free.getBits (.exhausted _)
  have mark : FailsOnly rvlcMarker := .bind flag fun _ => .ite (fun _ => .pure _) fun _ => .raise (.invalid _)
  exact .bind mark fun _ => .bind flag fun _ => .bind (bits _) fun _ => .bind mark fun _ => .bind (bits _) fun _ =>
    .bind (bits _) fun _ => .ite (fun _ => .raise (.invalid _)) fun _ => withSign _ _ _

theorem nextCoef (tb : RlTable) : FailsOnly (nextCoef tb) := by
  have skip : ∀ k, FailsOnly (skipBits blockEnd k) := fun _ => free.skipBits (.exhausted _)
  have escape : FailsOnly (escapeP tb) := .getState_bind fun _ _ =>
    .ite (fun _ => .bind (skip _) fun _ => .bind (coefEsc1P tb) fun _ => .pure _) fun _ =>
    .ite (fun _ => .bind (skip _) fun _ => .bind (coefEsc2P tb) fun _ => .pure _) fun _ =>
    .bind (skip _) fun _ => .bind coefEsc3P fun _ => .pure _
  refine .bind (free.vlc (.exhausted _)) fun r => ?_
  match r with
  | some (.rl _ _ _) => exact .bind (withSign _ _ _) fun _ => .pure _
  | some .escape => exact .ite (fun _ => .bind coefRvlcP fun _ => .pure _) fun _ => escape
  | some (.num _) | some (.btype _) | none => exact .raise (.invalid _)

theorem coefLoop (n : Fin 6) (tb : RlTable) (scan : List Nat) (d : DeqMode) (fuel : Nat) :
    ∀ i, FailsOnly (coefLoop n tb scan d fuel i) := by
  have value : ∀ k, FailsOnly (valueOf d k) := fun _ => .getState_bind fun _ _ =>
    .ite (fun _ => .getState_bind fun _ _ => .ite (fun _ => .pure _) fun _ => .ite (fun _ => .raise (.invalid _)) fun _ =>
      .pure _) fun _ => .pure _
  induction fuel with
  | zero => exact fun _ => .pure _
  | succ fuel ih =>
    exact fun i => .bind (nextCoef tb) fun k => .bind (value k) fun v =>
      .ite (fun _ => .ite (fun _ => .raise (.invalid _)) fun _ => .bind raises_update fun _ => .pure _) fun _ =>
        .bind raises_update fun _ => ih _

theorem blockIntraP (n : Fin 6) (c : Bool) : FailsOnly (blockIntraP n c) := by
  have early : FailsOnly (earlyDc n) := .getState_bind fun _ _ => .ite (fun _ => raises_update) fun _ =>
    .bind (dcDiffP n) fun _ => .bind (predDcP n _) fun _ => raises_update
  have coefs : ∀ i, FailsOnly (intraCoefs n c i) := fun _ => .getState_bind fun _ _ =>
    .ite (fun _ => coefLoop _ _ _ _ _ _) fun _ => .pure _
  refine .getState_bind fun _ _ => .ite (fun _ => ?_) fun _ => ?_
  · exact .bind early fun _ => .bind (coefs _) fun _ => raises_update
  · exact .bind raises_update fun _ => .bind (coefs _) fun _ => .getState_bind fun _ _ => .bind (predDcP n _) fun _ =>
      raises_update

theorem blockInterP (n : Fin 6) : FailsOnly (blockInterP n) :=
  .getState_bind fun _ _ => .bind (coefLoop _ _ _ _ _ _) fun _ => raises_update

/-! ## Macroblocks -/

theorem dquantP (he : e.IsFailure) : FailsOnly (dquantP e) := .bind (free.getBits he) fun _ => raises_update

theorem fieldDct (he : e.IsFailure) (b : Bool) : FailsOnly (fieldDct e b) :=
  .whenP fun _ => .bind (free.getFlag he) fun _ => raises_update

theorem intraMcbpc (he : e.IsFailure) (fuel : Nat) : FailsOnly (intraMcbpc e fuel) := by
  induction fuel with
  | zero => exact .raise he
  | succ fuel ih => exact .bind (free.vlcNumber he (.invalid _)) fun _ => .ite (fun _ => ih) fun _ => .pure _

theorem interMcbpc (he : e.IsFailure) (fuel : Nat) : FailsOnly (interMcbpc e fuel) := by
  induction fuel with
  | zero => exact .raise he
  | succ fuel ih =>
    exact .bind (free.getFlag he) fun _ => .ite (fun _ => .pure _) fun _ =>
      .bind (free.vlcNumber he (.invalid _)) fun _ => .ite (fun _ => ih) fun _ => .pure _

theorem intraBody (he : e.IsFailure) (b : Bool) : FailsOnly (intraBody e b) :=
  .bind (free.getFlag he) fun _ => .bind raises_update fun _ => .bind (free.vlcNumber he (.invalid _)) fun _ =>
    .bind raises_update fun _ => .bind raises_update fun _ => .bind (.whenP fun _ => dquantP he) fun _ =>
    .getState_bind fun _ _ => .bind (fieldDct he _) fun _ =>
    .forEach (fun _ => .getState_bind fun _ _ => blockIntraP _ _) _

theorem mvdPair (p : IVec) (fc : Nat) : FailsOnly (mvdPair p fc) := by
  have one : ∀ v, FailsOnly (mvdP v fc) := fun _ => .bind (free.vlcNumber (.exhausted _) (.invalid _)) fun _ =>
    .ite (fun _ => .pure _) fun _ => .bind (free.getFlag (.exhausted _)) fun _ =>
    .bind (.ite (fun _ => .bind (free.getBits (.exhausted _)) fun _ => .pure _) fun _ => .pure _) fun _ => .pure _
  exact .bind (one _) fun _ => .bind (one _) fun _ => .pure _

theorem interMotion (he : e.IsFailure) (four : Bool) : FailsOnly (interMotion e four) := by
  have one : FailsOnly motion16 := .bind raises_update fun _ => .getState_bind fun _ _ => .bind (mvdPair _ _) fun _ =>
    raises_update
  have field1 : ∀ p i, FailsOnly (motionField1 p i) := fun _ _ => .getState_bind fun _ _ => .bind (mvdPair _ _) fun _ =>
    raises_update
  have field : FailsOnly (motionField e) := .bind raises_update fun _ => .bind (free.getFlag he) fun _ =>
    .bind (free.getFlag he) fun _ => .bind raises_update fun _ => .getState_bind fun _ _ => .bind (field1 _ _) fun _ =>
    field1 _ _
  have eight : FailsOnly motionFour := .bind raises_update fun _ => .forEach (fun _ => .getState_bind fun _ _ =>
    .bind (mvdPair _ _) fun _ => raises_update) _
  exact .bind raises_update fun _ => .getState_bind fun _ _ => .ite (fun _ => eight) fun _ =>
    .ite (fun _ => raises_update) fun _ => .getState_bind fun _ _ =>
    .ite (fun _ => .bind (free.getFlag he) fun _ => .ite (fun _ => field) fun _ => one) fun _ => one

theorem interBlocks : FailsOnly interBlocks :=
  .forEach (fun _ => .getState_bind fun _ _ => .ite (fun _ => blockInterP _) fun _ => raises_update) _

theorem interBody (he : e.IsFailure) (d four : Bool) : FailsOnly (interBody e d four) := by
  have mcsel : FailsOnly (mcselFlag e four) := .getState_bind fun _ _ =>
    .ite (fun _ => .bind (free.getFlag he) fun _ => raises_update) fun _ => raises_update
  exact .bind mcsel fun _ => .bind (free.vlcNumber he (.invalid _)) fun _ => .bind raises_update fun _ =>
    .bind (.whenP fun _ => dquantP he) fun _ => .getState_bind fun _ _ => .bind (fieldDct he _) fun _ =>
    .bind (interMotion he _) fun _ => interBlocks

theorem codedMb (he : e.IsFailure) (c : Nat) : FailsOnly (codedMb e c) :=
  .bind raises_update fun _ => .ite (fun _ => intraBody he _) fun _ => interBody he _ _

theorem bMode : FailsOnly bMode := by
  have flag : FailsOnly (getFlag mbBEnd) := free.getFlag (.exhausted _)
  have type : FailsOnly bTypeP := by
    refine .bind (free.vlc (.exhausted _)) fun r => ?_
    cases btypeOf r with
    | some _ => exact .pure _
    | none => exact .raise (.invalid _)
  have pattern : ∀ b, FailsOnly (bPattern b) := fun _ =>
    .ite (fun _ => raises_update) fun _ => .bind (free.getBits (.exhausted _)) fun _ => raises_update
  have quant : FailsOnly (dquantBP mbBEnd) := .bind flag fun _ => .whenP fun _ =>
    .bind (free.getBits (.exhausted _)) fun _ => raises_update
  have fwd : FailsOnly fieldSelectFwd := .bind flag fun _ => .bind flag fun _ => raises_update
  have bwd : FailsOnly fieldSelectBwd := .bind flag fun _ => .bind flag fun _ => raises_update
  have field : ∀ ty, FailsOnly (bFieldFlag ty) := fun _ => .ite (fun _ => .pure _) fun _ => .bind flag fun _ =>
    .bind (.whenP fun _ => fwd) fun _ => .bind (.whenP fun _ => bwd) fun _ => .pure _
  have lace : ∀ ty, FailsOnly (bInterlaced ty) := fun _ => .getState_bind fun _ _ =>
    .ite (fun _ => .bind (fieldDct (.exhausted _) _) fun _ => field _) fun _ => .pure _
  refine .bind flag fun _ => .ite (fun _ => .bind raises_update fun _ => .pure _) fun _ => ?_
  exact .bind flag fun _ => .bind type fun _ => .bind (pattern _) fun _ => .getState_bind fun _ _ =>
    .bind (.whenP fun _ => quant) fun _ => .bind (lace _) fun _ => .pure _

theorem bMotion (m : BMode) : FailsOnly (bMotion m) := by
  have one : ∀ d, FailsOnly (bVector d) := fun _ => .bind raises_update fun _ => .getState_bind fun _ _ =>
    .bind (mvdPair _ _) fun _ => raises_update
  have field : ∀ d b, FailsOnly (bFieldVector d b) := fun _ _ => .getState_bind fun _ _ =>
    .bind (mvdPair _ _) fun _ => raises_update
  have two : ∀ d, FailsOnly (bFieldVectors d) := fun _ => .bind raises_update fun _ =>
    .bind (field _ _) fun _ => field _ _
  have vectors : ∀ (d : Dir) (b c : Bool), FailsOnly (whenP c (if b = true then bFieldVectors d else bVector d)) := fun _ _ _ =>
    .whenP fun _ => .ite (fun _ => two _) fun _ => one _
  refine .ite (fun _ => .ite (fun _ => raises_update) fun _ => .bind (mvdPair _ _) fun _ => raises_update) fun _ => ?_
  exact .bind raises_update fun _ => .bind (vectors _ _ _) fun _ => vectors _ _ _

theorem bBody : FailsOnly bBody :=
  .getState_bind fun _ _ => .ite (fun _ => raises_update) fun _ => .bind bMode fun _ => .bind raises_update fun _ =>
    .bind (bMotion _) fun _ => interBlocks

/-! ## The peek -/

theorem resyncPeekP : FailsOnly resyncPeekP := by
  have stuffing : ∀ n, FailsOnly (skipStuffing n) := by
    intro n
    induction n with
    | zero => exact .pure _
    | succ n ih =>
      exact .getState_bind fun _ _ => .ite (fun _ => .bind (free.skipBits (.exhausted _)) fun _ => ih) fun _ => .pure _
  have marker : FailsOnly markerAnswer := .getState_bind fun _ _ => .ite (fun _ => .pure _) fun _ =>
    .ite (fun _ => .raise (.invalid _)) fun _ => .ite (fun _ => .pure _) fun _ => .pure _
  exact .getState_bind fun _ _ => .ite (fun _ => .pure _) fun _ => .bind (stuffing _) fun _ => .getState_bind fun _ _ =>
    .ite (fun _ => .pure _) fun _ => .ite (fun _ => marker) fun _ => .pure _

/-! ## Partitions -/

theorem partDcs (tg : Tag) : FailsOnly (partDcs tg) := by
  refine .forEach (fun n => ?_) _
  exact .bind (.withTag (dcDiffP n)) fun _ => .bind raises_update fun _ => .bind (predDcP n _) fun _ => raises_update

theorem partStepI : FailsOnly partStepI := by
  have mode : ∀ n, FailsOnly (partModeI n) := by
    intro n
    induction n with
    | zero => exact .raise (.exhausted _)
    | succ n ih =>
      exact .getState_bind fun _ _ => .ite (fun _ => .pure _) fun _ => .bind (free.vlcNumber (.exhausted _) (.invalid _))
        fun _ => .ite (fun _ => ih) fun _ => .pure _
  refine .getState_bind fun _ _ => .bind (mode _) fun r => ?_
  cases r with
  | none => exact .pure _
  | some c =>
    exact .bind (.bind raises_update fun _ => .bind (.whenP fun _ => dquantP (.exhausted _)) fun _ =>
      .bind raises_update fun _ => partDcs _) fun _ => .pure _

theorem partMotion (four : Bool) : FailsOnly (partMotion four) := by
  have pair : ∀ p fc, FailsOnly (withTag .partAMv (Machine.mvdPair p fc)) := fun _ _ => .withTag (mvdPair _ _)
  exact .getState_bind fun _ _ => .bind raises_update fun _ =>
    .ite (fun _ => .forEach (fun _ => .getState_bind fun _ _ => .bind (pair _ _) fun _ => raises_update) _) fun _ =>
    .ite (fun _ => raises_update) fun _ => .getState_bind fun _ _ => .bind (pair _ _) fun _ => raises_update

theorem partStepP : FailsOnly partStepP := by
  have mode : ∀ n, FailsOnly (partModeP n) := by
    intro n
    induction n with
    | zero => exact .raise (.exhausted _)
    | succ n ih =>
      exact .getState_bind fun _ _ => .ite (fun _ => .pure _) fun _ => .bind (free.getFlag (.exhausted _)) fun _ =>
        .ite (fun _ => .pure _) fun _ => .bind (free.vlcNumber (.exhausted _) (.invalid _)) fun _ =>
        .ite (fun _ => ih) fun _ => .pure _
  have mcsel : ∀ b, FailsOnly (partMcsel b) := fun _ => .getState_bind fun _ _ =>
    .whenP fun _ => .bind (free.getFlag (.exhausted _)) fun _ => raises_update
  refine .getState_bind fun _ _ => .bind (mode _) fun r => ?_
  cases r with
  | marker => exact .pure _
  | skip => exact .bind raises_update fun _ => .pure _
  | coded c =>
    exact .bind (.bind raises_update fun _ => .ite (fun _ => raises_update) fun _ => .bind (mcsel _) fun _ =>
      partMotion _) fun _ => .pure _

theorem partALoop {m : Parse Bool} (hm : FailsOnly m) (fuel : Nat) : ∀ c, FailsOnly (partALoop m fuel c) := by
  induction fuel with
  | zero => exact fun _ => .pure _
  | succ fuel ih => exact fun _ => .bind hm fun _ => .ite (fun _ => .bind raises_update fun _ => ih _) fun _ => .pure _

theorem partStuffing (n fuel : Nat) : FailsOnly (partStuffing n fuel) := by
  induction fuel with
  | zero => exact .pure _
  | succ fuel ih =>
    exact .getState_bind fun _ _ => .ite (fun _ => .bind (free.skipBits (.exhausted _)) fun _ => ih) fun _ => .pure _

theorem partBStepI : FailsOnly partBStepI :=
  .bind (.bind (free.getFlag (.exhausted _)) fun _ => raises_update) fun _ =>
    .bind (free.vlcNumber (.exhausted _) (.invalid _)) fun _ => raises_update

theorem partBStepP : FailsOnly partBStepP := by
  have quant : FailsOnly partDquant := .getState_bind fun _ _ => .whenP fun _ => dquantP (.exhausted _)
  have cbpy : FailsOnly partCbpy := free.vlcNumber (.exhausted _) (.invalid _)
  have intra : FailsOnly partBIntra := .bind (.bind (free.getFlag (.exhausted _)) fun _ => raises_update) fun _ =>
    .bind cbpy fun _ => .bind quant fun _ => .bind raises_update fun _ => .bind (partDcs _) fun _ => raises_update
  have inter : FailsOnly partBInter := .bind cbpy fun _ => .bind quant fun _ => raises_update
  exact .getState_bind fun _ _ => .ite (fun _ => intra) fun _ => .ite (fun _ => raises_update) fun _ => inter

theorem partBLoop {m : Parse Unit} (hm : FailsOnly m) (n : Nat) : FailsOnly (partBLoop m n) := by
  induction n with
  | zero => exact .pure _
  | succ n ih => exact .bind hm fun _ => .bind raises_update fun _ => ih

theorem partTexture : FailsOnly partTexture := by
  have block : ∀ n, FailsOnly (partBlock n) := fun _ => .getState_bind fun _ _ => .ite (fun _ => blockIntraP _ _)
    fun _ => .ite (fun _ => blockInterP _) fun _ => raises_update
  exact .getState_bind fun _ _ => .ite (fun _ => raises_update) fun _ => .withTag (.forEach block _)

end FailsOnly

/-! ## The picture header -/

theorem timeIncrP_failsOnly : FailsOnly timeIncrP := by
  have unary : ∀ n, FailsOnly (timeUnary n) := by
    intro n
    induction n with
    | zero => exact .raise (.truncated _)
    | succ n ih =>
      exact .bind (free.getFlag (.truncated _)) fun _ => .ite (fun _ => .bind raises_update fun _ => ih) fun _ => .pure _
  refine .bind raises_update fun _ => .getState_bind fun _ _ =>
    free.runLayout .truncated (fun _ => .invalid _) (fun f => nomatch f) ?_ _
  intro a _
  cases a
  exact .getState_bind fun _ _ => unary _

/-- A B picture whose times are in the wrong order is skipped. -/
theorem vopTimes_raises : Raises Raise.OfPictureHeader vopTimes := by
  have skip : Raises Raise.OfPictureHeader skipInverted := .bind raises_update fun _ => .raise (.inr rfl)
  have fields : Raises Raise.OfPictureHeader repairFields := .bind raises_update fun _ => .getState_bind fun _ _ =>
    .whenP fun _ => skip
  exact .getState_bind fun _ _ => .ite (fun _ => .bind raises_update fun _ => .getState_bind fun _ _ =>
    .bind (.whenP fun _ => skip) fun _ => .bind raises_update fun _ => .getState_bind fun _ _ => .whenP fun _ => fields)
    fun _ => raises_update

theorem takeVop_failsOnly (f : VopField) (v : Nat) : FailsOnly (takeVop f v) := by
  cases f
  case alphaPresent => exact .pure _
  case quant => exact .ite (fun _ => .raise (.inr rfl)) fun _ => raises_update
  case fCode | bCode => exact .ite (fun _ => .bind raises_update fun _ => .raise (.inr rfl)) fun _ => raises_update
  all_goals exact raises_update

theorem sprite_failsOnly : FailsOnly (do spriteTrajP; gmcResolveP) := by
  have step : ∀ i, FailsOnly (trajStep i) := fun _ => .getState_bind fun _ _ =>
    .ite (fun _ => .bind (free.trajPoint .truncated (fun _ => .invalid _) (.invalid _)) fun _ => raises_update)
      fun _ => raises_update
  exact .bind (.forEach step _) fun _ => .getState_bind fun _ _ => .ite (fun _ => .raise (.inr rfl)) fun _ => raises_update

theorem actVop_raises (a : VopAct) (env : Env VopField) : Raises Raise.OfPictureHeader (actVop a env) := by
  cases a with
  | timeIncr => exact timeIncrP_failsOnly.inPictureHeader
  | probe => exact .getState_bind fun _ _ => .whenP fun _ => raises_update
  | times => exact vopTimes_raises
  | notCoded => exact .raise (.inr rfl)
  | newpred =>
    exact FailsOnly.inPictureHeader (free.newpredFields .truncated fun _ => .invalid _)
  | sprite => exact sprite_failsOnly.inPictureHeader
  | repairLowDelay | zeroSprite => exact raises_update

theorem vopRows_raises (l : List (Row VopField VopAct)) : Raises Raise.OfPictureHeader (runLayout vopReader l) :=
  free.runLayout (fun _ => .inl (.truncated _)) (fun _ => .inl (.invalid _))
    (fun f v => (takeVop_failsOnly f v).inPictureHeader) actVop_raises l

end Sys2Proof.Machine
end

section
/-! The moves of FSM (30_encoding.md R110, 60_exceptions.md R371): where taking a raise leaves FSM, in which states an
operation ends, and so where a step goes. -/

namespace Sys2Proof.Machine

variable {α : Type} {Q : Raise → Prop} {L : List Fsm} {s t u : State} {r : Raise} {site : Site}

/-! ## Where a raise leads -/

/-- The control state after an INVALID_DATA at a site (60_exceptions.md R371). -/
def Site.invalidFsm : Site → Fsm
  | .headerRun => .scan
  | .vopHeader => .error
  | .macroblock => .resyncCheck
  | .partA => .resyncCheck
  | .partB => .resyncCheck
  | .packet => .resyncCheck
  | .resync => .resyncCheck
  | .command => .done

theorem State.takeRaise_fsm_invalid (h : r.code = .invalidData) : (s.takeRaise site r).fsm = site.invalidFsm := by
  simp only [State.takeRaise, h]
  cases site <;> rfl

theorem State.takeRaise_fsm_fatal (h : r.code.isFatal = true) : (s.takeRaise site r).fsm = .error := by
  obtain ⟨c, tg⟩ := r
  cases c
  case refusedStudio | fatalTruncated | fatalExhausted | fatalRange | fatalGmc | fatalNoVol | fatalNoResync => rfl
  all_goals cases h

/-- A failure leads to the state of its site's INVALID_DATA, or to ERROR. -/
theorem Raise.IsFailure.takeRaise_fsm (h : r.IsFailure) :
    (s.takeRaise site r).fsm = site.invalidFsm ∨ (s.takeRaise site r).fsm = .error :=
  h.imp State.takeRaise_fsm_invalid State.takeRaise_fsm_fatal

/-- What a start code can raise: a failure of EXT, or END_OF_DATA where none is left (40_header_vol.md R141). -/
def Raise.OfScan (r : Raise) : Prop := r.IsFailure ∨ r.code = .endOfData

/-- The results that end a command without failing it lead to DONE. -/
theorem State.takeRaise_fsm_ended (h : r.code = .endOfData ∨ r.code = .frameSkipped ∨ r.code = .badCommand) :
    (s.takeRaise site r).fsm = .done := by
  obtain h | h | h := h <;> simp only [State.takeRaise, h, State.setFsm_fsm]

/-! ## Where an operation ends -/

/-- The parse ends in a state of `L`, or in a raise that meets `Q`. -/
def EndsIn (L : List Fsm) (Q : Raise → Prop) (m : Parse Unit) : Prop :=
  ∀ s, match m s with
    | .ok _ t => t.fsm ∈ L
    | .error r _ => Q r

namespace EndsIn

theorem bind {m : Parse α} {k : α → Parse Unit} (h : Raises Q m) (h' : ∀ a, EndsIn L Q (k a)) : EndsIn L Q (m >>= k) := by
  intro s
  cases hm : m s with
  | ok a t =>
    rw [Parse.bind_ok hm]
    exact h' a t
  | error r t =>
    rw [Parse.bind_error hm]
    exact (h.error trivial hm).2

theorem mono {m : Parse Unit} {L' : List Fsm} {Q' : Raise → Prop} (h : EndsIn L Q m) (hl : L ⊆ L')
    (hq : ∀ r, Q r → Q' r) : EndsIn L' Q' m := by
  intro s
  have hs := h s
  cases hm : m s with
  | ok a t =>
    rw [hm] at hs
    exact hl hs
  | error r t =>
    rw [hm] at hs
    exact hq r hs

theorem state {k : State → Parse Unit} (h : ∀ s, EndsIn L Q (k s)) : EndsIn L Q (getState >>= k) := fun s => h s s

theorem update {f : State → State} (h : ∀ s, (f s).fsm ∈ L) : EndsIn L Q (Machine.update f) := h

theorem raise (h : Q r) : EndsIn L Q (Machine.raise r) := fun _ => h

theorem ite {c : Prop} [Decidable c] {m m' : Parse Unit} (h : EndsIn L Q m) (h' : EndsIn L Q m') :
    EndsIn L Q (if c then m else m') := by
  split
  · exact h
  · exact h'

theorem finishOk {f : Fsm} (h : f ∈ L) : EndsIn L Q (finishOk f) := .update fun _ => h

/-- The end of an operation run at a site. -/
theorem runAt {m : Parse Unit} (h : EndsIn L Q m) (hr : ∀ r (u : State), Q r → (u.takeRaise site r).fsm ∈ L) :
    (runAt site m s).fsm ∈ L := by
  have hs := h s
  rw [Machine.runAt]
  cases hm : m s with
  | ok a t =>
    rw [hm] at hs
    exact hs
  | error r t =>
    rw [hm] at hs
    exact hr r t hs

/-- The end of an operation that fails only. -/
theorem runAt_failing {m : Parse Unit} (h : EndsIn L Raise.IsFailure m) (hi : site.invalidFsm ∈ L) (he : .error ∈ L) :
    (Machine.runAt site m s).fsm ∈ L := by
  refine h.runAt fun r u hr => ?_
  obtain hu | hu := hr.takeRaise_fsm (s := u) (site := site)
  · rwa [hu]
  · rwa [hu]

/-! ## The header run -/

/-- A header operation ends its rows and goes back to SCAN. -/
theorem header {m : Parse Unit} (h : FailsOnly m) :
    EndsIn [.scan, .error] Raise.IsFailure (m >>= fun _ => Machine.finishOk .scan) :=
  .bind h fun _ => .finishOk (by decide)

theorem vosP : EndsIn [.scan, .error] Raise.IsFailure vosP := .state fun _ => header (.seqRows _ _)

theorem voP : EndsIn [.scan, .error] Raise.IsFailure voP := .state fun _ => header (.seqRows _ _)

theorem gopP : EndsIn [.scan, .error] Raise.IsFailure gopP := .state fun _ => header (.seqRows _ _)

theorem volP : EndsIn [.scan, .error] Raise.IsFailure volP :=
  .bind raises_update fun _ => .state fun _ => .bind (.forEach FailsOnly.volPart _) fun _ => header raises_update

theorem volStudioP : EndsIn [.scan, .error] Raise.IsFailure volStudioP :=
  .bind raises_update fun _ => .state fun _ => .bind (FailsOnly.seqRows _ _) fun _ => header raises_update

theorem userdataP : EndsIn [.scan, .error] Raise.IsFailure userdataP := header raises_update

theorem extP : EndsIn [.scan, .error] Raise.IsFailure extP := .state fun _ => header (.whenP fun _ => FailsOnly.extStudio)

/-! ## Start codes and SCAN -/

/-- A start code leads to SCAN or the state of its header, to DONE at the end of a header run, or runs EXT in place. -/
theorem startCodeEffect (k : ScClass) : EndsIn (nextStates .scan) Raise.OfScan (startCodeEffect k) := by
  cases k
  case vop =>
    refine .update fun s => ?_
    unfold State.reachVop
    split
    · exact (by decide : Fsm.done ∈ nextStates .scan)
    · exact (by decide : Fsm.hdrVop ∈ nextStates .scan)
  case vol =>
    refine .update fun s => ?_
    cases s.seq.studioProfile
    · exact (by decide : Fsm.hdrVol ∈ nextStates .scan)
    · exact (by decide : Fsm.hdrVolStudio ∈ nextStates .scan)
  case ext => exact extP.mono (by decide) fun _ => .inl
  all_goals exact .update fun _ => by simp [nextStates]

theorem noStartCode : EndsIn (nextStates .scan) Raise.OfScan noStartCode :=
  .bind raises_update fun _ => .raise (.inr rfl)

theorem takeStartCode (k : ScClass) : EndsIn (nextStates .scan) Raise.OfScan (takeStartCode k) :=
  .state fun _ => .ite noStartCode (.bind raises_update fun _ => startCodeEffect k)

theorem scanP : EndsIn (nextStates .scan) Raise.OfScan scanP := by
  refine .state fun s => ?_
  cases s.findStartCode (s.len.toNat - s.scanByte) s.scanByte with
  | some p => exact .bind raises_update fun _ => startCodeEffect _
  | none => exact noStartCode

/-- The end of an operation of SCAN. -/
theorem runAt_scan {m : Parse Unit} (h : EndsIn (nextStates .scan) Raise.OfScan m) :
    (Machine.runAt .headerRun m s).fsm ∈ nextStates .scan := by
  refine h.runAt fun r u hr => ?_
  obtain hr | hr := hr
  · obtain hu | hu := hr.takeRaise_fsm (s := u) (site := .headerRun) <;> rw [hu] <;> decide
  · rw [State.takeRaise_fsm_ended (.inl hr)]
    decide

/-! ## The picture header -/

theorem vopP : EndsIn [.sliceStart] Raise.OfPictureHeader vopP :=
  .bind raises_update fun _ => .bind (.getState_bind fun _ _ => .ite (fun _ => .raise (.inl (.inr rfl))) fun _ => .pure _)
    fun _ => .state fun _ => .bind (.forEach vopRows_raises _) fun _ => .bind raises_update fun _ =>
    .bind raises_update fun _ => .finishOk (by decide)

/-- The end of the picture header. -/
theorem runAt_vop : (Machine.runAt .vopHeader Machine.vopP s).fsm ∈ nextStates .hdrVop := by
  refine (vopP.mono (by decide) fun _ => id).runAt fun r u hr => ?_
  obtain hr | hr := hr
  · obtain hu | hu := hr.takeRaise_fsm (s := u) (site := .vopHeader) <;> rw [hu] <;> decide
  · rw [State.takeRaise_fsm_ended (.inr (.inl hr))]
    decide

/-! ## Macroblocks and partitions -/

theorem mbIP : EndsIn [.resyncCheck] Raise.IsFailure mbIP :=
  .bind raises_update fun _ => .state fun _ => .bind (FailsOnly.intraMcbpc (.exhausted _) _) fun _ =>
    .bind raises_update fun _ => .bind (FailsOnly.intraBody (.exhausted _) _) fun _ => .update fun _ => .head _

theorem mbPP : EndsIn [.resyncCheck] Raise.IsFailure mbPP := by
  refine .bind raises_update fun _ => .state fun _ => .bind (FailsOnly.interMcbpc (.exhausted _) _) fun r => ?_
  cases r with
  | none => exact .update fun _ => .head _
  | some c => exact .bind (FailsOnly.codedMb (.exhausted _) c) fun _ => .update fun _ => .head _

theorem mbBP : EndsIn [.waitRow, .resyncCheck] Raise.IsFailure mbBP :=
  .bind raises_update fun _ => .state fun _ => .ite (.update fun _ => .head _) (.bind raises_update fun _ =>
    .bind FailsOnly.bBody fun _ => .update fun _ => .tail _ (.head _))

theorem mbStudioP : EndsIn [] Raise.IsFailure mbStudioP :=
  .bind raises_update fun _ => .bind raises_update fun _ => .raise (.inr rfl)

theorem mbPartitionedP : EndsIn [.resyncCheck] Raise.IsFailure mbPartitionedP :=
  .bind raises_update fun _ => .bind raises_update fun _ => .bind FailsOnly.partTexture fun _ => .bind raises_update
    fun _ => .bind FailsOnly.resyncPeekP fun _ => .update fun _ => .head _

theorem partitionA {m : Parse Bool} (hm : FailsOnly m) (n : Nat) (bits value : ResyncPatterns → Nat) :
    EndsIn [.partB] Raise.IsFailure (partitionA m n bits value) := by
  have range : ∀ c, FailsOnly (partRange c) := fun _ => .getState_bind fun _ _ =>
    .ite (fun _ => .raise (.invalid _)) fun _ => .pure _
  have marker : ∀ a b, FailsOnly (partMarker a b) := fun _ _ => .bind (free.getBits (.exhausted _)) fun _ =>
    .ite (fun _ => .pure _) fun _ => .raise (.invalid _)
  exact .bind raises_update fun _ => .state fun _ => .bind (FailsOnly.partALoop hm _ _) fun _ => .bind (range _)
    fun _ => .state fun _ => .bind (FailsOnly.partStuffing _ _) fun _ => .bind (marker _ _) fun _ =>
    .bind raises_update fun _ => .finishOk (by decide)

theorem partitionB {m : Parse Unit} (hm : FailsOnly m) : EndsIn [.mb] Raise.IsFailure (partitionB m) :=
  .bind raises_update fun _ => .state fun _ => .bind (FailsOnly.partBLoop hm _) fun _ => .bind raises_update fun _ =>
    .finishOk (by decide)

theorem peekStep : EndsIn [.resyncCheck] Raise.IsFailure peekStep :=
  .bind FailsOnly.resyncPeekP fun _ => .update fun _ => .head _

/-- The end of an operation of the macroblock layer, in a state that its failures may lead to. -/
theorem stored {m : Parse Unit} {L' : List Fsm} (h : EndsIn L Raise.IsFailure m) (hl : L ⊆ L') (hi : site.invalidFsm ∈ L')
    (he : .error ∈ L') (e : inStores s (Machine.runAt site m s) = .next t) : t.fsm ∈ L' :=
  next_of_inStores e ▸ (h.mono hl fun _ => id).runAt_failing hi he

theorem completed {m : Parse Unit} {L' : List Fsm} (h : EndsIn L Raise.IsFailure m) (hl : L ⊆ L')
    (hi : site.invalidFsm ∈ L') (he : .error ∈ L') (e : completes (Machine.runAt site m s) = .next t) : t.fsm ∈ L' :=
  next_of_completes e ▸ (h.mono hl fun _ => id).runAt_failing hi he

end EndsIn

/-! ## The resync unit -/

theorem runPacket_fsm (hf : s.fsm = .resyncCheck) : s.runPacket.fsm ∈ nextStates .resyncCheck := by
  have hm : Keeps (fun u => u.fsm = .resyncCheck) Raise.IsFailure packetHeaderP := (streamBlind_fsm _).packetHeaderP
  unfold State.runPacket
  dsimp only
  split
  · exact (by decide : Fsm.sliceStart ∈ nextStates .resyncCheck)
  · next r u hu =>
    obtain ⟨hs, hr⟩ := hm.error hf hu
    split
    · exact hs.symm ▸ (by decide : Fsm.resyncCheck ∈ nextStates .resyncCheck)
    · rw [State.setPos_fsm]
      obtain h | h := hr.takeRaise_fsm (s := u) (site := .packet) <;> rw [h] <;> decide

theorem toHeader_fsm (hf : s.fsm = .resyncCheck) : (runAt .packet toHeader s).fsm ∈ nextStates .resyncCheck := by
  have hm : Keeps (fun u => u.fsm = .resyncCheck) Raise.IsFailure toHeader :=
    .bind ((streamBlind_fsm _).skipBits (.exhausted _)) fun _ => .update fun _ h => h
  have hs := hm s hf
  unfold runAt
  split
  · next u hu =>
    rw [hu] at hs
    exact hs.symm ▸ (by decide : Fsm.resyncCheck ∈ nextStates .resyncCheck)
  · next r u hu =>
    rw [hu] at hs
    obtain h | h := hs.2.takeRaise_fsm (s := u) (site := .packet) <;> rw [h] <;> decide

theorem endPicture_fsm : s.endPicture.fsm = .done := rfl

theorem decideBoundary_fsm (hf : s.fsm = .resyncCheck) (b : Boundary) :
    (s.decideBoundary b).fsm ∈ nextStates .resyncCheck := by
  unfold State.decideBoundary
  split
  · exact (by decide : Fsm.done ∈ nextStates .resyncCheck)
  · cases b with
    | ok => exact (by decide : Fsm.mb ∈ nextStates .resyncCheck)
    | sliceEnd => exact toHeader_fsm hf
    | sliceNoend => exact hf.symm ▸ (by decide : Fsm.resyncCheck ∈ nextStates .resyncCheck)

theorem startRecovery_fsm (hf : s.fsm = .resyncCheck) : s.startRecovery.fsm ∈ nextStates .resyncCheck := by
  unfold State.startRecovery
  split
  · exact (by decide : Fsm.done ∈ nextStates .resyncCheck)
  · exact hf.symm ▸ (by decide : Fsm.resyncCheck ∈ nextStates .resyncCheck)

theorem searchTurn_fsm (hf : s.fsm = .resyncCheck) (e : s.searchTurn = some t) : t.fsm ∈ nextStates .resyncCheck := by
  unfold State.searchTurn at e
  split at e
  · split at e
    · cases e
    · cases e
      exact hf.symm ▸ (by decide : Fsm.resyncCheck ∈ nextStates .resyncCheck)
  · cases e
    exact (by decide : Fsm.error ∈ nextStates .resyncCheck)

/-! ## The moves without an operation -/

theorem acknowledge_fsm (s : State) : s.acknowledge.fsm = s.fsm ∨ s.acknowledge.fsm = .idle := by
  unfold State.acknowledge
  split
  · exact .inr rfl
  · exact .inl rfl

theorem sliceStart_fsm (s : State) : s.sliceStart.fsm ∈ nextStates .sliceStart := by
  unfold State.sliceStart
  dsimp only
  rw [State.setFsm_fsm]
  split <;> decide

theorem leaveWait_fsm (s : State) : s.leaveWait.fsm = s.fsm ∨ s.leaveWait.fsm = .mb := by
  unfold State.leaveWait
  split
  · exact .inl rfl
  · exact .inr rfl

/-- A move of FSM that runs no operation is one of R110. -/
theorem engineMove_fsm (e : engineMove s = some t) : t.fsm ∈ nextStates s.fsm := by
  unfold engineMove at e
  split at e
  case h_1 hf =>
    cases e
    obtain h | h := acknowledge_fsm s <;> rw [h, hf] <;> decide
  case h_2 hf =>
    cases e
    obtain h | h := acknowledge_fsm s <;> rw [h, hf] <;> decide
  case h_3 hf =>
    cases e
    rw [hf]
    exact sliceStart_fsm s
  case h_4 hf =>
    cases e
    obtain h | h := leaveWait_fsm s <;> rw [h, hf] <;> decide
  case h_5 hf =>
    rw [hf]
    split at e
    case h_1 => cases e
    case h_2 => cases e; exact decideBoundary_fsm hf _
    case h_3 => cases e
    case h_4 => cases e; exact startRecovery_fsm hf
    case h_5 => exact searchTurn_fsm hf e
  all_goals cases e

end Sys2Proof.Machine
end

section
/-! The host commands (30_encoding.md R130, R131): what each leaves in IDLE, and that none acts outside it. -/

namespace Sys2Proof.Machine

variable {s : State} {m : Parse Unit} {i : Instr}

/-! ## Which instruction a code selects -/

/-- The reserved commands (30_encoding.md R130). -/
def reservedCommands : List Instr :=
  [.cmdReserved6, .cmdReserved7, .cmdReserved8, .cmdReserved9, .cmdReserved10, .cmdReserved11, .cmdReserved12,
    .cmdReserved13, .cmdReserved14, .cmdReserved15]

theorem commandOf_cases (c : BitVec 4) :
    commandOf c = .cmdNop ∨ commandOf c = .cmdScanHeaders ∨ commandOf c = .cmdDecodePicture ∨ commandOf c = .cmdSetpos
      ∨ commandOf c = .cmdResolveQuirks ∨ commandOf c = .cmdClrlog ∨ commandOf c ∈ reservedCommands := by
  revert c
  decide

theorem exec_reserved (hi : i ∈ reservedCommands) : exec i s = runCommand badCommand s := by
  unfold reservedCommands at hi
  fin_cases hi <;> rfl

/-- A command but NOP runs a parse of its own. -/
theorem exec_commandOf (c : BitVec 4) : exec (commandOf c) s = .next s ∨ ∃ m, exec (commandOf c) s = runCommand m s := by
  obtain h | h | h | h | h | h | h := commandOf_cases c
  · exact .inl (h ▸ rfl)
  · exact .inr ⟨_, by rw [h]; rfl⟩
  · exact .inr ⟨_, by rw [h]; rfl⟩
  · exact .inr ⟨_, by rw [h]; rfl⟩
  · exact .inr ⟨_, by rw [h]; rfl⟩
  · exact .inr ⟨_, by rw [h]; rfl⟩
  · exact .inr ⟨_, exec_reserved h⟩

/-! ## Running a command -/

theorem runCommand_idle (hf : s.fsm = .idle) : runCommand m s = .next (runAt .command m s.accept) :=
  congrArg Host.Outcome.next (if_pos hf)

theorem runCommand_busy (hf : s.fsm ≠ .idle) : runCommand m s = .next s := congrArg Host.Outcome.next (if_neg hf)

theorem runAt_badCommand : runAt .command badCommand s = { s with
    fsm := .done, status := { s.status with result := .badCommand, tag := .command, errpos := toU 32 s.pos } } := rfl

/-- Settles O57: a command in IDLE runs on the accepted state, and outside IDLE not at all. -/
theorem commandsActOnlyInIdle : Obligations.CommandsActOnlyInIdle := by
  unfold Obligations.CommandsActOnlyInIdle
  intro s taken
  refine ⟨rfl, fun hf => runCommand_idle hf, fun hf => runCommand_idle hf, fun hf => runCommand_idle hf,
    fun i hi hf => ?_, fun hf c => ?_⟩
  · rw [exec_reserved hi, runCommand_idle hf, runAt_badCommand]
    rfl
  · obtain h | ⟨m, h⟩ := exec_commandOf (s := s) c
    · exact h
    · exact h.trans (runCommand_busy hf)

/-! ## SETPOS -/

theorem setposP_inside (hl : s.lenFits = true) (hp : s.ctrl.pos.toNat ≤ s.endPos) :
    setposP s = .ok () (((s.atBit s.ctrl.pos.toNat).post .ok).setFsm .done) := by
  rw [setposP, Parse.getState_bind, if_pos hp, Parse.update_bind, State.setPos_eq_atBit hl hp]
  rfl

theorem setposP_outside (hp : s.endPos < s.ctrl.pos.toNat) : setposP s = badCommand s := by
  rw [setposP, Parse.getState_bind, if_neg (by omega)]

/-- Settles O58: a position inside BS is one that the cursor holds, and one outside it is a bad command. -/
theorem setposMovesInsideTheStream : Obligations.SetposMovesInsideTheStream := by
  unfold Obligations.SetposMovesInsideTheStream
  intro s hf
  have hx : exec .cmdSetpos s = .next (runAt .command setposP s.accept) := runCommand_idle hf
  constructor
  · intro hl hp
    rw [hx, runAt_ok (setposP_inside (s := s.accept) hl hp)]
    rfl
  · intro hp
    exact ⟨.command, toU 32 s.pos, s.status.picValid, by rw [hx, runAt, setposP_outside (s := s.accept) hp]; rfl⟩

end Sys2Proof.Machine
end

section
/-! Every step goes along the transitions of FSM (30_encoding.md R110). -/

namespace Sys2Proof.Machine

variable {s t : State} {i : Instr} {m : Parse Unit}

/-- A command leaves IDLE for the state it selects, or ends in DONE. -/
theorem runCommand_fsm (hf : s.fsm = .idle) (h : EndsIn (nextStates .idle) (fun r => r.code = .badCommand) m)
    (e : runCommand m s = .next t) : t.fsm ∈ nextStates .idle := by
  rw [next_of_completes e, if_pos hf]
  refine h.runAt fun r u hr => ?_
  rw [State.takeRaise_fsm_ended (.inr (.inr hr))]
  decide

theorem setposP_endsIn : EndsIn (nextStates .idle) (fun r => r.code = .badCommand) setposP :=
  .state fun _ => .ite (.bind raises_update fun _ => .finishOk (by decide)) (.raise rfl)

theorem commandOf_fsm (hf : s.fsm = .idle) {c : BitVec 4} (e : exec (commandOf c) s = .next t) :
    t.fsm ∈ nextStates .idle := by
  obtain h | h | h | h | h | h | h := commandOf_cases c
  · rw [h] at e
    rw [next_of_completes e, hf]
    decide
  · rw [h] at e
    exact runCommand_fsm hf (.update fun _ => by simp [nextStates]) e
  · rw [h] at e
    exact runCommand_fsm hf (.update fun _ => by simp [nextStates]) e
  · rw [h] at e
    exact runCommand_fsm hf setposP_endsIn e
  · rw [h] at e
    exact runCommand_fsm hf (.bind raises_update fun _ => .finishOk (by decide)) e
  · rw [h] at e
    exact runCommand_fsm hf (.bind raises_update fun _ => .finishOk (by decide)) e
  · rw [exec_reserved h] at e
    exact runCommand_fsm hf (.raise rfl) e

theorem startCodeClass_fsm {k : List ScRange} {c : Byte} (e : exec (startCodeClass k c) s = .next t) :
    t.fsm ∈ nextStates .scan := by
  unfold startCodeClass at e
  cases hk : classOf k c <;> rw [hk] at e <;> exact next_of_completes e ▸ (EndsIn.takeStartCode _).runAt_scan

/-- An operation that a control state selects leads where R110 says. -/
theorem operationOf_fsm {f : Fsm} {studio part : Bool} {pict : PictType} (hi : operationOf f studio part pict = .ok i)
    (e : exec i s = .next t) : t.fsm ∈ nextStates f := by
  have studioEnd (h : execMbStudio s = .next t) (hs : Fsm.resyncCheck ∈ nextStates f) (he : Fsm.error ∈ nextStates f) :
      t.fsm ∈ nextStates f := EndsIn.mbStudioP.completed (site := .macroblock) nofun hs he h
  cases f with
  | scan => cases hi; exact next_of_completes e ▸ EndsIn.scanP.runAt_scan
  | hdrVos => cases hi; exact EndsIn.vosP.completed (by decide) (by decide) (by decide) e
  | hdrVo => cases hi; exact EndsIn.voP.completed (by decide) (by decide) (by decide) e
  | hdrVol => cases hi; exact EndsIn.volP.completed (by decide) (by decide) (by decide) e
  | hdrVolStudio => cases hi; exact EndsIn.volStudioP.completed (by decide) (by decide) (by decide) e
  | hdrGop => cases hi; exact EndsIn.gopP.completed (by decide) (by decide) (by decide) e
  | hdrUser => cases hi; exact EndsIn.userdataP.completed (by decide) (by decide) (by decide) e
  | hdrVop => cases hi; exact next_of_completes e ▸ EndsIn.runAt_vop
  | partA =>
    cases studio
    · cases pict <;> cases hi
      · exact (EndsIn.partitionA .partStepI _ _ _).stored (by decide) (by decide) (by decide) e
      · exact (EndsIn.partitionA .partStepP _ _ _).stored (by decide) (by decide) (by decide) e
      · exact (EndsIn.partitionA .partStepP _ _ _).stored (by decide) (by decide) (by decide) e
    · cases hi
      exact studioEnd e (by decide) (by decide)
  | partB =>
    cases studio
    · cases pict <;> cases hi
      · exact (EndsIn.partitionB .partBStepI).stored (by decide) (by decide) (by decide) e
      · exact (EndsIn.partitionB .partBStepP).stored (by decide) (by decide) (by decide) e
      · exact (EndsIn.partitionB .partBStepP).stored (by decide) (by decide) (by decide) e
    · cases hi
      exact studioEnd e (by decide) (by decide)
  | mb =>
    have partitioned (h : execMbPartitioned s = .next t) : t.fsm ∈ nextStates .mb :=
      EndsIn.mbPartitionedP.stored (by decide) (by decide) (by decide) h
    cases studio
    · cases pict <;> cases part <;> cases hi
      · exact EndsIn.mbIP.stored (by decide) (by decide) (by decide) e
      · exact partitioned e
      · exact EndsIn.mbPP.stored (by decide) (by decide) (by decide) e
      · exact partitioned e
      · exact EndsIn.mbBP.stored (by decide) (by decide) (by decide) e
      · exact EndsIn.mbBP.stored (by decide) (by decide) (by decide) e
      · exact EndsIn.mbPP.stored (by decide) (by decide) (by decide) e
      · exact partitioned e
    · cases hi
      exact studioEnd e (by decide) (by decide)
  | idle | sliceStart | resyncCheck | waitRow | done | error => cases hi

/-- The selected operation leads where R110 says. -/
theorem selected_fsm (hi : decode (fetch s).1 (fetch s).2 = .ok i) (e : exec i s = .next t) :
    t.fsm ∈ nextStates s.fsm := by
  unfold fetch at hi
  split at hi
  · next hf =>
    obtain rfl := Except.ok.inj (hi.symm.trans decode_commandByte)
    exact hf.symm ▸ commandOf_fsm hf e
  · next hf =>
    rw [hf]
    split at hi
    · obtain ⟨c, rfl⟩ := decodeStartCode_ok (l := s.bytesFrom s.scanByte 4) hi
      exact startCodeClass_fsm e
    · have hop : operationOf .scan s.seq.studioProfile s.pic.partitionedFrame s.pic.pictType = .ok i := hi
      exact operationOf_fsm hop e
  · next hf =>
    rw [hf]
    split at hi <;> cases hi
    · exact EndsIn.peekStep.completed (by decide) (by decide) (by decide) e
    · exact next_of_completes e ▸ runPacket_fsm hf
  · exact operationOf_fsm hi e

/-- Settles O7: a move of FSM and a selected operation each go along R110. -/
theorem fsmMovesAreLegal : Obligations.FsmMovesAreLegal := by
  unfold Obligations.FsmMovesAreLegal
  intro s t e
  obtain hm | ⟨_, i, hi, hx⟩ := step_cases e
  · exact engineMove_fsm hm
  · exact selected_fsm hi hx

end Sys2Proof.Machine
end

section
/-! The start codes and the short header units (30_encoding.md R102, R112; 40_header_vol.md R142, R172, R173): what each
leaves of the state, where its bits stand whole inside BS. -/

namespace Sys2Proof.Machine

variable {s t u : State} {p : Nat} {k : ScClass}

/-! ## Start codes -/

/-- The state after a start code at the aligned cursor is consumed. -/
def State.afterStartCode (s : State) : State := s.atBit (8 * (s.scanByte + 4))

/-- A start code that stands whole inside BS is consumed, and has its effect. -/
theorem takeStartCode_inside (hl : s.lenFits = true) (hin : s.scanByte + 4 ≤ s.len.toNat) :
    takeStartCode k s = startCodeEffect k s.afterStartCode := by
  have hp : 8 * (s.scanByte + 4) ≤ s.endPos := Nat.mul_le_mul_left 8 hin
  rw [takeStartCode, Parse.getState_bind, if_neg (by omega), Parse.update_bind, State.setPos_eq_atBit hl hp]
  rfl

/-- The outcome of a start code, from that of its effect. -/
theorem runAt_takeStartCode (hl : s.lenFits = true) (hin : s.scanByte + 4 ≤ s.len.toNat) :
    completes (runAt .headerRun (takeStartCode k) s)
      = completes (runAt .headerRun (startCodeEffect k) s.afterStartCode) := by
  rw [runAt, runAt, takeStartCode_inside hl hin]

/-- Settles O10: each of the five classes moves FSM to SCAN and nothing else. -/
theorem noOpStartCodesScanOn : Obligations.NoOpStartCodesScanOn := by
  unfold Obligations.NoOpStartCodesScanOn
  intro s hl hin t
  exact ⟨fun _ _ => runAt_takeStartCode hl hin, fun _ _ _ => runAt_takeStartCode hl hin,
    fun _ _ => runAt_takeStartCode hl hin, runAt_takeStartCode hl hin, runAt_takeStartCode hl hin⟩

theorem State.reachVop_eq (s : State) : s.reachVop =
    if s.ctrl.cmd = 1 then { s with fsm := .done, status := { s.status with result := .okAtVop } }
    else { s with fsm := .hdrVop } := rfl

/-- Settles O11: each header class moves FSM to its header, and a VOP start code ends the header run. -/
theorem headerStartCodesSelectTheirHeader : Obligations.HeaderStartCodesSelectTheirHeader := by
  unfold Obligations.HeaderStartCodesSelectTheirHeader
  intro s hl hin t
  refine ⟨fun _ _ _ => runAt_takeStartCode hl hin, runAt_takeStartCode hl hin, runAt_takeStartCode hl hin,
    runAt_takeStartCode hl hin, runAt_takeStartCode hl hin, runAt_takeStartCode hl hin, ?_⟩
  exact (runAt_takeStartCode hl hin).trans (congrArg Host.Outcome.next (State.reachVop_eq s.afterStartCode))

/-! ## EXT -/

/-- The end of a header operation: OK, and SCAN again. -/
def State.scanOn (s : State) : State := { s with fsm := .scan, status := { s.status with result := .ok } }

theorem extP_standard (h : s.seq.studioProfile = false) : extP s = .ok () s.scanOn := by
  rw [extP, Parse.getState_bind, h, whenP_false]
  rfl

theorem extP_studio (h : s.seq.studioProfile = true) (hx : extStudio s = .ok () u) : extP s = .ok () u.scanOn := by
  rw [extP, Parse.getState_bind, h, whenP_true, Parse.bind_ok hx]
  rfl

/-- An identifier other than 3 is passed over. -/
theorem extStudio_other (hl : s.lenFits = true) (hin : s.pos + 4 ≤ s.endPos) (hne : s.memRead s.pos 4 ≠ 3) :
    extStudio s = .ok () (s.atBit (s.pos + 4)) := by
  have hid : (s.memRead s.pos 4 == 3) = false := beq_false_of_ne hne
  rw [extStudio, Parse.bind_ok ((ReadsAt.refl s).getBits hl hin), hid, whenP_false]
  rfl

/-- The identifier 3 is followed by the four matrices. -/
theorem extStudio_matrices (hl : s.lenFits = true) (hid : s.bitsAre s.pos 4 3 = true) :
    extStudio s = forEach extMatrix [.intra, .inter, .chromaIntra, .chromaInter] (s.atBit (s.pos + 4)) := by
  obtain ⟨hin, hv⟩ := State.bitsAre_iff.1 hid
  rw [extStudio, Parse.bind_ok ((ReadsAt.refl s).getBits hl hin), hv]
  rfl

/-- A load flag 0 leaves its matrix as it is. -/
theorem ReadsAt.extMatrix_kept (h : ReadsAt s p u) (hl : s.lenFits = true) (hf : s.bitsAre p 1 0 = true) (m : MatId) :
    extMatrix m u = .ok () (u.atBit (p + 1)) := by
  rw [extMatrix, Parse.bind_ok (h.getFlag_of_bitsAre hl hf)]
  rfl

/-- Load flags 0, one for each of the matrices. -/
theorem ReadsAt.forEach_extMatrix_kept (hl : s.lenFits = true) (ms : List MatId) :
    ∀ {p u}, ReadsAt s p u → s.bitsAre p ms.length 0 = true →
      forEach extMatrix ms u = .ok () (u.atBit (p + ms.length)) := by
  induction ms with
  | nil =>
    intro p u h _
    exact congrArg (EStateM.Result.ok ()) (congrArg u.atBit h.pos)
  | cons m ms ih =>
    intro p u h hz
    rw [List.length_cons, Nat.add_comm] at hz
    obtain ⟨hf, hrest⟩ := State.bitsAre_split hz
    rw [Nat.zero_div] at hf
    rw [Nat.zero_mod] at hrest
    rw [forEach_cons, Parse.bind_ok (h.extMatrix_kept hl hf m), ih (h.atBit _) hrest, State.atBit_atBit, List.length_cons,
      Nat.add_assoc, Nat.add_comm 1]

/-- One entry of the matrix `m`, at scan position `i`. -/
def extEntry (m : MatId) (i : Nat) : Parse Unit := do
  let v ← getBits (truncated .vol) 8
  update (fun s => s.putMatrixId m i (BitVec.ofNat 8 v))

theorem extMatrix_eq (m : MatId) : extMatrix m = (do
    let load ← getFlag (truncated .vol)
    whenP load (forEach (extEntry m) (List.range 64))) := rfl

/-- The intra matrix with the values of `vs` at the scan positions from `i` up. -/
def State.putIntra (s : State) (i : Nat) (vs : List Byte) : State :=
  { s with seq := { s.seq with intraMatrix := putScanList s.cfg.idctPerm s.cfg.zigzag i vs s.seq.intraMatrix } }

theorem ReadsAt.putIntra (h : ReadsAt s p u) (i : Nat) (vs : List Byte) : ReadsAt s p (u.putIntra i vs) :=
  ⟨h.bs, h.len, h.cfg, h.pos⟩

/-- One entry of the intra matrix that stands at the bit. -/
theorem ReadsAt.extEntry (h : ReadsAt s p u) (hl : s.lenFits = true) {v : Byte} (hv : s.bitsAre p 8 v.toNat = true)
    (i : Nat) : extEntry .intra i u = .ok () ((u.putIntra i [v]).atBit (p + 8)) := by
  obtain ⟨hin, hv⟩ := State.bitsAre_iff.1 hv
  rw [Machine.extEntry, Parse.bind_ok (h.getBits hl hin), hv, BitVec.ofNat_toNat, BitVec.setWidth_eq]
  rfl

/-- The entries of the intra matrix, one byte after the other. -/
theorem ReadsAt.extEntries (hl : s.lenFits = true) (vs : List Byte) :
    ∀ {p u} (i : Nat), ReadsAt s p u → (∀ j, j < vs.length → s.bitsAre (p + 8 * j) 8 (vs.getD j 0).toNat = true) →
      forEach (Machine.extEntry .intra) (List.range' i vs.length) u
        = .ok () ((u.putIntra i vs).atBit (p + 8 * vs.length)) := by
  induction vs with
  | nil =>
    intro p u i h _
    exact congrArg (EStateM.Result.ok ()) (congrArg u.atBit h.pos)
  | cons v vs ih =>
    intro p u i h hv
    have hfirst : s.bitsAre p 8 v.toNat = true := hv 0 (Nat.succ_pos _)
    have hrest (j : Nat) (hj : j < vs.length) : s.bitsAre (p + 8 + 8 * j) 8 (vs.getD j 0).toNat = true := by
      have := hv (j + 1) (Nat.succ_lt_succ hj)
      rwa [Nat.mul_add, Nat.add_comm (8 * j), ← Nat.add_assoc] at this
    have hlen : p + 8 + 8 * vs.length = p + 8 * (vs.length + 1) := by omega
    rw [List.length_cons, List.range'_succ, forEach_cons, Parse.bind_ok (h.extEntry hl hfirst i),
      ih (i + 1) ((h.putIntra i [v]).atBit _) hrest, hlen]
    rfl

/-- A set load flag and 64 entries replace the intra matrix. -/
theorem ReadsAt.extMatrix_loaded (h : ReadsAt s p u) (hl : s.lenFits = true) (hf : s.bitsAre p 1 1 = true)
    {vs : List Byte} (hn : vs.length = 64)
    (hv : ∀ j, j < vs.length → s.bitsAre (p + 1 + 8 * j) 8 (vs.getD j 0).toNat = true) :
    extMatrix .intra u = .ok () ((u.putIntra 0 vs).atBit (p + 513)) := by
  rw [extMatrix_eq, Parse.bind_ok (h.getFlag_of_bitsAre hl hf), List.range_eq_range', ← hn]
  have hx := ReadsAt.extEntries hl vs 0 (h.atBit (p + 1)) hv
  rw [hn, Nat.add_assoc] at hx
  rw [hn]
  exact hx

/-- Settles O12: EXT by its profile, its identifier and its load flags; SC_EXT runs it in place. -/
theorem extLoadsMatricesInAStudioStream : Obligations.ExtLoadsMatricesInAStudioStream := by
  unfold Obligations.ExtLoadsMatricesInAStudioStream
  intro s hl done
  have hext {u v : State} (h : extP u = .ok () v) : exec .extUnit u = .next v :=
    congrArg Host.Outcome.next (runAt_ok h)
  have hsc (hin : s.scanByte + 4 ≤ s.len.toNat) : exec .scExt s = exec .extUnit s.afterStartCode :=
    runAt_takeStartCode hl hin
  refine ⟨fun h => hext (extP_standard h), fun h hin hne => hext (extP_studio h (extStudio_other hl hin hne)),
    fun h hb => hext (extP_studio h ?_), fun vs h hn hb hv hz => hext (extP_studio h ?_), hsc,
    fun hin h => (hsc hin).trans (hext (extP_standard h))⟩
  · obtain ⟨hid, hflags⟩ := State.bitsAre_split (m := 4) (n := 4) hb
    rw [extStudio_matrices hl hid]
    exact ReadsAt.forEach_extMatrix_kept hl _ ((ReadsAt.refl s).atBit _) hflags
  · obtain ⟨hid, hflag⟩ := State.bitsAre_split (m := 4) (n := 1) hb
    obtain ⟨hend, _⟩ := State.bitsAre_iff.1 hz
    have hentries (j : Nat) (hj : j < vs.length) :
        s.bitsAre (s.pos + 4 + 1 + 8 * j) 8 (vs.getD j 0).toNat = true :=
      State.bitsAre_iff.2 ⟨by omega, hv j (hn ▸ hj)⟩
    have hat := (ReadsAt.refl s).atBit (s.pos + 4)
    rw [extStudio_matrices hl hid, forEach_cons, Parse.bind_ok (hat.extMatrix_loaded hl hflag hn hentries)]
    exact ReadsAt.forEach_extMatrix_kept hl _ ((hat.putIntra 0 vs).atBit _) hz

/-! ## GOP -/

section Rows

variable {φ ε : Type} [DecidableEq φ] {g : Reader φ ε} {env : Env φ} {rows : List (Row φ ε)} {n : Nat} {tg : Tag}

/-- A row that passes over `n` bits. -/
theorem ReadsAt.runRows_skip (h : ReadsAt s p u) (hl : s.lenFits = true) (hin : p + n ≤ s.endPos) :
    runRows g (⟨[], .skip (.bits n)⟩ :: rows) env u = runRows g rows env (u.atBit (p + n)) := by
  have hpos : u.pos = p := h.pos
  have hin' : u.pos + u.widthOf (.bits n) ≤ u.endPos := by
    rw [hpos, h.endPos]
    exact hin
  rw [runRows_run rowRuns_nil (runItem_skip hin'), hpos, State.widthOf_bits, h.setPos hl hin]

/-- A row of a marker, from what the marker does. -/
theorem runRows_marker (h : marker (g.ends tg) u = .ok () t) :
    runRows g (⟨[], .marker tg⟩ :: rows) env u = runRows g rows env t :=
  runRows_run rowRuns_nil (Parse.bind_ok h)

theorem runRows_marker_raises {r : Raise} (h : marker (g.ends tg) u = .error r t) :
    runRows g (⟨[], .marker tg⟩ :: rows) env u = .error r t :=
  runRows_raise rowRuns_nil (Parse.bind_error h)

end Rows

/-- A marker bit 0, tolerated. -/
theorem ReadsAt.marker_tolerated {e : Raise} (h : ReadsAt s p u) (hl : s.lenFits = true) (hm : s.bitsAre p 1 0 = true)
    (hs : u.ctrl.strict = false) : Machine.marker e u = .ok () ((u.atBit (p + 1)).log .marker) := by
  rw [Machine.marker, Parse.bind_ok (h.getFlag_of_bitsAre hl hm), Parse.getState_bind]
  exact congrFun (if_neg (Bool.eq_false_iff.1 hs)) _

/-- A marker bit 0, refused. -/
theorem ReadsAt.marker_refused {e : Raise} (h : ReadsAt s p u) (hl : s.lenFits = true) (hm : s.bitsAre p 1 0 = true)
    (hs : u.ctrl.strict = true) : Machine.marker e u = .error (invalid e.tag) (u.atBit (p + 1)) := by
  rw [Machine.marker, Parse.bind_ok (h.getFlag_of_bitsAre hl hm), Parse.getState_bind]
  exact congrFun (if_pos hs) _

theorem ReadsAt.log (h : ReadsAt s p u) (f : LogFlag) : ReadsAt s p (u.log f) := ⟨h.bs, h.len, h.cfg, h.pos⟩

/-- The rows of GOP up to its marker. -/
theorem runRows_gop_lead (hl : s.lenFits = true) (hin : s.pos + 20 ≤ s.endPos) {g : Reader SeqField SeqAct}
    {env : Env SeqField} : runRows g Config.gopRows env s
      = runRows g (⟨[], .marker .gop⟩ :: always [.skip (.bits 6), .skip (.bits 1), .skip (.bits 1)]) env
        (s.atBit (s.pos + 11)) := by
  have h := ReadsAt.refl s
  refine (h.runRows_skip hl (by omega)).trans ?_
  exact (h.atBit _).runRows_skip hl (by omega)

/-- The rows of GOP after its marker. -/
theorem ReadsAt.runRows_gop_tail (h : ReadsAt s p u) (hl : s.lenFits = true) (hin : p + 8 ≤ s.endPos)
    {g : Reader SeqField SeqAct} {env : Env SeqField} :
    runRows g (always [.skip (.bits 6), .skip (.bits 1), .skip (.bits 1)]) env u = .ok () (u.atBit (p + 8)) := by
  refine (h.runRows_skip hl (by omega)).trans ?_
  refine ((h.atBit _).runRows_skip hl (by omega)).trans ?_
  exact (h.atBit _).runRows_skip hl (by omega)

/-- GOP passes its marker where the marker does. -/
theorem execGop_passes (hl : s.lenFits = true) (hg : s.cfg.layout = Config.layout) (hin : s.pos + 20 ≤ s.endPos)
    (hm : marker (truncated .gop) (s.atBit (s.pos + 11)) = .ok () u) (hu : ReadsAt s (s.pos + 12) u) :
    exec .gop s = .next (u.atBit (s.pos + 20)).scanOn := by
  have hrows : runLayout (seqReader .gop) s.cfg.layout.gop s = .ok () (u.atBit (s.pos + 20)) := by
    rw [hg, runLayout_apply]
    refine (runRows_gop_lead hl hin).trans ((runRows_marker hm).trans ?_)
    exact hu.runRows_gop_tail hl hin
  have hgop : gopP s = .ok () (u.atBit (s.pos + 20)).scanOn := by
    rw [gopP, Parse.getState_bind, Parse.bind_ok hrows]
    rfl
  exact congrArg Host.Outcome.next (runAt_ok hgop)

/-- GOP ends where its marker is refused. -/
theorem execGop_refused (hl : s.lenFits = true) (hg : s.cfg.layout = Config.layout) (hin : s.pos + 20 ≤ s.endPos)
    {r : Raise} (hm : marker (truncated .gop) (s.atBit (s.pos + 11)) = .error r u) :
    exec .gop s = .next (u.takeRaise .headerRun r) := by
  have hrows : runLayout (seqReader .gop) s.cfg.layout.gop s = .error r u := by
    rw [hg, runLayout_apply]
    exact (runRows_gop_lead hl hin).trans (runRows_marker_raises hm)
  have hgop : gopP s = .error r u := by
    rw [gopP, Parse.getState_bind, Parse.bind_error hrows]
  exact congrArg Host.Outcome.next (runAt_error hgop)

/-- Settles O16: GOP is eleven bits, its marker and eight bits. -/
theorem gopConsumesTwentyBits : Obligations.GopConsumesTwentyBits := by
  unfold Obligations.GopConsumesTwentyBits
  intro s hl hg hin
  have hat := (ReadsAt.refl s).atBit (s.pos + 11)
  have hbit {v : Nat} (h : s.bitAt (s.pos + 11) = v) : s.bitsAre (s.pos + 11) 1 v = true :=
    State.bitsAre_iff.2 ⟨by omega, State.memRead_one.trans h⟩
  refine ⟨fun h1 => ?_, fun h0 hs => ?_, fun h0 hs => ?_⟩
  · exact execGop_passes (u := s.atBit (s.pos + 12)) hl hg hin (hat.marker hl (hbit h1)) (hat.atBit _)
  · exact execGop_passes hl hg hin (hat.marker_tolerated hl (hbit h0) hs) ((hat.atBit _).log _)
  · exact ⟨_, execGop_refused hl hg hin (hat.marker_refused hl (hbit h0) hs), rfl, rfl, rfl, rfl, rfl⟩

end Sys2Proof.Machine
end

section
/-! The quantiser delta (43_macroblock.md R246, R247). -/

namespace Sys2Proof.Machine

variable {s : State}

/-- DQTAB as a list (30_encoding.md R109). -/
theorem dquantOf_eq {i : Nat} (hi : i < 4) : dquantOf i = ([-1, -2, 1, 2] : List Int).getD i 0 := by
  interval_cases i <;> rfl

/-- A delta of DQTAB fits MB.dquant. -/
theorem toS3_dquantOf (i : Nat) : toS 3 (dquantOf i) = BitVec.ofInt 3 (dquantOf i) := by
  unfold dquantOf
  split_ifs <;> decide

/-- Settles O33: the index is read, its delta is taken, and the stepped quantiser is written. That PIC.chroma_qscale takes
it too is log 54. -/
theorem dquantStepsTheQuantiser : Obligations.DquantStepsTheQuantiser := by
  unfold Obligations.DquantStepsTheQuantiser
  intro s hl h3 h9 d q
  have hd : dquantOf (s.memRead s.pos 2) = d := dquantOf_eq State.memRead_lt
  obtain ⟨hstep, _, _⟩ := s.steppedQuant_eq h3 h9 d rfl
  constructor
  · intro hin
    have hread : dquantP (exhausted s.mbTag) s = .ok () ((s.atBit (s.pos + 2)).applyDquant d) := by
      rw [dquantP, Parse.bind_ok ((ReadsAt.refl s).getBits hl hin), update_apply, hd]
    have htake : toS 3 d = BitVec.ofInt 3 d := hd ▸ toS3_dquantOf _
    have happly : (s.atBit (s.pos + 2)).applyDquant d = { s.atBit (s.pos + 2) with
        pic := { s.pic with qscale := s.steppedQuant d, chromaQscale := s.steppedQuant d }
        mb := { s.mb with qscale := s.steppedQuant d, dquant := toS 3 d } } := rfl
    rw [hstep, htake] at happly
    exact congrArg Host.Outcome.next ((runAt_ok hread).trans happly)
  · intro hshort
    have hread : dquantP (exhausted s.mbTag) s = .error (exhausted s.mbTag) s := by
      rw [dquantP, Parse.bind_error (getBits_short hshort)]
    exact ⟨_, congrArg Host.Outcome.next (runAt_error hread), rfl, rfl, rfl, rfl⟩

end Sys2Proof.Machine
end

section
/-! The encoder signatures (46_quirks.md R362): what the number reader and the seven patterns take from a text that is
written as they ask, and that a text with another first byte meets none of them. -/

namespace Sys2Proof.Machine

variable {a b c ds rest text mid : List Byte} {v w x y z : Int}

/-! ## Numbers -/

/-- An ASCII digit. -/
abbrev IsDigit (c : Byte) : Prop := 0x30 ≤ c.toNat ∧ c.toNat ≤ 0x39

/-- The number that a run of digits writes. -/
def digitsValue (ds : List Byte) : Nat := ds.foldl (fun v c => 10 * v + (c.toNat - 0x30)) 0

/-- The text `b` writes the signed 32-bit number `v`: an optional sign and one or more digits. -/
def Writes (b : List Byte) (v : Int) : Prop :=
  -2147483648 ≤ v ∧ v ≤ 2147483647 ∧ ∃ ds : List Byte, ds ≠ [] ∧ (∀ c ∈ ds, IsDigit c)
    ∧ ((b = ds ∧ v = (digitsValue ds : Nat)) ∨ (b = 0x2B :: ds ∧ v = (digitsValue ds : Nat))
      ∨ (b = 0x2D :: ds ∧ v = -((digitsValue ds : Nat) : Int)))

/-- No digit follows. -/
def Stops (rest : List Byte) : Prop := ∀ c ∈ rest.head?, ¬IsDigit c

theorem stops_nil : Stops [] := nofun

theorem stops_cons {c : Byte} (h : ¬IsDigit c) (rest : List Byte) : Stops (c :: rest) := by
  intro d hd
  obtain rfl := Option.some.inj hd
  exact h

theorem digitOf_digit {c : Byte} (h : IsDigit c) : digitOf c = some (c.toNat - 0x30) := if_pos h

theorem digitOf_other {c : Byte} (h : ¬IsDigit c) : digitOf c = none := if_neg h

theorem takeDigits_stop (h : Stops rest) (n acc : Nat) : takeDigits rest n acc = (n, acc, rest) := by
  cases rest with
  | nil => rfl
  | cons c t => simp only [takeDigits, digitOf_other (h c rfl)]

theorem takeDigits_append (hs : Stops rest) (hd : ∀ c ∈ ds, IsDigit c) : ∀ n acc, takeDigits (ds ++ rest) n acc
    = (n + ds.length, ds.foldl (fun v c => 10 * v + (c.toNat - 0x30)) acc, rest) := by
  induction ds with
  | nil => exact fun n acc => takeDigits_stop hs n acc
  | cons d ds ih =>
    intro n acc
    have htail := ih (fun c hc => hd c (List.mem_cons_of_mem d hc)) (n + 1) (10 * acc + (d.toNat - 0x30))
    rw [List.cons_append, takeDigits, digitOf_digit (hd d (List.mem_cons_self ..)), List.foldl_cons, List.length_cons,
      Nat.add_comm ds.length, ← Nat.add_assoc]
    exact htail

theorem takeNat_digits (hs : Stops rest) (hne : ds ≠ []) (hd : ∀ c ∈ ds, IsDigit c) :
    takeNat (ds ++ rest) = some (digitsValue ds, rest) := by
  obtain ⟨d, ds, rfl⟩ := List.exists_cons_of_ne_nil hne
  rw [takeNat, takeDigits_append hs hd, List.length_cons, Nat.zero_add]
  rfl

/-- A digit is no sign. -/
theorem takeInt_digit {d : Byte} (h : IsDigit d) :
    takeInt (d :: rest) = (takeNat (d :: rest)).map fun r => ((r.1 : Int), r.2) := by
  have hminus : d ≠ 0x2D := by rintro rfl; exact absurd h (by decide)
  have hplus : d ≠ 0x2B := by rintro rfl; exact absurd h (by decide)
  rw [takeInt, if_neg hminus, if_neg hplus]

/-- A number that is written, up to where no digit follows. -/
theorem takeInt_writes (h : Writes b v) (hs : Stops rest) : takeInt (b ++ rest) = some (v, rest) := by
  obtain ⟨_, _, ds, hne, hd, ⟨rfl, rfl⟩ | ⟨rfl, rfl⟩ | ⟨rfl, rfl⟩⟩ := h
  · obtain ⟨d, ds, rfl⟩ := List.exists_cons_of_ne_nil hne
    rw [List.cons_append, takeInt_digit (hd d (List.mem_cons_self ..)), ← List.cons_append, takeNat_digits hs hne hd]
    rfl
  · show (takeNat (ds ++ rest)).map _ = _
    rw [takeNat_digits hs hne hd]
    rfl
  · show (takeNat (ds ++ rest)).map _ = _
    rw [takeNat_digits hs hne hd]
    rfl

/-- A written number fits the register that takes it. -/
theorem Writes.toS (h : Writes b v) : toS 32 v = BitVec.ofInt 32 v := by
  obtain ⟨hlo, hhi, _⟩ := h
  exact toS_ofInt (by norm_num; omega) (by norm_num; omega)

/-- The low byte of a written number. -/
theorem Writes.lavcByte (h : Writes b v) : lavcByte v = v % 256 := by
  obtain ⟨hlo, hhi, _⟩ := h
  have hv : (BitVec.ofInt 32 v).toInt = v := by
    rw [BitVec.toInt_ofInt]
    exact Int.bmod_eq_of_le (by norm_num; omega) (by norm_num; omega)
  rw [Machine.lavcByte, toS_ofInt (by norm_num; omega) (by norm_num; omega), hv]

/-- No letter `b` stands in a written number. -/
theorem Writes.no_b (h : Writes b v) : (0x62 : Byte) ∉ b := by
  obtain ⟨_, _, ds, _, hd, hb⟩ := h
  have hds : (0x62 : Byte) ∉ ds := fun hm => absurd (hd _ hm) (by decide)
  obtain ⟨rfl, _⟩ | ⟨rfl, _⟩ | ⟨rfl, _⟩ := hb
  · exact hds
  · exact fun hm => hds ((List.mem_cons.1 hm).resolve_left (by decide))
  · exact fun hm => hds ((List.mem_cons.1 hm).resolve_left (by decide))

/-! ## Fixed bytes -/

theorem expectBytes_append (p t : List Byte) : expectBytes p (p ++ t) = some t := by
  induction p with
  | nil => rfl
  | cons d p ih => rw [List.cons_append, expectBytes, if_pos rfl, ih]

/-- A text that begins with another byte, or with none, is not the one expected. -/
theorem expectBytes_head {d : Byte} {p : List Byte} (h : text.head? ≠ some d) : expectBytes (d :: p) text = none := by
  cases text with
  | nil => rfl
  | cons e t => exact if_neg fun he => h (congrArg some he.symm)

/-- The first `b` of a text. -/
theorem fromFirstB_append (h : (0x62 : Byte) ∉ a) (rest : List Byte) :
    fromFirstB (a ++ 0x62 :: rest) = 0x62 :: rest := by
  induction a with
  | nil => rfl
  | cons d a ih =>
    have hd : d ≠ 0x62 := fun he => h (he ▸ List.mem_cons_self ..)
    rw [List.cons_append, fromFirstB, if_neg hd, ih fun hm => h (List.mem_cons_of_mem d hm)]

/-! ## The patterns -/

/-- Rows 1 and 2, for the middle that stands there. -/
theorem divxPattern_writes (ha : Writes a v) (hb : Writes b w) (hr : Stops rest) (hm : Stops (mid ++ (b ++ rest))) :
    divxPattern mid (textDivX ++ (a ++ (mid ++ (b ++ rest)))) = some (v, w, rest.head? == some 0x70) := by
  simp only [divxPattern, expectBytes_append, Option.bind_eq_bind, Option.bind_some, takeInt_writes ha hm,
    takeInt_writes hb hr]
  rfl

theorem divxSignature_build (ha : Writes a v) (hb : Writes b w) (hr : Stops rest) :
    divxSignature (textDivX ++ (a ++ (textBuild ++ (b ++ rest)))) = some (v, w, rest.head? == some 0x70) := by
  rw [divxSignature, divxPattern_writes ha hb hr (stops_cons (by decide) _)]
  rfl

/-- Where `b` stands after the version, `Build` does not. -/
theorem divxSignature_b (ha : Writes a v) (hb : Writes b w) (hr : Stops rest) :
    divxSignature (textDivX ++ (a ++ (textB ++ (b ++ rest)))) = some (v, w, rest.head? == some 0x70) := by
  have hm : Stops (textB ++ (b ++ rest)) := stops_cons (by decide) _
  have hbuild : divxPattern textBuild (textDivX ++ (a ++ (textB ++ (b ++ rest)))) = none := by
    have hx : expectBytes textBuild (textB ++ (b ++ rest)) = none :=
      expectBytes_head fun h => absurd (Option.some.inj h) (by decide)
    simp only [divxPattern, expectBytes_append, Option.bind_eq_bind, Option.bind_some, takeInt_writes ha hm, hx,
      Option.bind_none]
  rw [divxSignature, hbuild, divxPattern_writes ha hb hr hm]
  rfl

theorem takeTriple_writes (ha : Writes a x) (hb : Writes b y) (hc : Writes c z) (hr : Stops rest) :
    takeTriple (a ++ (textDot ++ (b ++ (textDot ++ (c ++ rest))))) = some (x, y, z, rest) := by
  have hdot (t : List Byte) : Stops (textDot ++ t) := stops_cons (by decide) _
  simp only [takeTriple, Option.bind_eq_bind, Option.bind_some, takeInt_writes ha (hdot _), takeInt_writes hb (hdot _),
    takeInt_writes hc hr, expectBytes_append]
  rfl

theorem lavcRow3_writes (hrun : (0x62 : Byte) ∉ a) (hb : Writes b v) (hr : Stops rest) :
    lavcRow3 (textFFmpe ++ (a ++ (textB ++ (b ++ rest)))) = some v := by
  have hfirst : fromFirstB (a ++ (textB ++ (b ++ rest))) = textB ++ (b ++ rest) := fromFirstB_append hrun _
  simp only [lavcRow3, expectBytes_append, Option.bind_eq_bind, Option.bind_some, hfirst, takeInt_writes hb hr]
  rfl

/-- Row 3 fails where the letter after the first `b` begins no number. -/
theorem lavcRow3_letter (hrun : (0x62 : Byte) ∉ a) : lavcRow3 (textFFmpe ++ (a ++ 0x62 :: 0x61 :: rest)) = none := by
  have hx : expectBytes textB (0x62 :: 0x61 :: rest) = some (0x61 :: rest) := expectBytes_append textB _
  have hi : takeInt (0x61 :: rest) = none := rfl
  simp only [lavcRow3, expectBytes_append, Option.bind_eq_bind, Option.bind_some, fromFirstB_append hrun, hx, hi,
    Option.bind_none]

theorem lavcRow4_writes {d : List Byte} (ha : Writes a x) (hb : Writes b y) (hc : Writes c z) (hd : Writes d v)
    (hr : Stops rest) :
    lavcRow4 (textFFmpegV ++ (a ++ (textDot ++ (b ++ (textDot ++ (c ++ (textLibavcodec ++ (d ++ rest))))))))
      = some v := by
  have hlib : Stops (textLibavcodec ++ (d ++ rest)) := stops_cons (by decide) _
  simp only [lavcRow4, expectBytes_append, Option.bind_eq_bind, Option.bind_some, takeTriple_writes ha hb hc hlib,
    takeInt_writes hd hr]
  rfl

theorem lavcRow5_writes (ha : Writes a x) (hb : Writes b y) (hc : Writes c z) (hr : Stops rest) :
    lavcRow5 (textLavc ++ (a ++ (textDot ++ (b ++ (textDot ++ (c ++ rest))))))
      = some (x % 256 * 65536 + y % 256 * 256 + z % 256) := by
  simp only [lavcRow5, expectBytes_append, Option.bind_eq_bind, Option.bind_some, takeTriple_writes ha hb hc hr,
    ha.lavcByte, hb.lavcByte, hc.lavcByte]
  rfl

theorem xvidSignature_writes (ha : Writes a v) (hr : Stops rest) :
    xvidSignature (textXviD ++ (a ++ rest)) = some v := by
  simp only [xvidSignature, expectBytes_append, Option.bind_eq_bind, Option.bind_some, takeInt_writes ha hr]
  rfl

/-! ## The first byte -/

theorem divxSignature_none (h : text.head? ≠ some 0x44) : divxSignature text = none := by
  have hx : ∀ mid, divxPattern mid text = none := fun mid => by
    simp only [divxPattern, textDivX, expectBytes_head h, Option.bind_eq_bind, Option.bind_none]
  rw [divxSignature, hx, hx]
  rfl

theorem xvidSignature_none (h : text.head? ≠ some 0x58) : xvidSignature text = none := by
  simp only [xvidSignature, textXviD, expectBytes_head h, Option.bind_eq_bind, Option.bind_none]

theorem lavcRow3_none (h : text.head? ≠ some 0x46) : lavcRow3 text = none := by
  simp only [lavcRow3, textFFmpe, expectBytes_head h, Option.bind_eq_bind, Option.bind_none]

theorem lavcRow4_none (h : text.head? ≠ some 0x46) : lavcRow4 text = none := by
  simp only [lavcRow4, textFFmpegV, expectBytes_head h, Option.bind_eq_bind, Option.bind_none]

theorem lavcRow5_none (h : text.head? ≠ some 0x4C) : lavcRow5 text = none := by
  simp only [lavcRow5, textLavc, expectBytes_head h, Option.bind_eq_bind, Option.bind_none]

theorem lavcRow6_none (h : text.head? ≠ some 0x66) : lavcRow6 text = none := by
  refine if_neg ?_
  rintro rfl
  exact h rfl

theorem lavcSignature_none (hF : text.head? ≠ some 0x46) (hL : text.head? ≠ some 0x4C) (hf : text.head? ≠ some 0x66) :
    lavcSignature text = none := by
  rw [lavcSignature, lavcRow3_none hF, lavcRow4_none hF, lavcRow5_none hL, lavcRow6_none hf]
  rfl

/-! ## The registers of each row -/

section Registers

variable (q : Seq) {d : Byte}

/-- No signature: the registers stay. -/
theorem Seq.takeSignatures_none (hd : divxSignature text = none) (hl : lavcSignature text = none)
    (hx : xvidSignature text = none) : q.takeSignatures text = q ∧ packedText text = false := by
  simp only [Seq.takeSignatures, Seq.takeDivx, Seq.takeLavc, Seq.takeXvid, packedText, hd, hl, hx, and_self]

/-- A DivX signature (rows 1 and 2). -/
theorem Seq.takeSignatures_divx {p : Bool} (hd : divxSignature text = some (v, w, p)) (hl : lavcSignature text = none)
    (hx : xvidSignature text = none) :
    q.takeSignatures text = { q with divxVersion := toS 32 v, divxBuild := toS 32 w } ∧ packedText text = p := by
  simp only [Seq.takeSignatures, Seq.takeDivx, Seq.takeLavc, Seq.takeXvid, packedText, hd, hl, hx, and_self]

/-- A libavcodec signature (rows 3 to 6). -/
theorem Seq.takeSignatures_lavc (hd : divxSignature text = none) (hl : lavcSignature text = some v)
    (hx : xvidSignature text = none) :
    q.takeSignatures text = { q with lavcBuild := toS 32 v } ∧ packedText text = false := by
  simp only [Seq.takeSignatures, Seq.takeDivx, Seq.takeLavc, Seq.takeXvid, packedText, hd, hl, hx, and_self]

/-- An XviD signature (row 7). -/
theorem Seq.takeSignatures_xvid (hd : divxSignature text = none) (hl : lavcSignature text = none)
    (hx : xvidSignature text = some v) :
    q.takeSignatures text = { q with xvidBuild := toS 32 v } ∧ packedText text = false := by
  simp only [Seq.takeSignatures, Seq.takeDivx, Seq.takeLavc, Seq.takeXvid, packedText, hd, hl, hx, and_self]

end Registers

end Sys2Proof.Machine
end

section
/-! The compatibility resolver (46_quirks.md R361 to R367): the versions it leaves, the flags, and the permutation
switch. -/

namespace Sys2Proof.Machine

variable {s t : State} {q : Seq} {text : List Byte} {tag : BitVec 32} {packed : Bool}

/-! ## The versions -/

/-- Two values of SEQ differ at most in the four version registers. -/
def Seq.sameButVersions (q r : Seq) : Prop :=
  r = { q with
    divxVersion := r.divxVersion, divxBuild := r.divxBuild, xvidBuild := r.xvidBuild, lavcBuild := r.lavcBuild }

theorem Seq.sameButVersions.trans {a b c : Seq} (h : a.sameButVersions b) (k : b.sameButVersions c) :
    a.sameButVersions c := by
  unfold Seq.sameButVersions at *
  rw [k, h]

theorem Seq.takeSignatures_sameButVersions (q : Seq) (text : List Byte) :
    q.sameButVersions (q.takeSignatures text) := by
  have hd : q.sameButVersions (q.takeDivx text) := by
    unfold Seq.takeDivx
    split <;> rfl
  have hl : (q.takeDivx text).sameButVersions ((q.takeDivx text).takeLavc text) := by
    unfold Seq.takeLavc
    split <;> rfl
  refine (hd.trans hl).trans ?_
  unfold Seq.takeSignatures Seq.takeXvid
  split <;> rfl

/-- The XviD build after the defaults of the tag (R363). -/
def Seq.defaultXvid (q : Seq) (tag : BitVec 32) : BitVec 32 :=
  if (q.xvidBuild = -1 ∧ q.divxVersion = -1 ∧ q.lavcBuild = -1)
      ∧ tag ∈ ([0x44495658, 0x58495658, 0x34504D52, 0x34504D5A, 0x50504953] : List (BitVec 32)) then 0 else q.xvidBuild

/-- The DivX version after the defaults of the tag (R363). -/
def Seq.defaultDivx (q : Seq) (volControl : Bool) (tag : BitVec 32) : BitVec 32 :=
  if (q.xvidBuild = -1 ∧ q.divxVersion = -1 ∧ q.lavcBuild = -1) ∧ tag = 0x58564944 ∧ volControl = false then 400
  else q.divxVersion

theorem isXvidTag_iff : isXvidTag tag = true ↔
    tag ∈ ([0x44495658, 0x58495658, 0x34504D52, 0x34504D5A, 0x50504953] : List (BitVec 32)) := by
  simp only [isXvidTag, Bool.or_eq_true, beq_iff_eq, List.mem_cons, List.not_mem_nil, or_false, or_assoc, tagXVID,
    tagXVIX, tagRMP4, tagZMP4, tagSIPP]

/-- The defaults write the XviD build or the DivX version, by the tag. -/
theorem Seq.tagDefaults_eq (q : Seq) (tag : BitVec 32) :
    q.tagDefaults tag = { q with xvidBuild := q.defaultXvid tag, divxVersion := q.defaultDivx q.volControl tag } := by
  by_cases hu : q.xvidBuild = -1 ∧ q.divxVersion = -1 ∧ q.lavcBuild = -1
  · by_cases hx : isXvidTag tag = true
    · have hne : tag ≠ 0x58564944 := by
        rintro rfl
        exact absurd hx (by decide)
      rw [Seq.tagDefaults, if_pos hu, if_pos hx, Seq.defaultXvid, if_pos ⟨hu, isXvidTag_iff.1 hx⟩, Seq.defaultDivx,
        if_neg fun h => hne h.2.1]
    · have hX : q.defaultXvid tag = q.xvidBuild := if_neg fun h => hx (isXvidTag_iff.2 h.2)
      by_cases hd : tag = tagDIVX ∧ q.volControl = false
      · have hD : q.defaultDivx q.volControl tag = 400 := if_pos ⟨hu, hd⟩
        rw [hX, hD, Seq.tagDefaults, if_pos hu, if_neg hx, if_pos hd]
      · have hD : q.defaultDivx q.volControl tag = q.divxVersion := if_neg fun h => hd h.2
        rw [hX, hD, Seq.tagDefaults, if_pos hu, if_neg hx, if_neg hd]
  · have hX : q.defaultXvid tag = q.xvidBuild := if_neg fun h => hu h.1
    have hD : q.defaultDivx q.volControl tag = q.divxVersion := if_neg fun h => hu h.1
    rw [hX, hD, Seq.tagDefaults, if_neg hu]

/-- An XviD build cancels a DivX version. -/
theorem Seq.cancelDivx_eq (q : Seq) : q.cancelDivx = { q with
    divxVersion := if 0 ≤ q.xvidBuild.toInt ∧ 0 ≤ q.divxVersion.toInt then -1 else q.divxVersion
    divxBuild := if 0 ≤ q.xvidBuild.toInt ∧ 0 ≤ q.divxVersion.toInt then -1 else q.divxBuild } := by
  unfold Seq.cancelDivx
  split <;> rfl

theorem Seq.sameButVersions.volControl_eq {q r : Seq} (h : q.sameButVersions r) : r.volControl = q.volControl :=
  (congrArg Seq.volControl (show r = _ from h)).trans rfl

/-- Steps 1 and 2 of the resolver, from the registers of the signatures. -/
theorem Seq.resolveVersions_eq (q : Seq) (text : List Byte) (tag : BitVec 32) :
    q.resolveVersions text tag = ({ q.takeSignatures text with
      xvidBuild := (q.takeSignatures text).defaultXvid tag
      divxVersion := (q.takeSignatures text).defaultDivx q.volControl tag } : Seq).cancelDivx := by
  rw [← (q.takeSignatures_sameButVersions text).volControl_eq, Seq.resolveVersions, Seq.tagDefaults_eq]

/-- The four versions that the resolver leaves. -/
theorem Seq.resolveVersions_registers (q : Seq) (text : List Byte) (tag : BitVec 32) {xb dv : BitVec 32}
    (hx : (q.takeSignatures text).defaultXvid tag = xb)
    (hd : (q.takeSignatures text).defaultDivx q.volControl tag = dv) :
    (q.resolveVersions text tag).xvidBuild = xb
      ∧ (q.resolveVersions text tag).lavcBuild = (q.takeSignatures text).lavcBuild
      ∧ (q.resolveVersions text tag).divxVersion = (if 0 ≤ xb.toInt ∧ 0 ≤ dv.toInt then -1 else dv)
      ∧ (q.resolveVersions text tag).divxBuild
        = if 0 ≤ xb.toInt ∧ 0 ≤ dv.toInt then -1 else (q.takeSignatures text).divxBuild := by
  rw [Seq.resolveVersions_eq, Seq.cancelDivx_eq, hx, hd]
  exact ⟨rfl, rfl, rfl, rfl⟩

theorem Seq.resolveVersions_sameButVersions (q : Seq) (text : List Byte) (tag : BitVec 32) :
    q.sameButVersions (q.resolveVersions text tag) := by
  refine (q.takeSignatures_sameButVersions text).trans ?_
  rw [Seq.resolveVersions_eq, Seq.cancelDivx_eq]
  rfl

/-! ## The flags -/

theorem quirkFlags_bit (f : QuirkFlag) : quirkFlags[f.bit]? = some f := by cases f <;> rfl

theorem QuirkFlag.bit_injective {f g : QuirkFlag} (h : f.bit = g.bit) : f = g := by
  have hf := quirkFlags_bit f
  rw [h, quirkFlags_bit g] at hf
  exact (Option.some.inj hf).symm

theorem QuirkFlag.bit_lt (f : QuirkFlag) : f.bit < 32 := by cases f <;> decide

/-- A mask has the bit of its flag alone. -/
theorem QuirkFlag.getLsbD_mask (f g : QuirkFlag) : g.mask.getLsbD f.bit = decide (g = f) := by
  have hmask : g.mask = BitVec.twoPow 32 g.bit := by cases g <;> rfl
  rw [hmask, BitVec.getLsbD_twoPow, decide_eq_true g.bit_lt, Bool.true_and]
  exact decide_eq_decide.2 ⟨QuirkFlag.bit_injective, congrArg QuirkFlag.bit⟩

/-- The resolver sets a flag of CTRL.QUIRK exactly where its condition holds (R364). -/
theorem getLsbD_quirkWord (q : Seq) (tag : BitVec 32) (packed : Bool) (f : QuirkFlag) :
    (quirkWord q tag packed).getLsbD f.bit = quirkSet q tag packed f := by
  have bits (l : List QuirkFlag) : ∀ w : BitVec 32,
      (l.foldl (fun w g => if quirkSet q tag packed g then w ||| g.mask else w) w).getLsbD f.bit
        = (w.getLsbD f.bit || (decide (f ∈ l) && quirkSet q tag packed f)) := by
    induction l with
    | nil => intro w; simp
    | cons g l ih =>
      intro w
      rw [List.foldl_cons, ih]
      by_cases hg : g = f
      · subst hg
        cases hq : quirkSet q tag packed g <;> simp [QuirkFlag.getLsbD_mask]
      · cases hq : quirkSet q tag packed g <;> simp [QuirkFlag.getLsbD_mask, hg, Ne.symm hg]
  have hmem : f ∈ quirkFlags := List.mem_of_getElem? (quirkFlags_bit f)
  rw [quirkWord, bits, decide_eq_true hmem, Bool.true_and]
  exact Bool.or_eq_right_iff_imp.2 fun h => absurd h (by simp)

/-! ## The permutation switch -/

/-- A permutation of 0 to 63 takes each of them once. -/
theorem isPerm64_perm {p : List Nat} (h : isPerm64 p = true) : (List.range 64).Perm p := by
  obtain ⟨hlen, hall⟩ := Bool.and_eq_true_iff.1 h
  have hsub : List.range 64 ⊆ p := fun i hi => List.contains_iff_mem.1 (List.all_eq_true.1 hall i hi)
  refine (List.subperm_of_subset List.nodup_range hsub).perm_of_length_le ?_
  rw [of_decide_eq_true hlen, List.length_range]

theorem permAt_lt {p : List Nat} (h : isPerm64 p = true) {i : Nat} (hi : i < 64) : permAt p i < 64 := by
  have hp := isPerm64_perm h
  have hlen : i < p.length := by rw [← hp.length_eq, List.length_range]; exact hi
  rw [permAt, List.getD_eq_getElem _ _ hlen]
  exact List.mem_range.1 (hp.mem_iff.2 (List.getElem_mem hlen))

theorem permAt_injective {p : List Nat} (h : isPerm64 p = true) {i j : Nat} (hi : i < 64) (hj : j < 64)
    (he : permAt p i = permAt p j) : i = j := by
  have hp := isPerm64_perm h
  have hlen (k : Nat) (hk : k < 64) : k < p.length := by rw [← hp.length_eq, List.length_range]; exact hk
  rw [permAt, permAt, List.getD_eq_getElem _ _ (hlen i hi), List.getD_eq_getElem _ _ (hlen j hj)] at he
  exact (hp.nodup_iff.1 List.nodup_range).getElem_inj_iff.1 he

/-- Re-permuting moves the entry at each old position to the new one (R367). -/
theorem repermute_getD {m : List Byte} {new old : List Nat} (h : isPerm64 new = true) (hm : m.length = 64) {j : Nat}
    (hj : j < 64) : (repermute m new old).getD (permAt new j) 0 = m.getD (permAt old j) 0 := by
  have moved (l : List Nat) : ∀ acc : List Byte, (∀ i ∈ l, i < 64) → acc.length = 64 →
      (j ∈ l ∨ acc.getD (permAt new j) 0 = m.getD (permAt old j) 0) →
      (l.foldl (fun acc i => acc.set (permAt new i) (m.getD (permAt old i) 0)) acc).getD (permAt new j) 0
        = m.getD (permAt old j) 0 := by
    induction l with
    | nil => exact fun acc _ _ hacc => hacc.resolve_left nofun
    | cons i l ih =>
      intro acc hl hlen hacc
      have hi : i < 64 := hl i (List.mem_cons_self ..)
      refine ih _ (fun k hk => hl k (List.mem_cons_of_mem i hk)) (by rw [List.length_set, hlen]) ?_
      by_cases hij : i = j
      · subst hij
        have hin : permAt new i < acc.length := hlen ▸ permAt_lt h hi
        exact .inr (by simp [List.getD_eq_getElem?_getD, hin])
      · have hne : permAt new i ≠ permAt new j := fun he => hij (permAt_injective h hi hj he)
        refine hacc.imp (fun hmem => (List.mem_cons.1 hmem).resolve_left (Ne.symm hij)) fun hset => ?_
        rw [List.getD_eq_getElem?_getD, List.getElem?_set_ne hne, ← List.getD_eq_getElem?_getD, hset]
  exact moved _ m (fun i hi => List.mem_range.1 hi) hm (.inl (List.mem_range.2 hj))

theorem State.switches_iff : s.switches = true ↔ s.cfg.xvidIdctLo ≤ s.seq.xvidBuild.toInt
    ∧ s.seq.xvidBuild.toInt ≤ s.cfg.xvidIdctHi ∧ s.cfg.idctPerm ≠ s.cfg.xvidIdctPerm := by
  simp only [State.switches, Bool.and_eq_true, decide_eq_true_eq, bne_iff_ne, and_assoc]

/-- Another scan permutation, and the four matrices moved to it. -/
def State.permuted (s : State) (g : Seq → Seq) (p : List Nat) : State :=
  { s.updSeq g with cfg := { s.cfg with idctPerm := p } }

theorem State.switchPermutation_on (h : s.switches = true) : s.switchPermutation =
    s.permuted (fun q => q.repermuted s.cfg.xvidIdctPerm s.cfg.idctPerm) s.cfg.xvidIdctPerm := if_pos h

theorem State.switchPermutation_off (h : ¬s.switches = true) : s.switchPermutation = s := if_neg h

/-- Two states differ at most in the four matrices and in the permutation. -/
def State.sameButMatrices (s t : State) : Prop :=
  t = { s with
    seq := { s.seq with
      intraMatrix := t.seq.intraMatrix, interMatrix := t.seq.interMatrix
      chromaIntraMatrix := t.seq.chromaIntraMatrix, chromaInterMatrix := t.seq.chromaInterMatrix }
    cfg := { s.cfg with idctPerm := t.cfg.idctPerm } }

theorem State.sameButMatrices.status_eq (h : s.sameButMatrices t) : t.status = s.status := by
  unfold State.sameButMatrices at h
  exact (congrArg State.status h).trans rfl

theorem State.sameButMatrices_refl (s : State) : s.sameButMatrices s := rfl

theorem State.sameButMatrices_permuted (s : State) {g : Seq → Seq} {m₁ m₂ m₃ m₄ : List Byte} (hg : g s.seq = {
    s.seq with intraMatrix := m₁, interMatrix := m₂, chromaIntraMatrix := m₃, chromaInterMatrix := m₄ }) (p : List Nat) :
    s.sameButMatrices (s.permuted g p) := by
  unfold State.sameButMatrices State.permuted State.updSeq
  dsimp only
  rw [hg]

theorem State.switchPermutation_sameButMatrices (s : State) : s.sameButMatrices s.switchPermutation := by
  by_cases h : s.switches = true
  · rw [State.switchPermutation_on h]
    exact s.sameButMatrices_permuted rfl _
  · rw [State.switchPermutation_off h]
    exact s.sameButMatrices_refl

theorem State.permuted_updStatus (s : State) (f : Status → Status) (g : Seq → Seq) (p : List Nat) :
    (s.updStatus f).permuted g p = (s.permuted g p).updStatus f := rfl

/-- The switch neither reads nor writes the status registers. -/
theorem State.switchPermutation_updStatus (s : State) (f : Status → Status) :
    (s.updStatus f).switchPermutation = s.switchPermutation.updStatus f := by
  by_cases h : s.switches = true
  · have hu : (s.updStatus f).switches = true := h
    rw [State.switchPermutation_on h, State.switchPermutation_on hu]
    exact s.permuted_updStatus f _ _
  · have hu : ¬(s.updStatus f).switches = true := h
    rw [State.switchPermutation_off h, State.switchPermutation_off hu]

/-! ## The whole -/

/-- SEQ as steps 1 and 2 of the resolver leave it. -/
def State.resolvedSeq (s : State) : Seq := s.seq.resolveVersions s.text s.ctrl.codecTag

/-- The state after steps 1 to 3 of the resolver. -/
def State.flagged (s : State) : State :=
  (s.updSeq fun _ => s.resolvedSeq).updCtrl fun c =>
    { c with quirk := quirkWord s.resolvedSeq s.ctrl.codecTag (packedText s.text) }

theorem State.resolveQuirks_eq (s : State) : s.resolveQuirks = s.flagged.switchPermutation := rfl

/-- The state that QUIRK_RESOLVE leaves. -/
def State.resolved (s : State) : State := s.flagged.switchPermutation.post .ok

theorem execQuirkResolve_eq (s : State) : exec .quirkResolve s = .next s.resolved := rfl

/-- What the resolver leaves of the state: STATUS.RESULT, the versions and matrices, CTRL.QUIRK and the permutation. -/
theorem State.resolved_eq (s : State) : s.resolved = { s with
    status := { s.status with result := .ok }
    seq := { s.resolvedSeq with
      intraMatrix := s.resolved.seq.intraMatrix, interMatrix := s.resolved.seq.interMatrix
      chromaIntraMatrix := s.resolved.seq.chromaIntraMatrix, chromaInterMatrix := s.resolved.seq.chromaInterMatrix }
    ctrl := { s.ctrl with quirk := quirkWord s.resolvedSeq s.ctrl.codecTag (packedText s.text) }
    cfg := { s.cfg with idctPerm := s.resolved.cfg.idctPerm } } :=
  congrArg (fun u : State => u.post .ok) s.flagged.switchPermutation_sameButMatrices

theorem State.flagged_updStatus (s : State) (f : Status → Status) :
    (s.updStatus f).flagged = s.flagged.updStatus f := rfl

/-- The status registers decide nothing in the resolver. -/
theorem State.resolved_updStatus (s : State) (f : Status → Status) :
    (s.updStatus f).resolved = (s.flagged.switchPermutation.updStatus f).post .ok := by
  rw [State.resolved, State.flagged_updStatus, State.switchPermutation_updStatus]

theorem runAt_resolveQuirksP (s : State) : runAt .command resolveQuirksP s = (s.resolved.post .ok).setFsm .done := rfl

theorem execCmdResolveQuirks_idle (hf : s.fsm = .idle) : exec .cmdResolveQuirks s = .next { s.resolved with
    fsm := .done, status := { s.status with result := .ok, tag := .none, errpos := 0 } } := by
  have hst : s.flagged.switchPermutation.status = s.status :=
    s.flagged.switchPermutation_sameButMatrices.status_eq
  have hrun : exec .cmdResolveQuirks s = .next ((s.accept.resolved.post .ok).setFsm .done) :=
    (runCommand_idle hf).trans (congrArg Host.Outcome.next (runAt_resolveQuirksP s.accept))
  rw [hrun, State.accept, State.resolved_updStatus, State.resolved]
  generalize s.flagged.switchPermutation = u at hst
  rw [← hst]
  rfl

end Sys2Proof.Machine
end

section
/-! QUIRK_RESOLVE and RESOLVE_QUIRKS (46_quirks.md; 30_encoding.md R130): each signature row, the flags and the switch
in the words of the obligation, and the obligation. -/

namespace Sys2Proof.Machine

variable {s : State} {q : Seq} {a b c d run rest text : List Byte} {v w x y z : Int}

/-! ## The seven rows -/

/-- What the signatures of a text leave: the DivX version and build, the XviD build, the libavcodec build, and whether
the packed mark stands. -/
def Seq.Signs (q : Seq) (text : List Byte) (dv db xb lb : BitVec 32) (packed : Bool) : Prop :=
  (q.takeSignatures text).divxVersion = dv ∧ (q.takeSignatures text).divxBuild = db
    ∧ (q.takeSignatures text).xvidBuild = xb ∧ (q.takeSignatures text).lavcBuild = lb ∧ packedText text = packed

theorem Seq.signs_of {r : Seq} {p : Bool} (h : q.takeSignatures text = r ∧ packedText text = p) :
    q.Signs text r.divxVersion r.divxBuild r.xvidBuild r.lavcBuild p := by
  obtain ⟨hr, hp⟩ := h
  subst hr
  exact ⟨rfl, rfl, rfl, rfl, hp⟩

/-- A text that begins with no row's letter. -/
theorem Seq.signs_none (h : text.head? ∉ [some 0x44, some 0x46, some 0x4C, some 0x58, some 0x66]) :
    q.Signs text q.divxVersion q.divxBuild q.xvidBuild q.lavcBuild false := by
  have hne {e : Option Byte} (he : e ∈ [some 0x44, some 0x46, some 0x4C, some 0x58, some 0x66]) : text.head? ≠ e :=
    fun k => h (k ▸ he)
  exact q.signs_of (q.takeSignatures_none (divxSignature_none (hne (by decide)))
    (lavcSignature_none (hne (by decide)) (hne (by decide)) (hne (by decide))) (xvidSignature_none (hne (by decide))))

/-- A text that begins with `D` has no signature but a DivX one. -/
theorem Seq.signs_divx (hh : text.head? = some 0x44) (hd : divxSignature text = some (v, w, rest.head? == some 0x70))
    (hv : Writes a v) (hw : Writes b w) : q.Signs text (BitVec.ofInt 32 v) (BitVec.ofInt 32 w) q.xvidBuild q.lavcBuild
      (decide (rest.head? = some 0x70)) := by
  have hne {e : Byte} (he : e ≠ 0x44) : text.head? ≠ some e := fun k => he (Option.some.inj (k.symm.trans hh))
  have hp : decide (rest.head? = some 0x70) = (rest.head? == some 0x70) := by
    rw [Bool.eq_iff_iff, decide_eq_true_iff, beq_iff_eq]
  rw [← hv.toS, ← hw.toS, hp]
  exact q.signs_of (q.takeSignatures_divx hd
    (lavcSignature_none (hne (by decide)) (hne (by decide)) (hne (by decide))) (xvidSignature_none (hne (by decide))))

/-- Rows 1 and 2. -/
theorem Seq.signs_rows12 (hv : Writes a v) (hw : Writes b w) (hr : Stops rest)
    (h : text = textDivX ++ a ++ textBuild ++ b ++ rest ∨ text = textDivX ++ a ++ textB ++ b ++ rest) :
    q.Signs text (BitVec.ofInt 32 v) (BitVec.ofInt 32 w) q.xvidBuild q.lavcBuild (decide (rest.head? = some 0x70)) := by
  simp only [List.append_assoc] at h
  obtain rfl | rfl := h
  · exact Seq.signs_divx rfl (divxSignature_build hv hw hr) hv hw
  · exact Seq.signs_divx rfl (divxSignature_b hv hw hr) hv hw

/-- A text that begins with `F`, `L` or `f` has no signature but a libavcodec one. -/
theorem Seq.signs_lavc {e : Byte} (hh : text.head? = some e) (hD : e ≠ 0x44) (hX : e ≠ 0x58)
    (hl : lavcSignature text = some v) (hv : toS 32 v = BitVec.ofInt 32 v) :
    q.Signs text q.divxVersion q.divxBuild q.xvidBuild (BitVec.ofInt 32 v) false := by
  have hne {c : Byte} (hc : e ≠ c) : text.head? ≠ some c := fun k => hc (Option.some.inj (hh.symm.trans k))
  rw [← hv]
  exact q.signs_of (q.takeSignatures_lavc (divxSignature_none (hne hD)) hl (xvidSignature_none (hne hX)))

/-- Row 3. -/
theorem Seq.signs_row3 (hrun : (0x62 : Byte) ∉ run) (hv : Writes a v) (hr : Stops rest)
    (h : text = textFFmpe ++ run ++ textB ++ a ++ rest) :
    q.Signs text q.divxVersion q.divxBuild q.xvidBuild (BitVec.ofInt 32 v) false := by
  simp only [List.append_assoc] at h
  subst h
  refine Seq.signs_lavc (e := 0x46) rfl (by decide) (by decide) ?_ hv.toS
  rw [lavcSignature, lavcRow3_writes hrun hv hr]
  rfl

/-- The bytes of `g v`, which row 4 has after those of row 3. -/
def textGV : List Byte := [0x67, 0x20, 0x76]

/-- The bytes of ` / li`: what stands before the first `b` of row 4's fixed text. -/
def textSlashLi : List Byte := [0x20, 0x2F, 0x20, 0x6C, 0x69]

/-- A text of row 4 is none of row 3: its first `b` is that of `libavcodec`. -/
theorem lavcRow3_ofRow4 (hx : Writes a x) (hy : Writes b y) (hz : Writes c z) (t : List Byte) :
    lavcRow3 (textFFmpe ++ (textGV ++ (a ++ (textDot ++ (b ++ (textDot ++ (c ++ (textLibavcodec ++ t)))))))) = none := by
  have hrun : (0x62 : Byte) ∉ textGV ++ (a ++ (textDot ++ (b ++ (textDot ++ (c ++ textSlashLi))))) := by
    have hGV : (0x62 : Byte) ∉ textGV := by decide
    have hdot : (0x62 : Byte) ∉ textDot := by decide
    have hli : (0x62 : Byte) ∉ textSlashLi := by decide
    simp only [List.mem_append, hGV, hdot, hli, hx.no_b, hy.no_b, hz.no_b, or_self, not_false_eq_true]
  have hrow := lavcRow3_letter (rest := textLibavcodec.drop 7 ++ t) hrun
  simp only [List.append_assoc] at hrow
  exact hrow

/-- Row 4. -/
theorem Seq.signs_row4 (hx : Writes a x) (hy : Writes b y) (hz : Writes c z) (hv : Writes d v) (hr : Stops rest)
    (h : text = textFFmpe ++ textGV ++ a ++ textDot ++ b ++ textDot ++ c ++ textLibavcodec ++ d ++ rest) :
    q.Signs text q.divxVersion q.divxBuild q.xvidBuild (BitVec.ofInt 32 v) false := by
  simp only [List.append_assoc] at h
  refine Seq.signs_lavc (e := 0x46) (by rw [h]; rfl) (by decide) (by decide) ?_ hv.toS
  have h3 : lavcRow3 text = none := h ▸ lavcRow3_ofRow4 hx hy hz (d ++ rest)
  have h4 : lavcRow4 text = some v := h ▸ lavcRow4_writes hx hy hz hv hr
  rw [lavcSignature, h3, h4]
  rfl

/-- Row 5: the three low bytes make a number of 24 bits. -/
theorem Seq.signs_row5 (hx : Writes a x) (hy : Writes b y) (hz : Writes c z) (hr : Stops rest)
    (h : text = textLavc ++ a ++ textDot ++ b ++ textDot ++ c ++ rest) :
    q.Signs text q.divxVersion q.divxBuild q.xvidBuild
      (BitVec.ofInt 32 (x % 256 * 65536 + y % 256 * 256 + z % 256)) false := by
  simp only [List.append_assoc] at h
  have hh : text.head? = some 0x4C := by rw [h]; rfl
  have hne : text.head? ≠ some 0x46 := by rw [hh]; decide
  refine Seq.signs_lavc hh (by decide) (by decide) ?_ (toS_ofInt (by norm_num; omega) (by norm_num; omega))
  have h5 : lavcRow5 text = some (x % 256 * 65536 + y % 256 * 256 + z % 256) := h ▸ lavcRow5_writes hx hy hz hr
  rw [lavcSignature, lavcRow3_none hne, lavcRow4_none hne, h5]
  rfl

/-- Row 6. -/
theorem Seq.signs_row6 (h : text = textFfmpeg) :
    q.Signs text q.divxVersion q.divxBuild q.xvidBuild (BitVec.ofInt 32 4600) false := by
  subst h
  exact Seq.signs_lavc (e := 0x66) rfl (by decide) (by decide) (by decide) (by decide)

/-- Row 7. -/
theorem Seq.signs_row7 (hv : Writes a v) (hr : Stops rest) (h : text = textXviD ++ a ++ rest) :
    q.Signs text q.divxVersion q.divxBuild (BitVec.ofInt 32 v) q.lavcBuild false := by
  rw [List.append_assoc] at h
  have hh : text.head? = some 0x58 := by rw [h]; rfl
  have hne {e : Byte} (he : e ≠ 0x58) : text.head? ≠ some e := fun k => he (Option.some.inj (k.symm.trans hh))
  rw [← hv.toS]
  exact q.signs_of (q.takeSignatures_xvid (divxSignature_none (hne (by decide)))
    (lavcSignature_none (hne (by decide)) (hne (by decide)) (hne (by decide))) (h ▸ xvidSignature_writes hv hr))

/-! ## The versions and the flags -/

theorem State.resolved_divxVersion (s : State) : s.resolved.seq.divxVersion = s.resolvedSeq.divxVersion :=
  (congrArg (fun u => u.seq.divxVersion) s.resolved_eq).trans rfl

theorem State.resolved_divxBuild (s : State) : s.resolved.seq.divxBuild = s.resolvedSeq.divxBuild :=
  (congrArg (fun u => u.seq.divxBuild) s.resolved_eq).trans rfl

theorem State.resolved_xvidBuild (s : State) : s.resolved.seq.xvidBuild = s.resolvedSeq.xvidBuild :=
  (congrArg (fun u => u.seq.xvidBuild) s.resolved_eq).trans rfl

theorem State.resolved_lavcBuild (s : State) : s.resolved.seq.lavcBuild = s.resolvedSeq.lavcBuild :=
  (congrArg (fun u => u.seq.lavcBuild) s.resolved_eq).trans rfl

theorem State.resolved_ctrlQuirk (s : State) :
    s.resolved.ctrl.quirk = quirkWord s.resolvedSeq s.ctrl.codecTag (packedText s.text) :=
  (congrArg (fun u => u.ctrl.quirk) s.resolved_eq).trans rfl

theorem State.resolved_quirk (s : State) (f : QuirkFlag) :
    s.resolved.quirk f = quirkSet s.resolvedSeq s.ctrl.codecTag (packedText s.text) f := by
  rw [State.quirk, State.resolved_ctrlQuirk, getLsbD_quirkWord]

theorem State.resolvedSeq_sameButVersions (s : State) : s.seq.sameButVersions s.resolvedSeq :=
  s.seq.resolveVersions_sameButVersions s.text s.ctrl.codecTag

/-! ## The frame and the switch -/

/-- The frame of QUIRK_RESOLVE. -/
theorem State.resolved_frame (s : State) : s.resolved = { s with
    status := { s.status with result := .ok }
    seq := { s.seq with
      divxVersion := s.resolved.seq.divxVersion, divxBuild := s.resolved.seq.divxBuild
      xvidBuild := s.resolved.seq.xvidBuild, lavcBuild := s.resolved.seq.lavcBuild
      intraMatrix := s.resolved.seq.intraMatrix, interMatrix := s.resolved.seq.interMatrix
      chromaIntraMatrix := s.resolved.seq.chromaIntraMatrix, chromaInterMatrix := s.resolved.seq.chromaInterMatrix }
    ctrl := { s.ctrl with quirk := s.resolved.ctrl.quirk }
    cfg := { s.cfg with idctPerm := s.resolved.cfg.idctPerm } } := by
  rw [State.resolved_divxVersion, State.resolved_divxBuild, State.resolved_xvidBuild, State.resolved_lavcBuild,
    State.resolved_ctrlQuirk]
  have hv := s.resolvedSeq_sameButVersions
  have hr := s.resolved_eq
  unfold Seq.sameButVersions at hv
  rw [hv] at hr
  exact hr

/-- The switch applies where the build left lies in the range of the configuration and the permutations differ. -/
theorem State.flagged_switches_iff (s : State) : s.flagged.switches = true ↔
    s.cfg.xvidIdctLo ≤ s.resolved.seq.xvidBuild.toInt ∧ s.resolved.seq.xvidBuild.toInt ≤ s.cfg.xvidIdctHi
      ∧ s.cfg.idctPerm ≠ s.cfg.xvidIdctPerm := by
  rw [State.resolved_xvidBuild]
  exact State.switches_iff

theorem State.resolved_on (h : s.flagged.switches = true) :
    s.resolved.seq = s.resolvedSeq.repermuted s.cfg.xvidIdctPerm s.cfg.idctPerm
      ∧ s.resolved.cfg.idctPerm = s.cfg.xvidIdctPerm := by
  rw [State.resolved, State.switchPermutation_on h]
  exact ⟨rfl, rfl⟩

theorem State.resolved_off (h : ¬s.flagged.switches = true) :
    s.resolved.seq = s.resolvedSeq ∧ s.resolved.cfg.idctPerm = s.cfg.idctPerm := by
  rw [State.resolved, State.switchPermutation_off h]
  exact ⟨rfl, rfl⟩

/-- The four matrices before the switch. -/
theorem Seq.sameButVersions.matrices_eq {r : Seq} (h : q.sameButVersions r) : r.intraMatrix = q.intraMatrix
    ∧ r.interMatrix = q.interMatrix ∧ r.chromaIntraMatrix = q.chromaIntraMatrix
    ∧ r.chromaInterMatrix = q.chromaInterMatrix := by
  unfold Seq.sameButVersions at h
  rw [h]
  exact ⟨rfl, rfl, rfl, rfl⟩

/-- Each entry of a matrix of 64 stands where the new permutation puts the place of the old one. -/
def Moved (new old : List Nat) (m m' : List Byte) : Prop :=
  m.length = 64 → ∀ j, j < 64 → m'.getD (permAt new j) 0 = m.getD (permAt old j) 0

theorem moved_repermute {new : List Nat} (h : isPerm64 new = true) (old : List Nat) (m : List Byte) :
    Moved new old m (repermute m new old) := fun hm _ hj => repermute_getD h hm hj

theorem Seq.moved_repermuted {new : List Nat} (h : isPerm64 new = true) (old : List Nat) (q : Seq) :
    Moved new old q.intraMatrix (q.repermuted new old).intraMatrix
      ∧ Moved new old q.interMatrix (q.repermuted new old).interMatrix
      ∧ Moved new old q.chromaIntraMatrix (q.repermuted new old).chromaIntraMatrix
      ∧ Moved new old q.chromaInterMatrix (q.repermuted new old).chromaInterMatrix := by
  simp only [Seq.repermuted]
  exact ⟨moved_repermute h old _, moved_repermute h old _, moved_repermute h old _, moved_repermute h old _⟩

theorem State.resolved_moved (h : s.flagged.switches = true) (hp : isPerm64 s.cfg.xvidIdctPerm = true) :
    Moved s.cfg.xvidIdctPerm s.cfg.idctPerm s.seq.intraMatrix s.resolved.seq.intraMatrix
      ∧ Moved s.cfg.xvidIdctPerm s.cfg.idctPerm s.seq.interMatrix s.resolved.seq.interMatrix
      ∧ Moved s.cfg.xvidIdctPerm s.cfg.idctPerm s.seq.chromaIntraMatrix s.resolved.seq.chromaIntraMatrix
      ∧ Moved s.cfg.xvidIdctPerm s.cfg.idctPerm s.seq.chromaInterMatrix s.resolved.seq.chromaInterMatrix := by
  obtain ⟨h1, h2, h3, h4⟩ := s.resolvedSeq_sameButVersions.matrices_eq
  rw [(State.resolved_on h).1, ← h1, ← h2, ← h3, ← h4]
  exact s.resolvedSeq.moved_repermuted hp _

theorem State.resolved_kept (h : ¬s.flagged.switches = true) : s.resolved.cfg.idctPerm = s.cfg.idctPerm
    ∧ s.resolved.seq.intraMatrix = s.seq.intraMatrix ∧ s.resolved.seq.interMatrix = s.seq.interMatrix
    ∧ s.resolved.seq.chromaIntraMatrix = s.seq.chromaIntraMatrix
    ∧ s.resolved.seq.chromaInterMatrix = s.seq.chromaInterMatrix := by
  obtain ⟨hseq, hperm⟩ := State.resolved_off h
  rw [hseq]
  exact ⟨hperm, s.resolvedSeq_sameButVersions.matrices_eq⟩

/-- Settles O59: the text's row by its signature, the versions by the defaults and the cancellation, each flag by its
bit of the quirk word, the matrices by the permutation switch. -/
theorem resolverSetsTheFlags : Obligations.ResolverSetsTheFlags := by
  intro s
  refine ⟨s.resolved, _, _, _, _, _, execQuirkResolve_eq s, Seq.signs_none,
    fun _ _ _ _ _ hv hw hr h => Seq.signs_rows12 hv hw hr h, fun _ _ _ _ hrun hv hr h => Seq.signs_row3 hrun hv hr h,
    fun _ _ _ _ _ _ _ _ _ hx hy hz hv hr h => Seq.signs_row4 hx hy hz hv hr h,
    fun _ _ _ _ _ _ _ hx hy hz hr h => Seq.signs_row5 hx hy hz hr h, Seq.signs_row6,
    fun _ _ _ hv hr h => Seq.signs_row7 hv hr h, ?versions, s.resolved_frame, ?flags, ?switch,
    execCmdResolveQuirks_idle, fun hf => runCommand_busy hf⟩
  case versions =>
    rw [State.resolved_xvidBuild, State.resolved_lavcBuild, State.resolved_divxVersion, State.resolved_divxBuild]
    exact s.seq.resolveVersions_registers s.text s.ctrl.codecTag rfl rfl
  case flags =>
    simp only [State.resolved_quirk, State.resolved_divxVersion, State.resolved_divxBuild, State.resolved_xvidBuild,
      State.resolved_lavcBuild, State.resolved_ctrlQuirk, quirkSet, Bool.or_eq_true, decide_eq_true_eq, beq_iff_eq,
      or_assoc, true_and]
    exact ⟨Iff.rfl, Iff.rfl, Iff.rfl, rfl, quirkWord_masked _ _ _⟩
  case switch =>
    refine ⟨fun h => ?_, fun h => ?_⟩
    · have hon := s.flagged_switches_iff.2 h
      exact ⟨(State.resolved_on hon).2, State.resolved_moved hon⟩
    · exact State.resolved_kept (mt s.flagged_switches_iff.1 h)

end Sys2Proof.Machine
end

section
/-! SCAN (40_header_vol.md R141): the search for the first start code, and what it leads to. -/

namespace Sys2Proof.Machine

variable {s : State} {p : Nat}

/-- The instruction of a start code takes it at the aligned cursor and has its class's effect. -/
theorem exec_startCodeClass (l : List ScRange) (c : Byte) (s : State) :
    exec (startCodeClass l c) s = completes (runAt .headerRun (takeStartCode (classOf l c)) s) := by
  unfold startCodeClass
  cases classOf l c <;> rfl

/-- A cursor at a byte is aligned. -/
@[simp] theorem State.scanByte_atBit (s : State) (p : Nat) : (s.atBit (8 * p)).scanByte = p := by
  show (8 * p + 7) / 8 * 8 / 8 = p
  omega

/-- The first place of the pattern is what the search finds. -/
theorem State.findStartCode_first (hin : p + 4 ≤ s.len.toNat) (hp : s.prefixAt p = true) :
    ∀ n q, q ≤ p → p < q + n → (∀ r, q ≤ r → r < p → s.prefixAt r = false) → s.findStartCode n q = some p := by
  intro n
  induction n with
  | zero => intro q hq hn _; omega
  | succ n ih =>
    intro q hq hn hfirst
    rw [State.findStartCode, if_neg (by omega)]
    obtain rfl | hlt := hq.eq_or_lt
    · rw [if_pos hp]
    · rw [if_neg (by simp [hfirst q le_rfl hlt])]
      exact ih (q + 1) hlt (by omega) fun r hr => hfirst r (by omega)

/-- Without the pattern the search finds nothing. -/
theorem State.findStartCode_none :
    ∀ n q, (∀ r, q ≤ r → r + 4 ≤ s.len.toNat → s.prefixAt r = false) → s.findStartCode n q = none := by
  intro n
  induction n with
  | zero => exact fun _ _ => rfl
  | succ n ih =>
    intro q hnone
    rw [State.findStartCode]
    split
    · rfl
    · next hin =>
      rw [if_neg (by simp [hnone q le_rfl (by omega)])]
      exact ih (q + 1) fun r hr => hnone r (by omega)

/-- A start code that is found is consumed, and has the effect of its class. -/
theorem scanP_found (hl : s.lenFits = true) (hin : p + 4 ≤ s.len.toNat)
    (hf : s.findStartCode (s.len.toNat - s.scanByte) s.scanByte = some p) :
    scanP s = takeStartCode (classOf s.cfg.scClass (s.byteAt (p + 3))) (s.atBit (8 * p)) := by
  have hend : 8 * (p + 4) ≤ s.endPos := Nat.mul_le_mul_left 8 hin
  have htake := takeStartCode_inside (s := s.atBit (8 * p)) (k := classOf s.cfg.scClass (s.byteAt (p + 3))) hl
    (by rw [State.scanByte_atBit]; exact hin)
  rw [htake, State.afterStartCode, State.scanByte_atBit, State.atBit_atBit, scanP, Parse.getState_bind, hf,
    ← State.setPos_eq_atBit hl hend]
  rfl

/-- Where no start code is left the cursor goes to the end, and the data ends. -/
theorem scanP_none (hl : s.lenFits = true) (hf : s.findStartCode (s.len.toNat - s.scanByte) s.scanByte = none) :
    scanP s = .error ⟨.endOfData, .scan⟩ (s.atBit s.endPos) := by
  rw [scanP, Parse.getState_bind, hf, ← State.setPos_eq_atBit hl le_rfl]
  rfl

/-- Settles O13: the search stops at the first pattern, and at the end without one. -/
theorem scanFindsTheFirstStartCode : Obligations.ScanFindsTheFirstStartCode := by
  unfold Obligations.ScanFindsTheFirstStartCode
  refine fun s hl => ⟨fun p hge hin hp hfirst => ?_, fun hnone => ?_⟩
  · have hf := s.findStartCode_first hin hp (s.len.toNat - s.scanByte) s.scanByte hge (by omega) hfirst
    refine ⟨?_, _, rfl⟩
    rw [exec_startCodeClass, runAt, ← scanP_found hl hin hf]
    rfl
  · have hf := s.findStartCode_none (s.len.toNat - s.scanByte) s.scanByte hnone
    have herr : (s.atBit s.endPos).takeRaise .headerRun ⟨.endOfData, .scan⟩ = { s.atBit s.endPos with
        fsm := .done
        status := { s.status with result := .endOfData, tag := .scan, errpos := BitVec.ofNat 32 s.endPos } } := by
      rw [← toU_nat (State.lenFits_iff.1 hl).2]
      rfl
    rw [← herr, ← runAt_error (scanP_none hl hf)]
    rfl

end Sys2Proof.Machine
end

section
/-! USERDATA (40_header_vol.md R174): the length of the text, its bytes, and the buffer. -/

namespace Sys2Proof.Machine

variable {s : State} {k n p : Nat}

/-- The text ends at the first pattern, or at the end of BS. -/
theorem State.textLength_eq (hend : s.prefixAt (p + n) = true ∨ p + n = s.len.toNat) :
    ∀ m, p + m = s.len.toNat → n ≤ m → (∀ q, p ≤ q → q < p + n → s.prefixAt q = false) → s.textLength m p = n := by
  induction n generalizing p with
  | zero =>
    intro m hm _ _
    cases m with
    | zero => rfl
    | succ m =>
      obtain hpre | hlen := hend
      · exact if_pos hpre
      · omega
  | succ n ih =>
    intro m hm hle hno
    obtain ⟨m, rfl⟩ : ∃ j, m = j + 1 := ⟨m - 1, by omega⟩
    rw [← Nat.add_assoc, Nat.add_right_comm] at hend
    rw [State.textLength, if_neg (by simp [hno p le_rfl (by omega)]),
      ih (p := p + 1) hend m (by omega) (by omega) fun q hq hlt => hno q (by omega) (by omega)]

theorem State.bytesFrom_getD (h : k < n) : (s.bytesFrom p n).getD k 0 = s.byteAt (p + k) := by
  induction n generalizing p k with
  | zero => omega
  | succ n ih =>
    cases k with
    | zero => rfl
    | succ k =>
      rw [State.bytesFrom, List.getD_cons_succ, ih (Nat.lt_of_succ_lt_succ h), Nat.add_right_comm, Nat.add_assoc]

/-- The buffer after a text and its terminator. -/
theorem read_userText {m : Cells Byte} (hm : Cells.wf 0 m = true) (text : List Byte) :
    (∀ k, k < text.length → Cells.read 0 (Cells.writeList 0 0 (text ++ [0]) m) k = text.getD k 0)
      ∧ Cells.read 0 (Cells.writeList 0 0 (text ++ [0]) m) text.length = 0
      ∧ ∀ k, text.length < k → Cells.read 0 (Cells.writeList 0 0 (text ++ [0]) m) k = Cells.read 0 m k := by
  simp only [Cells.read_writeList _ hm, List.length_append, List.length_singleton, Nat.sub_zero, Nat.zero_le, true_and]
  refine ⟨fun k hk => ?_, ?_, fun k hk => if_neg (by omega)⟩
  · rw [if_pos (by omega), List.getD_append _ _ _ _ hk]
  · rw [if_pos (by omega), List.getD_append_right _ _ _ _ le_rfl, Nat.sub_self]
    rfl

/-- Settles O17: the text runs to the first pattern, and the buffer is written with it and its terminator. -/
theorem userdataCopiesTheText : Obligations.UserdataCopiesTheText := by
  unfold Obligations.UserdataCopiesTheText
  intro s n hl hwf hin hno hend
  have hlen : s.textLength (s.len.toNat - s.scanByte) s.scanByte = n :=
    State.textLength_eq hend _ (by omega) (by omega) hno
  let text := s.bytesFrom s.scanByte (min n 255)
  have htext : text.length = min n 255 := s.bytesFrom_length _ _
  have htake : s.takeUserData = (s.putUserData text).atBit (8 * (s.scanByte + n)) := by
    rw [← State.setPos_eq_atBit (s := s.putUserData text) hl (Nat.mul_le_mul_left 8 hin)]
    show (s.putUserData (s.bytesFrom s.scanByte
      (min (s.textLength (s.len.toNat - s.scanByte) s.scanByte) 255))).setPos (8 * (s.scanByte
        + s.textLength (s.len.toNat - s.scanByte) s.scanByte)) = _
    rw [hlen]
  have hcount : toU 9 ((text.length : Nat) : Int) = BitVec.ofNat 9 (min n 255) := by
    rw [toU_nat (by omega), htext]
  obtain ⟨hbytes, hzero, hrest⟩ := read_userText hwf text
  rw [htext] at hbytes hzero hrest
  refine ⟨s.takeUserData.scanOn, rfl, ?_, fun k hk => ?_, ?_, fun k hk => ?_⟩
  · rw [htake, ← hcount]
    rfl
  · rw [htake]
    exact (hbytes k hk).trans (State.bytesFrom_getD hk)
  · rw [htake]
    exact hzero
  · rw [htake]
    exact hrest k hk

end Sys2Proof.Machine
end

section
/-! SEQ.valid after a VOL header (40_header_vol.md R168, R170; 60_exceptions.md R385). -/

namespace Sys2Proof.Machine

variable {α : Type} {P : State → Prop} {Q : Raise → Prop} {s t u : State} {r : Raise}

/-! ## Taking a failure in the header run -/

theorem State.takeRaise_headerRun_invalid (h : r.code = .invalidData) :
    s.takeRaise .headerRun r = (s.recordRaise r).setFsm .scan := by
  rw [State.takeRaise, h]
  rfl

theorem State.takeRaise_headerRun_fatal (h : r.code.isFatal = true) : s.takeRaise .headerRun r
    = ((s.recordRaise r).updStatus fun t => { t with picValid := false }).setFsm .error := by
  rw [← State.failFatally_headerRun (s.recordRaise r) r.tag]
  obtain ⟨c, tg⟩ := r
  cases c
  case refusedStudio | fatalTruncated | fatalExhausted | fatalRange | fatalGmc | fatalNoVol | fatalNoResync => rfl
  all_goals cases h

/-! ## The header is not valid before its end -/

/-- SEQ.valid is 0. -/
def State.NotValid (s : State) : Prop := s.seq.valid = false

/-- What a parse keeps and what it raises, shown apart. -/
theorem Keeps.and_raises {m : Parse α} (h : KeepsAny P m) (h' : Raises Q m) : Keeps P Q m := by
  intro s hs
  cases hm : m s with
  | ok a t => exact h.ok hs hm
  | error r t => exact ⟨(h.error hs hm).1, (h'.error trivial hm).2⟩

theorem streamBlind_notValid : StreamBlind State.NotValid where
  pos _ _ h := h
  status _ _ h := h
  slice _ _ h := h
  pic _ _ h := h

namespace NotValid

/-- A rewrite of SEQ that leaves SEQ.valid alone. -/
theorem putSeq {f : Seq → Seq} (h : ∀ q, (f q).valid = q.valid) : KeepsAny State.NotValid (putSeq f) :=
  .update fun _ hs => (h _).trans hs

/-- No field of a header is SEQ.valid. -/
theorem takeSeq (f : SeqField) (v : Nat) : KeepsAny State.NotValid (takeSeq f v) := by
  cases f
  case timeResolution =>
    exact .bind (putSeq fun _ => rfl) fun _ => .getState_bind fun _ _ => .ite (fun _ => .raise trivial) fun _ =>
      putSeq fun _ => rfl
  case warpPoints =>
    exact .ite (fun _ => .bind (putSeq fun _ => rfl) fun _ => .raise trivial) fun _ => putSeq fun _ => rfl
  all_goals first | exact .pure _ | exact putSeq fun _ => rfl

theorem putMatrix (k : MatKind) (i : Nat) (v : Byte) (hs : s.NotValid) : (s.putMatrix k i v).NotValid := by
  cases k <;> exact hs

theorem fillMatrix (k : MatKind) (v : Byte) (i n : Nat) (hs : s.NotValid) : (s.fillMatrix k v i n).NotValid := by
  cases k <;> exact hs

theorem matrixEntries (k : MatKind) (n : Nat) : ∀ i last, KeepsAny State.NotValid (matrixEntries k n i last) := by
  induction n with
  | zero => exact fun _ _ => .pure _
  | succ n ih =>
    intro i last
    refine .getState_bind fun _ _ => .ite (fun _ => .raise trivial) fun _ =>
      .bind (streamBlind_notValid.getBits trivial) fun v => .ite (fun _ => ?_) fun _ => ?_
    · exact .update fun _ => fillMatrix k last i (n + 1)
    · exact .bind (.update fun _ => putMatrix k i _) fun _ => ih _ _

theorem setSize (a b : Nat) (hs : s.NotValid) : (s.setSize a b).NotValid := by
  unfold State.setSize
  split <;> exact hs

theorem actSeq (a : SeqAct) (env : Env SeqField) : KeepsAny State.NotValid (actSeq a env) := by
  cases a with
  | loadMatrix k => exact matrixEntries k 64 0 0
  | setSize => exact .update fun _ => setSize _ _
  | clipPrecision => exact putSeq fun _ => rfl
  | refuseShape | refuseChroma => exact .raise trivial
  | detectStudio | clearFieldPeriod | defaultMatrices | scalRewind => exact .update fun _ hs => hs

theorem seqRows (t : Tag) (l : List (Row SeqField SeqAct)) : KeepsAny State.NotValid (runLayout (seqReader t) l) :=
  streamBlind_notValid.runLayout (fun _ => trivial) (fun _ => trivial) takeSeq actSeq l

theorem addTrash (k : Trash) (n : Nat) (hs : s.NotValid) : (s.addTrash k n).NotValid := by
  cases k <;> exact hs

theorem cplxEstP : KeepsAny State.NotValid cplxEstP := by
  refine .bind (.update fun _ hs => hs) fun _ => .getState_bind fun _ _ =>
    streamBlind_notValid.runLayout (fun _ => trivial) (fun _ => trivial) (fun f v => ?_) (fun a _ => ?_) _
  · cases f
    case counter => exact .update fun _ => addTrash _ _
    all_goals exact .pure _
  · cases a
    exact .update fun _ hs => hs

theorem volPart (p : VolPart) : KeepsAny State.NotValid (volPart p) := by
  cases p with
  | rows l => exact seqRows _ l
  | complexity => exact .getState_bind fun _ _ => .whenP fun _ => cplxEstP

end NotValid

/-! ## The end of a VOL header -/

/-- What a VOL header leaves: valid, OK and in SCAN; or not valid, and a failure taken. -/
def VolEnds (t : State) : Prop :=
  (t.seq.valid = true ∧ t.fsm = .scan ∧ t.status.result = .ok)
    ∨ (t.seq.valid = false ∧ t.fsm = .scan ∧ t.status.result = .invalidData)
    ∨ (t.seq.valid = false ∧ t.fsm = .error ∧ t.status.result.isFatal = true ∧ t.status.picValid = false)

/-- SEQ.valid is cleared, the body fails or not, and SEQ.valid is set at its end. -/
theorem volEnds_runAt {m : State → Parse Unit} (hk : ∀ s, Keeps State.NotValid Raise.IsFailure (m s)) (s : State) :
    VolEnds (runAt .headerRun (putSeq (fun q => { q with valid := false }) >>= fun _ => getState >>= fun u =>
      m u >>= fun _ => putSeq (fun q => { q with valid := true }) >>= fun _ => finishOk .scan) s) := by
  let start := s.updSeq fun q => { q with valid := false }
  show VolEnds (runAt .headerRun (m start >>= fun _ => _) start)
  cases hm : m start start with
  | ok a t =>
    rw [runAt, Parse.bind_ok hm]
    exact .inl ⟨rfl, rfl, rfl⟩
  | error r t =>
    obtain ⟨hv, hr⟩ := (hk start).error (rfl : start.NotValid) hm
    rw [runAt_error (Parse.bind_error hm)]
    obtain hi | hf := hr
    · rw [State.takeRaise_headerRun_invalid hi]
      exact .inr (.inl ⟨hv, rfl, hi⟩)
    · rw [State.takeRaise_headerRun_fatal hf]
      exact .inr (.inr ⟨hv, rfl, hf, rfl⟩)

theorem VolEnds.valid_iff (h : VolEnds t) : (t.seq.valid = true ↔ t.fsm = .scan ∧ t.status.result = .ok)
    ∧ (t.fsm = .error → t.status.result.isFatal = true ∧ t.status.picValid = false) := by
  obtain ⟨hv, hf, hr⟩ | ⟨hv, hf, hr⟩ | ⟨hv, hf, hr⟩ := h <;> simp [hv, hf, hr]

/-- Settles O19: nothing between the two writes of SEQ.valid writes it, and whatever fails there is no OK. -/
theorem volIsValidOnlyAfterOk : Obligations.VolIsValidOnlyAfterOk := by
  unfold Obligations.VolIsValidOnlyAfterOk
  intro i s t hi e
  refine VolEnds.valid_iff ?_
  obtain rfl | rfl := hi
  · obtain rfl : t = runAt .headerRun volP s := next_of_completes e
    exact volEnds_runAt (fun _ => .and_raises (.forEach NotValid.volPart _) (.forEach FailsOnly.volPart _)) s
  · obtain rfl : t = runAt .headerRun volStudioP s := next_of_completes e
    exact volEnds_runAt (fun _ => .and_raises (NotValid.seqRows _ _) (FailsOnly.seqRows _ _)) s

end Sys2Proof.Machine
end

section
/-! LOAD_QMATRIX (40_header_vol.md R160): a run of values, and what ends it. -/

namespace Sys2Proof.Machine

variable {s u : State} {p n : Nat} {kind : MatKind}

/-- The two tables of a kind rewritten by `f`. -/
def Seq.mapMatrices (q : Seq) (kind : MatKind) (f : List Byte → List Byte) : Seq :=
  match kind with
  | .intra => { q with intraMatrix := f q.intraMatrix, chromaIntraMatrix := f q.chromaIntraMatrix }
  | .inter => { q with interMatrix := f q.interMatrix, chromaInterMatrix := f q.chromaInterMatrix }

theorem Seq.mapMatrices_mapMatrices (q : Seq) (f g : List Byte → List Byte) :
    (q.mapMatrices kind f).mapMatrices kind g = q.mapMatrices kind fun m => g (f m) := by
  cases kind <;> rfl

theorem Seq.mapMatrices_id (q : Seq) : q.mapMatrices kind (fun m => m) = q := by
  cases kind <;> rfl

theorem State.putMatrix_eq (s : State) (kind : MatKind) (i : Nat) (v : Byte) : s.putMatrix kind i v
    = s.updSeq fun q => q.mapMatrices kind (putScan s.cfg.idctPerm s.cfg.zigzag i v) := by
  cases kind <;> rfl

theorem State.fillMatrix_eq (s : State) (kind : MatKind) (v : Byte) (i n : Nat) : s.fillMatrix kind v i n
    = s.updSeq fun q => q.mapMatrices kind (fillScan s.cfg.idctPerm s.cfg.zigzag v i n) := by
  cases kind <;> rfl

theorem ReadsAt.updSeq (h : ReadsAt s p u) (f : Seq → Seq) : ReadsAt s p (u.updSeq f) := ⟨h.bs, h.len, h.cfg, h.pos⟩

/-- An entry whose byte stands whole inside BS. -/
theorem ReadsAt.matrixEntries_succ (h : ReadsAt s p u) (hl : s.lenFits = true) {v : Nat} (hv : s.bitsAre p 8 v = true)
    (i : Nat) (last : Byte) : matrixEntries kind (n + 1) i last u
      = (if v = 0 then update (fun s => s.fillMatrix kind last i (n + 1))
        else do
          update (fun s => s.putMatrix kind i (BitVec.ofNat 8 v))
          matrixEntries kind n (i + 1) (BitVec.ofNat 8 v) : Parse Unit) (u.atBit (p + 8)) := by
  obtain ⟨hin, rfl⟩ := State.bitsAre_iff.1 hv
  have hpos : u.pos = p := h.pos
  have hleft : ¬u.left < 8 := by
    rw [State.left, hpos, h.endPos]
    omega
  rw [matrixEntries, Parse.getState_bind, if_neg hleft, Parse.bind_ok (h.getBits hl hin)]

/-- A run of nonzero bytes goes to the scan positions from `i` up. -/
theorem ReadsAt.matrixEntries_values (hl : s.lenFits = true) (vs : List Byte) :
    ∀ {p u} (i : Nat) (last : Byte), ReadsAt s p u →
      (∀ k, k < vs.length → s.bitsAre (p + 8 * k) 8 (vs.getD k 0).toNat = true ∧ vs.getD k 0 ≠ 0) →
      matrixEntries kind (vs.length + n) i last u = matrixEntries kind n (i + vs.length) (vs.getLastD last)
        ((u.updSeq fun q => q.mapMatrices kind (putScanList s.cfg.idctPerm s.cfg.zigzag i vs)).atBit
          (p + 8 * vs.length)) := by
  induction vs with
  | nil =>
    intro p u i last h _
    have hsame : (u.updSeq fun q => q.mapMatrices kind (putScanList s.cfg.idctPerm s.cfg.zigzag i [])).atBit p = u := by
      rw [← h.pos]
      exact congrArg (fun q => { u with seq := q }) u.seq.mapMatrices_id
    rw [List.length_nil, Nat.zero_add, Nat.mul_zero, Nat.add_zero, Nat.add_zero, hsame]
    rfl
  | cons v vs ih =>
    intro p u i last h hv
    obtain ⟨hfirst, hne⟩ := hv 0 (Nat.succ_pos _)
    rw [List.getD_cons_zero] at hfirst hne
    have hne : ¬v.toNat = 0 := fun h0 => hne (BitVec.eq_of_toNat_eq h0)
    have hrest (k : Nat) (hk : k < vs.length) :
        s.bitsAre (p + 8 + 8 * k) 8 (vs.getD k 0).toNat = true ∧ vs.getD k 0 ≠ 0 := by
      have := hv (k + 1) (Nat.succ_lt_succ hk)
      rwa [Nat.mul_add, Nat.add_comm (8 * k), ← Nat.add_assoc] at this
    have hbyte : BitVec.ofNat 8 v.toNat = v := BitVec.ofNat_toNat _ _ |>.trans (BitVec.setWidth_eq v)
    rw [List.length_cons, Nat.add_right_comm, h.matrixEntries_succ hl hfirst, if_neg hne, hbyte, Parse.update_bind,
      State.putMatrix_eq, ih (i + 1) v ((h.atBit _).updSeq _) hrest, List.getLastD_cons, Nat.add_assoc i,
      Nat.add_comm 1, Nat.mul_add, Nat.add_assoc p, Nat.add_comm 8]
    have hcfg : (u.atBit (p + 8)).cfg = s.cfg := h.cfg
    rw [hcfg]
    cases kind <;> rfl

/-- Settles O21: the run goes to its positions; a zero byte fills the rest, the end of BS cuts it off. -/
theorem loadQmatrixReplicatesTheLast : Obligations.LoadQmatrixReplicatesTheLast := by
  unfold Obligations.LoadQmatrixReplicatesTheLast
  intro kind vs s hl hlen hin hvs stop load seq
  have hseq : seq = s.seq.mapMatrices kind := by
    cases kind <;> rfl
  let values := putScanList s.cfg.idctPerm s.cfg.zigzag 0 vs
  let run : State := (s.updSeq fun q => q.mapMatrices kind values).atBit stop
  have hrun : ReadsAt s stop run := ((ReadsAt.refl s).updSeq _).atBit _
  have hbits (k : Nat) (hk : k < vs.length) :
      s.bitsAre (s.pos + 8 * k) 8 (vs.getD k 0).toNat = true ∧ vs.getD k 0 ≠ 0 :=
    ⟨State.bitsAre_iff.2 ⟨by omega, (hvs k hk).1⟩, (hvs k hk).2⟩
  have hvalues : loadQmatrixP kind s = matrixEntries kind (64 - vs.length) vs.length (vs.getLastD 0) run := by
    have := ReadsAt.matrixEntries_values (kind := kind) (n := 64 - vs.length) hl vs 0 0 (ReadsAt.refl s) hbits
    rwa [Nat.add_sub_cancel' hlen, Nat.zero_add] at this
  refine ⟨fun hfull => ?_, fun hpart hzero => ?_, fun hpart hcut => ?_⟩
  · rw [hfull] at hvalues
    have hload : load = values := by
      funext m
      show fillScan _ _ _ _ (64 - vs.length) _ = _
      rw [hfull]
      rfl
    rw [hseq, hload]
    exact congrArg Host.Outcome.next (runAt_ok hvalues)
  · obtain ⟨n, hn⟩ : ∃ n, 64 - vs.length = n + 1 := ⟨63 - vs.length, by omega⟩
    have hfill : loadQmatrixP kind s
        = .ok () ((run.atBit (stop + 8)).fillMatrix kind (vs.getLastD 0) vs.length (n + 1)) := by
      rw [hvalues, hn, hrun.matrixEntries_succ hl hzero, if_pos rfl]
      rfl
    have hload : load = fun m => fillScan s.cfg.idctPerm s.cfg.zigzag (vs.getLastD 0) vs.length (n + 1) (values m) := by
      funext m
      show fillScan _ _ _ _ (64 - vs.length) _ = _
      rw [hn]
    rw [hseq, hload, ← Seq.mapMatrices_mapMatrices]
    refine (congrArg Host.Outcome.next (runAt_ok hfill)).trans ?_
    rw [State.fillMatrix_eq]
    rfl
  · obtain ⟨n, hn⟩ : ∃ n, 64 - vs.length = n + 1 := ⟨63 - vs.length, by omega⟩
    have hleft : run.left < 8 := by
      show (run.endPos : Int) - (stop : Nat) < 8
      rw [hrun.endPos]
      omega
    have hraise : loadQmatrixP kind s = .error (truncated .volQmatrix) run := by
      rw [hvalues, hn, matrixEntries, Parse.getState_bind, if_pos hleft]
      rfl
    refine ⟨_, congrArg Host.Outcome.next (runAt_error hraise), ?_⟩
    rw [State.takeRaise_headerRun_fatal rfl]
    exact ⟨rfl, rfl, rfl, (congrFun hseq _).symm⟩

end Sys2Proof.Machine
end

section
/-! The rows of a header that stand at a position of the bitstream (40_header_vol.md): what each kind of row does, and
how groups of rows lead from one state to the next. -/

namespace Sys2Proof.Machine

variable {φ ε : Type} {g : Reader φ ε} {s t u w : State} {env env₁ env₂ : Env φ} {l l₁ l₂ : List (Row φ ε)}
  {gs : List (Cond φ)} {c d : Cond φ} {i : Item φ ε} {f : φ} {n p v : Nat} {tg : Tag} {r : Raise}

/-! ## Items -/

/-- What stands there is what is read. -/
theorem State.bitsAre_memRead (h : p + n ≤ s.endPos) : s.bitsAre p n (s.memRead p n) = true :=
  State.bitsAre_iff.2 ⟨h, rfl⟩

/-- A bit that is not 1. -/
theorem State.bitsAre_bit_zero (h : ¬s.bitAt p = 1) (hin : p + 1 ≤ s.endPos) : s.bitsAre p 1 0 = true := by
  have := s.bitAt_lt_two (p := p)
  exact State.bitsAre_iff.2 ⟨hin, State.memRead_one.trans (by omega)⟩

/-- A bit that is 1. -/
theorem State.bitsAre_bit_one (h : s.bitAt p = 1) (hin : p + 1 ≤ s.endPos) : s.bitsAre p 1 1 = true :=
  State.bitsAre_iff.2 ⟨hin, State.memRead_one.trans h⟩

namespace ReadsAt

/-- A field whose bits are known is read, taken and remembered. -/
theorem field (h : ReadsAt s p u) (hl : s.lenFits = true) (hv : s.bitsAre p n v = true)
    (ht : g.take f v (u.atBit (p + n)) = .ok () t) :
    runItem g env (.field f (.bits n)) u = .ok (some { env with fields := (f, v) :: env.fields }) t := by
  obtain ⟨hin, rfl⟩ := State.bitsAre_iff.1 hv
  have hpos : u.pos = p := h.pos
  have hread : u.memRead u.pos (u.widthOf (.bits n)) = s.memRead p n := by rw [hpos, h.memRead, State.widthOf_bits]
  have hcursor : u.setPos (u.pos + u.widthOf (.bits n)) = u.atBit (p + n) := by
    rw [hpos, State.widthOf_bits, h.setPos hl hin]
  have hinside : u.pos + u.widthOf (.bits n) ≤ u.endPos := by
    rw [hpos, h.endPos]
    exact hin
  rw [← hread, ← hcursor] at ht
  rw [runItem_field hinside ht, hread]

/-- A field that BS cuts off. -/
theorem field_short (h : ReadsAt s p u) (hcut : s.endPos < p + n) :
    runItem g env (.field f (.bits n)) u = .error (g.ends g.family) u := by
  have hpos : u.pos = p := h.pos
  refine runItem_field_short ?_
  rw [hpos, h.endPos]
  exact hcut

/-- Bits passed over. -/
theorem skip (h : ReadsAt s p u) (hl : s.lenFits = true) (hin : p + n ≤ s.endPos) :
    runItem g env (.skip (.bits n)) u = .ok (some env) (u.atBit (p + n)) := by
  have hpos : u.pos = p := h.pos
  have hcursor : u.setPos (u.pos + u.widthOf (.bits n)) = u.atBit (p + n) := by
    rw [hpos, State.widthOf_bits, h.setPos hl hin]
  have hinside : u.pos + u.widthOf (.bits n) ≤ u.endPos := by
    rw [hpos, h.endPos]
    exact hin
  rw [← hcursor, runItem_skip hinside]

/-- A marker bit that is 1. -/
theorem mark (h : ReadsAt s p u) (hl : s.lenFits = true) (hm : s.bitsAre p 1 1 = true) :
    runItem g env (.marker tg) u = .ok (some env) (u.atBit (p + 1)) := Parse.bind_ok (h.marker hl hm)

/-- Enough bits are left. -/
theorem need (h : ReadsAt s p u) (hin : p + n ≤ s.endPos) : runItem g env (.need n) u = .ok (some env) u := by
  have hpos : u.pos = p := h.pos
  have hleft : ¬u.left < n := by
    rw [State.left, hpos, h.endPos]
    omega
  exact congrFun (if_neg hleft) u

end ReadsAt

/-- A value taken without a bit. -/
theorem runItem_put (h : g.take f v u = .ok () t) : runItem g env (.put f v) u = .ok (some env) t := Parse.bind_ok h

/-- An act. -/
theorem runItem_act {a : ε} (h : g.act a env u = .ok () t) : runItem g env (.act a) u = .ok (some env) t :=
  Parse.bind_ok h

/-- An act that raises. -/
theorem runItem_act_raises {a : ε} (h : g.act a env u = .error r t) : runItem g env (.act a) u = .error r t :=
  Parse.bind_error h

theorem runItem_log {k : LogFlag} : runItem g env (.log k) u = .ok (some env) (u.log k) := rfl

/-! ## Groups of rows -/

theorem under_append (c : Cond φ) (l l' : List (Row φ ε)) : under c (l ++ l') = under c l ++ under c l' :=
  List.map_append

variable [DecidableEq φ]

/-- The rows of `l` lead from `u`, with the fields of `env` read, to `t`, with those of `env'` read: whatever rows
stand behind them go on from there. -/
def Leads (g : Reader φ ε) (l : List (Row φ ε)) (env : Env φ) (u : State) (env' : Env φ) (t : State) : Prop :=
  ∀ rest, runRows g (l ++ rest) env u = runRows g rest env' t

namespace Leads

theorem nil : Leads g [] env u env u := fun _ => rfl

/-- A row that runs. -/
theorem cons (hg : gs.all (condHolds u env) = true) (hi : runItem g env i u = .ok (some env₁) t)
    (h : Leads g l env₁ t env₂ w) : Leads g (⟨gs, i⟩ :: l) env u env₂ w :=
  fun rest => (runRows_run (r := ⟨gs, i⟩) hg hi).trans (h rest)

theorem append (h : Leads g l₁ env u env₁ t) (h' : Leads g l₂ env₁ t env₂ w) : Leads g (l₁ ++ l₂) env u env₂ w := by
  intro rest
  rw [List.append_assoc, h, h']

/-- Rows that are all passed over. -/
theorem pass (h : ∀ r ∈ l, rowRuns u env r = false) : Leads g l env u env u := by
  intro rest
  induction l with
  | nil => rfl
  | cons r l ih =>
    rw [List.cons_append, runRows_skip (h r List.mem_cons_self)]
    exact ih fun r' hr => h r' (List.mem_cons_of_mem _ hr)

/-- Rows under a condition that fails. -/
theorem off (h : condHolds u env c = false) : Leads g (under c l) env u env u := by
  refine pass fun r hr => ?_
  obtain ⟨r', _, rfl⟩ := List.mem_map.1 hr
  rw [rowRuns, List.all_cons, h, Bool.false_and]

/-- Rows under two conditions, the inner one of which fails. -/
theorem off_inner (h : condHolds u env d = false) : Leads g (under c (under d l)) env u env u := by
  refine pass fun r hr => ?_
  obtain ⟨r', hr', rfl⟩ := List.mem_map.1 hr
  obtain ⟨r'', _, rfl⟩ := List.mem_map.1 hr'
  rw [rowRuns, List.all_cons, List.all_cons, h, Bool.false_and, Bool.and_false]

/-- Two groups under one condition. -/
theorem under_append (h : Leads g (under c l₁) env u env₁ t) (h' : Leads g (under c l₂) env₁ t env₂ w) :
    Leads g (under c (l₁ ++ l₂)) env u env₂ w := by
  rw [Machine.under_append]
  exact h.append h'

/-- A header whose rows lead to `t` ends in `t`. -/
theorem runRows_eq (h : Leads g l env u env₁ t) : runRows g l env u = .ok () t := by
  have := h []
  rwa [List.append_nil] at this

/-- A header that begins at the cursor, the same. -/
theorem runLayout_eq (h : Leads g l (.at u.pos) u env₁ t) : runLayout g l u = .ok () t := h.runRows_eq

/-- Rows that go on after the rows that led up to them. -/
theorem followedBy {rest : List (Row φ ε)} {x : EStateM.Result Raise State Unit} (h : Leads g l env u env₁ t)
    (h' : runRows g rest env₁ t = x) : runRows g (l ++ rest) env u = x := (h rest).trans h'

/-- A raise after rows that led up to it. -/
theorem raises {rest : List (Row φ ε)} (h : Leads g l env u env₁ t) (hg : gs.all (condHolds t env₁) = true)
    (hi : runItem g env₁ i t = .error r w) : runRows g (l ++ ⟨gs, i⟩ :: rest) env u = .error r w :=
  h.followedBy (runRows_raise hg hi)

end Leads

end Sys2Proof.Machine
end


section
/-! VOS and VO (40_header_vol.md R143, R144). -/

namespace Sys2Proof.Machine

variable {s t u : State} {a b p v q : Nat} {fs : List (SeqField × Nat)} {r : Raise} {m : Parse Unit}

/-! ## The end of a header operation -/

theorem runAt_header_ok (h : m s = .ok () t) : runAt .headerRun (m >>= fun _ => finishOk .scan) s = t.scanOn :=
  runAt_ok (Parse.bind_ok h)

theorem runAt_header_raises (h : m s = .error r t) :
    runAt .headerRun (m >>= fun _ => finishOk .scan) s = t.takeRaise .headerRun r :=
  runAt_error (Parse.bind_error h)

theorem execVos_ok (hg : s.cfg.layout = Config.layout) (h : runLayout (seqReader .vos) Config.vosRows s = .ok () t) :
    exec .vos s = .next t.scanOn := by
  rw [show Config.vosRows = s.cfg.layout.vos by rw [hg]; rfl] at h
  exact congrArg Host.Outcome.next (runAt_header_ok h)

theorem execVos_raises (hg : s.cfg.layout = Config.layout)
    (h : runLayout (seqReader .vos) Config.vosRows s = .error r t) :
    exec .vos s = .next (t.takeRaise .headerRun r) := by
  rw [show Config.vosRows = s.cfg.layout.vos by rw [hg]; rfl] at h
  exact congrArg Host.Outcome.next (runAt_header_raises h)

theorem execVo_ok (hg : s.cfg.layout = Config.layout) (h : runLayout (seqReader .vo) Config.voRows s = .ok () t) :
    exec .vo s = .next t.scanOn := by
  rw [show Config.voRows = s.cfg.layout.vo by rw [hg]; rfl] at h
  exact congrArg Host.Outcome.next (runAt_header_ok h)

/-! ## VOS -/

/-- The studio test over a profile `a` and a level `b`. -/
theorem State.detectStudio_eq (ha : a < 16) (hb : b < 16) (hp : s.seq.profile = BitVec.ofNat 4 a)
    (hv : s.seq.level = BitVec.ofNat 4 b) : s.detectStudio = s.updSeq fun q =>
      let level := if a = 0 ∧ b = 8 then 0 else b
      { q with
        level := BitVec.ofNat 4 level
        studioProfile := decide (a = s.cfg.studioProfileCode.toNat ∧ 1 ≤ level ∧ level ≤ 8) } := by
  have hprofile (c : BitVec 4) : s.seq.profile = c ↔ a = c.toNat := by
    rw [hp, ← BitVec.toNat_inj, BitVec.toNat_ofNat, Nat.mod_eq_of_lt ha]
  have hlevel : s.seq.level.toNat = b := by
    rw [hv, BitVec.toNat_ofNat, Nat.mod_eq_of_lt hb]
  have heq8 : s.seq.level = 8 ↔ b = 8 := by
    rw [← BitVec.toNat_inj, hlevel]
    rfl
  by_cases h : s.seq.profile = 0 ∧ s.seq.level = 8
  · have h' : a = 0 ∧ b = 8 := h.imp (hprofile 0).1 heq8.1
    simp only [State.detectStudio, if_pos h, if_pos h', hprofile s.cfg.studioProfileCode]
    rfl
  · have h' : ¬(a = 0 ∧ b = 8) := fun e => h (e.imp (hprofile 0).2 heq8.2)
    simp only [State.detectStudio, if_neg h, if_neg h', hprofile s.cfg.studioProfileCode, hlevel]
    rw [hv]

/-- The first field of VOS. -/
theorem leads_vosProfile (hl : s.lenFits = true) (hin : s.pos + 4 ≤ s.endPos) :
    Leads (seqReader .vos) (always [.field .profile (.bits 4)]) (.at s.pos) s
      ⟨[(.profile, s.memRead s.pos 4)], s.pos⟩
      ((s.updSeq fun q => { q with profile := BitVec.ofNat 4 (s.memRead s.pos 4) }).atBit (s.pos + 4)) := by
  rw [← toU_nat State.memRead_lt]
  exact .cons rfl ((ReadsAt.refl s).field hl (State.bitsAre_memRead hin) rfl) .nil

/-- The second field and the studio test. -/
theorem ReadsAt.leads_vosLevel (h : ReadsAt s p u) (hl : s.lenFits = true) (hin : p + 4 ≤ s.endPos)
    {env : Env SeqField} : ∃ env', Leads (seqReader .vos) (always [.field .level (.bits 4), .act .detectStudio]) env u
      env' ((u.updSeq fun q => { q with level := BitVec.ofNat 4 (s.memRead p 4) }).detectStudio.atBit (p + 4)) := by
  rw [← toU_nat State.memRead_lt]
  exact ⟨_, .cons rfl (h.field hl (State.bitsAre_memRead hin) rfl) (.cons rfl (runItem_act rfl) .nil)⟩

/-- Settles O14: the profile, then the level and the studio test, or the end of BS before either. -/
theorem vosTellsAStudioStream : Obligations.VosTellsAStudioStream := by
  unfold Obligations.VosTellsAStudioStream
  intro s hl hg
  have hat := ReadsAt.refl s
  refine ⟨?whole, fun hcut => ?_⟩
  case whole =>
    intro hin profile level
    obtain ⟨_, hlevel⟩ := ((hat.atBit (s.pos + 4)).updSeq fun q => { q with
      profile := BitVec.ofNat 4 (s.memRead s.pos 4) }).leads_vosLevel hl (by omega)
    have hrun := ((leads_vosProfile hl (by omega)).append hlevel).runLayout_eq
    rw [execVos_ok hg hrun, State.detectStudio_eq s.memRead_lt s.memRead_lt rfl rfl]
    rfl
  · by_cases hin : s.pos + 4 ≤ s.endPos
    · have hraise := (leads_vosProfile hl hin).raises (gs := []) (rest := always [.act .detectStudio]) rfl
        (((hat.updSeq _).atBit _).field_short (f := SeqField.level) (n := 4) (by omega))
      refine ⟨_, execVos_raises hg hraise, ?_⟩
      rw [State.takeRaise_headerRun_fatal rfl, if_pos hin]
      exact ⟨rfl, rfl, rfl, rfl⟩
    · have hraise := Leads.nil.raises (g := seqReader .vos) (gs := [])
        (rest := always [.field .level (.bits 4), .act .detectStudio]) (env := .at s.pos) rfl
        (hat.field_short (f := SeqField.profile) (n := 4) (by omega))
      refine ⟨_, execVos_raises hg hraise, ?_⟩
      rw [State.takeRaise_headerRun_fatal rfl, if_neg hin]
      exact ⟨rfl, rfl, rfl, rfl⟩

/-! ## VO -/

/-- SEQ after the object's identifier, where it is there. -/
def State.withObjectVersion (s : State) : State := s.updSeq fun q => { q with
  voVerIdVo := if s.bitAt s.pos = 1 then BitVec.ofNat 4 (s.memRead (s.pos + 1) 4) else q.voVerIdVo }

/-- The object's identifier, where it is there, and the object type. -/
theorem leads_voObject (hl : s.lenFits = true) :
    let a := s.pos + (if s.bitAt s.pos = 1 then 8 else 1)
    a + 4 ≤ s.endPos → ∃ fs, Leads (seqReader .vo) (always [.field .objectIdent (.bits 1)]
        ++ under (.read .objectIdent 1) (always [.field .voVerIdVo (.bits 4), .skip (.bits 3)])
        ++ always [.field .objectType (.bits 4)]) (.at s.pos) s ⟨(.objectType, s.memRead a 4) :: fs, s.pos⟩
      (s.withObjectVersion.atBit (a + 4)) := by
  have h := ReadsAt.refl s
  by_cases hid : s.bitAt s.pos = 1
  · simp only [State.withObjectVersion, hid, if_true]
    intro hin
    have h1 : s.bitsAre s.pos 1 1 = true := State.bitsAre_bit_one hid (by omega)
    have hver : s.bitsAre (s.pos + 1) 4 (s.memRead (s.pos + 1) 4) = true := State.bitsAre_memRead (by omega)
    have htype : s.bitsAre (s.pos + 8) 4 (s.memRead (s.pos + 8) 4) = true := State.bitsAre_memRead (by omega)
    rw [← toU_nat State.memRead_lt]
    exact ⟨_, .append (.append (.cons rfl (h.field hl h1 rfl) .nil)
      (.cons rfl ((h.atBit _).field hl hver rfl) (.cons rfl (((h.atBit _).updSeq _).skip hl (by omega)) .nil)))
      (.cons rfl ((((h.atBit _).updSeq _).atBit _).field hl htype rfl) .nil)⟩
  · simp only [State.withObjectVersion, hid, if_false]
    intro hin
    have h1 : s.bitsAre s.pos 1 0 = true := State.bitsAre_bit_zero hid (by omega)
    have htype : s.bitsAre (s.pos + 1) 4 (s.memRead (s.pos + 1) 4) = true := State.bitsAre_memRead (by omega)
    exact ⟨_, .append (.append (.cons rfl (h.field hl h1 rfl) .nil) (.off rfl))
      (.cons rfl ((h.atBit _).field hl htype rfl) .nil)⟩

/-- How many bits follow an object type of `v` at bit `p`. -/
def State.signalBits (s : State) (v p : Nat) : Nat :=
  if v = 1 ∨ v = 2 then (if s.bitAt p = 1 then (if s.bitAt (p + 5) = 1 then 30 else 6) else 1) else 0

/-- The object types of video carry a signal type. -/
def voVideo : Cond SeqField := .or (.read .objectType 1) (.read .objectType 2)

/-- The rows of VO after the object type. -/
def voSignalRows : List (Row SeqField SeqAct) :=
  under voVideo (always [.field .signalType (.bits 1)]
    ++ under (.read .signalType 1) (always [.skip (.bits 3), .skip (.bits 1), .field .colour (.bits 1)]
      ++ under (.read .colour 1) (always [.skip (.bits 24)])))

/-- A signal type, up to its colour flag. -/
theorem ReadsAt.leads_voColour (h : ReadsAt s p u) (hl : s.lenFits = true) (hv : v = 1 ∨ v = 2)
    (hs : s.bitsAre p 1 1 = true) (hc : s.bitsAre (p + 5) 1 b = true) :
    Leads (seqReader .vo) (under voVideo (always [.field .signalType (.bits 1)]) ++ under voVideo (under
        (.read .signalType 1) (always [.skip (.bits 3), .skip (.bits 1), .field .colour (.bits 1)])))
      ⟨(.objectType, v) :: fs, q⟩ u ⟨(.colour, b) :: (.signalType, 1) :: (.objectType, v) :: fs, q⟩
      (u.atBit (p + 6)) := by
  obtain ⟨hin, _⟩ := State.bitsAre_iff.1 hc
  refine .append (.cons ?_ (h.field hl hs rfl) .nil) (.cons ?_ ((h.atBit _).skip hl (by omega))
    (.cons ?_ (((h.atBit _).atBit _).skip hl (by omega))
      (.cons ?_ ((((h.atBit _).atBit _).atBit _).field hl hc rfl) .nil))) <;> simp [voVideo, Env.find, hv]

/-- The signal type, in each of its forms. -/
theorem ReadsAt.leads_voSignal (h : ReadsAt s p u) (hl : s.lenFits = true) (hin : p + s.signalBits v p ≤ s.endPos) :
    ∃ env', Leads (seqReader .vo) voSignalRows ⟨(.objectType, v) :: fs, q⟩ u env'
      (u.atBit (p + s.signalBits v p)) := by
  have hhere : u.atBit p = u := congrArg u.atBit h.pos.symm
  unfold State.signalBits at *
  by_cases hv : v = 1 ∨ v = 2
  · rw [if_pos hv] at *
    simp only [voSignalRows, under_append]
    by_cases hs : s.bitAt p = 1
    · rw [if_pos hs] at *
      rw [← List.append_assoc]
      by_cases hc : s.bitAt (p + 5) = 1
      · rw [if_pos hc] at *
        exact ⟨_, .append (h.leads_voColour hl hv (State.bitsAre_bit_one hs (by omega))
          (State.bitsAre_bit_one hc (by omega)))
          (.cons (by simp [voVideo, Env.find, hv]) ((h.atBit _).skip hl (by omega)) .nil)⟩
      · rw [if_neg hc] at *
        exact ⟨_, .append (h.leads_voColour hl hv (State.bitsAre_bit_one hs (by omega))
          (State.bitsAre_bit_zero hc (by omega))) (.pass (List.forall_mem_singleton.2 (by simp [Env.find])))⟩
    · rw [if_neg hs] at *
      exact ⟨_, .append (.cons (by simp [voVideo, Env.find, hv]) (h.field hl (State.bitsAre_bit_zero hs hin) rfl) .nil)
        (.append (.off_inner rfl) (.off_inner rfl))⟩
  · rw [if_neg hv, Nat.add_zero, hhere]
    exact ⟨_, .off (by simpa [voVideo, Env.find] using hv)⟩

/-- Settles O15: the identifier and the object type, then the signal type in its form. -/
theorem voConsumesItsFields : Obligations.VoConsumesItsFields := by
  unfold Obligations.VoConsumesItsFields
  intro s hl hg a video stop hin
  have hstop : stop = a + 4 + s.signalBits (s.memRead a 4) (a + 4) := rfl
  obtain ⟨fs, hobject⟩ := leads_voObject hl (by omega)
  have hat : ReadsAt s (a + 4) (s.withObjectVersion.atBit (a + 4)) := ((ReadsAt.refl s).updSeq _).atBit _
  obtain ⟨_, hsignal⟩ := hat.leads_voSignal hl (hstop ▸ hin)
  exact execVo_ok hg (hobject.append hsignal).runLayout_eq

end Sys2Proof.Machine
end

section
/-! CPLX_EST (40_header_vol.md R163, R164): disabled, its texture flags, its rewind, and an unknown method. -/

namespace Sys2Proof.Machine

variable {s t u : State} {a b p q m : Nat} {fs : List (CplxField × Nat)}

/-! ## Rows -/

/-- CPLX_EST up to its method. -/
def cplxMethodRows : List (Row CplxField CplxAct) :=
  always [.field .disable (.bits 1)] ++ under (.not (.read .disable 0)) (always [.leave])
    ++ always [.mark, .field .method (.bits 2)]

/-- What CPLX_EST does where its method is unknown. -/
def cplxUnknownRows : List (Row CplxField CplxAct) :=
  under (.not (.or (.read .method 0) (.read .method 1))) (always [.log .cplxMethod, .leave])

/-- The shape flags of CPLX_EST. -/
def cplxShapeRows : List (Row CplxField CplxAct) :=
  always [.field .shapeOff (.bits 1)]
    ++ under (.read .shapeOff 0) (always (List.replicate 6 (Config.counter .i 8)))

/-- The first texture flags of CPLX_EST. -/
def cplxTextureRows : List (Row CplxField CplxAct) :=
  always [.field .texture1Off (.bits 1)] ++ under (.read .texture1Off 0)
    (always [Config.counter .i 8, Config.counter .p 8, Config.counter .p 8, Config.counter .i 8])

/-- CPLX_EST after its first marker. -/
def cplxMotionRows : List (Row CplxField CplxAct) :=
  always [.field .texture2Off (.bits 1)]
    ++ under (.read .texture2Off 0)
      (always [Config.counter .i 8, Config.counter .i 8, Config.counter .i 8, Config.counter .i 4])
    ++ always [.field .motionOff (.bits 1)]
    ++ under (.read .motionOff 0) (always [Config.counter .p 8, Config.counter .p 8, Config.counter .b 8,
      Config.counter .p 8, Config.counter .p 8, Config.counter .p 8])
    ++ Config.rewindUnless .present2
    ++ under (.read .method 1) (always [Config.counter .i 8, Config.counter .p 8])

theorem cplxRows_eq : Config.cplxRows = cplxMethodRows ++ (cplxUnknownRows ++ (cplxShapeRows ++ (cplxTextureRows
    ++ (Config.rewindUnless .present1 ++ cplxMotionRows)))) := rfl

/-- CPLX_EST enabled: its method, the position after the disable bit remembered. -/
theorem ReadsAt.leads_cplxMethod (h : ReadsAt s p u) (hl : s.lenFits = true) (hd : s.bitsAre p 1 0 = true)
    (hm : s.bitsAre (p + 1) 2 m = true) :
    Leads cplxReader cplxMethodRows (.at p) u ⟨[(.method, m), (.disable, 0)], p + 1⟩ (u.atBit (p + 3)) :=
  .append (.append (.cons rfl (h.field hl hd rfl) .nil) (.off rfl))
    (.cons rfl rfl (.cons rfl ((h.atBit _).field hl hm rfl) .nil))

/-- A known method: no log, and the rows go on. -/
theorem leads_cplxKnownMethod (hm : m = 0 ∨ m = 1) :
    Leads cplxReader cplxUnknownRows ⟨(.method, m) :: fs, q⟩ u ⟨(.method, m) :: fs, q⟩ u := by
  refine .off ?_
  obtain rfl | rfl := hm <;> rfl

/-- An unknown method is logged, and the rest is left out. -/
theorem runRows_cplxUnknownMethod (hm : ¬(m = 0 ∨ m = 1)) {rest : List (Row CplxField CplxAct)} :
    runRows cplxReader (cplxUnknownRows ++ rest) ⟨(.method, m) :: fs, q⟩ u = .ok () (u.log .cplxMethod) := by
  have hguard (w : State) (i : Item CplxField CplxAct) :
      rowRuns w ⟨(.method, m) :: fs, q⟩ ⟨[.not (.or (.read .method 0) (.read .method 1))], i⟩ = true := by
    simpa [Env.find] using hm
  exact (runRows_run (hguard _ _) rfl).trans (runRows_leave (hguard _ _) rfl)

/-- The shape flags left out. -/
theorem ReadsAt.leads_cplxNoShape (h : ReadsAt s p u) (hl : s.lenFits = true) (hf : s.bitsAre p 1 1 = true) :
    Leads cplxReader cplxShapeRows ⟨fs, q⟩ u ⟨(.shapeOff, 1) :: fs, q⟩ (u.atBit (p + 1)) :=
  .append (.cons rfl (h.field hl hf rfl) .nil) (.off rfl)

/-- The first texture flags left out. -/
theorem ReadsAt.leads_cplxNoTexture (h : ReadsAt s p u) (hl : s.lenFits = true) (hf : s.bitsAre p 1 1 = true) :
    Leads cplxReader cplxTextureRows ⟨fs, q⟩ u ⟨(.texture1Off, 1) :: fs, q⟩ (u.atBit (p + 1)) :=
  .append (.cons rfl (h.field hl hf rfl) .nil) (.off rfl)

/-- The first marker set. -/
theorem ReadsAt.leads_cplxPresent (h : ReadsAt s p u) (hl : s.lenFits = true) (hf : s.bitsAre p 1 1 = true) :
    Leads cplxReader (Config.rewindUnless .present1) ⟨fs, q⟩ u ⟨(.present1, 1) :: fs, q⟩ (u.atBit (p + 1)) :=
  .append (.cons rfl (h.field hl hf rfl) .nil) (.off rfl)

/-- The first marker not set: the rewind to the remembered position, and the rest is left out. -/
theorem ReadsAt.runRows_cplxAbsent (h : ReadsAt s p u) (hl : s.lenFits = true) (hf : s.bitsAre p 1 0 = true)
    (hq : q ≤ s.endPos) {rest : List (Row CplxField CplxAct)} :
    runRows cplxReader (Config.rewindUnless .present1 ++ rest) ⟨fs, q⟩ u
      = .ok () ((u.atBit q).clearTrash.log .cplxRewind) := by
  have hrewind : (u.atBit (p + 1)).cplxRewind q = (u.atBit q).clearTrash.log .cplxRewind := by
    rw [State.cplxRewind, (h.atBit _).setPos hl hq]
    rfl
  have hmarker : Leads cplxReader (always [.field .present1 (.bits 1)]) ⟨fs, q⟩ u ⟨(.present1, 0) :: fs, q⟩
      (u.atBit (p + 1)) := .cons rfl (h.field hl hf rfl) .nil
  rw [← hrewind, Config.rewindUnless, List.append_assoc]
  exact hmarker.followedBy ((runRows_run rfl (runItem_act rfl)).trans (runRows_leave rfl rfl))

/-- Nothing but the method behind the first marker. -/
theorem ReadsAt.leads_cplxNoMotion (h : ReadsAt s p u) (hl : s.lenFits = true) (hf : s.bitsAre p 3 7 = true)
    (hm : Env.find (⟨fs, q⟩ : Env CplxField) .method = some 0) :
    Leads cplxReader cplxMotionRows ⟨fs, q⟩ u ⟨[(.present2, 1), (.motionOff, 1), (.texture2Off, 1)] ++ fs, q⟩
      (u.atBit (p + 3)) := by
  obtain ⟨h1, h2⟩ := State.bitsAre_split (m := 1) (n := 2) hf
  obtain ⟨h2, h3⟩ := State.bitsAre_split (m := 1) (n := 1) h2
  refine .append (.append (.append (.append (.append (.cons rfl (h.field hl h1 rfl) .nil) (.off rfl))
    (.cons rfl ((h.atBit _).field hl h2 rfl) .nil)) (.off rfl))
    (.append (.cons rfl ((h.atBit _).field hl h3 rfl) .nil) (.off rfl))) (.off ?_)
  have hm' : (fs.find? fun a => a.1 == CplxField.method).map (·.2) = some 0 := hm
  simp [Env.find, hm']

/-- A subfield that stands whole inside BS adds to its counter. -/
theorem ReadsAt.counter (h : ReadsAt s p u) (hl : s.lenFits = true) (hin : p + 1 ≤ s.endPos) {k : Trash} {n : Nat}
    {env : Env CplxField} : runItem cplxReader env (Config.counter k n) u
      = .ok (some ⟨(.counter k n, s.bitAt p) :: env.fields, env.start⟩)
        ((u.addTrash k (n * s.bitAt p)).atBit (p + 1)) := by
  rw [← State.memRead_one]
  exact h.field hl (State.bitsAre_memRead hin) rfl

theorem ReadsAt.addTrash (h : ReadsAt s p u) (k : Trash) (n : Nat) : ReadsAt s p (u.addTrash k n) := h.updSeq _

/-- The state with the four texture flags `a`, `b`, `c` and `d` counted. -/
def State.countTexture (s : State) (a b c d : Nat) : State :=
  (((s.addTrash .i (8 * a)).addTrash .p (8 * b)).addTrash .p (8 * c)).addTrash .i (8 * d)

theorem ReadsAt.countTexture (h : ReadsAt s p u) (a b c d : Nat) : ReadsAt s p (u.countTexture a b c d) :=
  (((h.addTrash _ _).addTrash _ _).addTrash _ _).addTrash _ _

/-- The four texture flags. -/
theorem ReadsAt.leads_cplxTexture (h : ReadsAt s p u) (hl : s.lenFits = true) (hf : s.bitsAre p 1 0 = true)
    (hin : p + 5 ≤ s.endPos) : Leads cplxReader cplxTextureRows ⟨fs, q⟩ u
      ⟨[(.counter .i 8, s.bitAt (p + 4)), (.counter .p 8, s.bitAt (p + 3)), (.counter .p 8, s.bitAt (p + 2)),
        (.counter .i 8, s.bitAt (p + 1)), (.texture1Off, 0)] ++ fs, q⟩
      ((u.countTexture (s.bitAt (p + 1)) (s.bitAt (p + 2)) (s.bitAt (p + 3)) (s.bitAt (p + 4))).atBit (p + 5)) := by
  have h1 := h.atBit (p + 1)
  have h2 := (h1.addTrash .i (8 * s.bitAt (p + 1))).atBit (p + 2)
  have h3 := (h2.addTrash .p (8 * s.bitAt (p + 2))).atBit (p + 3)
  have h4 := (h3.addTrash .p (8 * s.bitAt (p + 3))).atBit (p + 4)
  refine .append (.cons rfl (h.field hl hf rfl) .nil) (.cons ?_ (h1.counter hl (by omega))
    (.cons ?_ (h2.counter hl (by omega)) (.cons ?_ (h3.counter hl (by omega))
      (.cons ?_ (h4.counter hl (by omega)) .nil)))) <;> simp [Env.find]

/-! ## The counters -/

theorem State.countTexture_atBit (s : State) (a b c d q : Nat) :
    (s.atBit q).countTexture a b c d = (s.countTexture a b c d).atBit q := rfl

theorem State.addTrash_i (h : s.seq.trashI = BitVec.ofNat 8 a) (hb : a + b < 256) :
    s.addTrash .i b = s.updSeq fun q => { q with trashI := BitVec.ofNat 8 (a + b) } := by
  have hread : s.seq.trashI.toNat = a := by rw [h, BitVec.toNat_ofNat, Nat.mod_eq_of_lt (by omega)]
  rw [← toU_nat hb, Nat.cast_add, ← hread]
  rfl

theorem State.addTrash_p (h : s.seq.trashP = BitVec.ofNat 8 a) (hb : a + b < 256) :
    s.addTrash .p b = s.updSeq fun q => { q with trashP := BitVec.ofNat 8 (a + b) } := by
  have hread : s.seq.trashP.toNat = a := by rw [h, BitVec.toNat_ofNat, Nat.mod_eq_of_lt (by omega)]
  rw [← toU_nat hb, Nat.cast_add, ← hread]
  rfl

/-- The counters of four texture flags, from none. -/
theorem State.countTexture_clearTrash (s : State) {a b c d : Nat} (ha : a < 2) (hb : b < 2) (hc : c < 2) (hd : d < 2) :
    s.clearTrash.countTexture a b c d = s.updSeq fun q => { q with
      trashI := BitVec.ofNat 8 (8 * (a + d)), trashP := BitVec.ofNat 8 (8 * (b + c)), trashB := 0 } := by
  rw [State.countTexture, State.addTrash_i (s := s.clearTrash) (a := 0) rfl (by omega),
    State.addTrash_p (a := 0) (b := 8 * b) rfl (by omega), State.addTrash_p (a := 0 + 8 * b) rfl (by omega),
    State.addTrash_i (a := 0 + 8 * a) rfl (by omega), Nat.mul_add, Nat.mul_add, Nat.zero_add, Nat.zero_add]
  simp only [State.clearTrash, State.updSeq]

/-! ## The operation -/

/-- CPLX_EST is its rows, from counters at 0. -/
theorem cplxEstP_eq (hg : u.cfg.layout = Config.layout) :
    cplxEstP u = runRows cplxReader Config.cplxRows (.at u.pos) u.clearTrash := by
  rw [show Config.cplxRows = u.clearTrash.cfg.layout.cplx by rw [State.clearTrash, State.updSeq_cfg, hg]; rfl]
  rfl

/-- CPLX_EST disabled: one bit, and the counters at 0. -/
theorem ReadsAt.cplxEstP_disabled (h : ReadsAt s p u) (hl : s.lenFits = true) (hg : u.cfg.layout = Config.layout)
    (hd : s.bitsAre p 1 1 = true) : cplxEstP u = .ok () (u.clearTrash.atBit (p + 1)) := by
  have hdisable : Leads cplxReader (always [.field .disable (.bits 1)]) (.at u.pos) u.clearTrash
      ⟨[(.disable, 1)], u.pos⟩ (u.clearTrash.atBit (p + 1)) :=
    .cons rfl ((h.updSeq _).field hl hd rfl) .nil
  rw [cplxEstP_eq hg, cplxRows_eq, cplxMethodRows, List.append_assoc, List.append_assoc]
  exact hdisable.followedBy (runRows_leave rfl rfl)

theorem execCplxEst_ok (h : cplxEstP s = .ok () t) : exec .cplxEst s = .next t :=
  congrArg Host.Outcome.next (runAt_ok h)

/-- Settles O22: the disable bit, the method, the flags and the first marker, one after the other. -/
theorem cplxEstCountsOrRewinds : Obligations.CplxEstCountsOrRewinds := by
  unfold Obligations.CplxEstCountsOrRewinds
  intro s hl hg p seq
  have hat : ReadsAt s p s.clearTrash := (ReadsAt.refl s).updSeq _
  have hrows : cplxEstP s = _ := (cplxEstP_eq hg).trans (by rw [cplxRows_eq])
  refine ⟨fun hd => ?_, fun hb hm => ?_, fun hb hm => ?_, fun hb hin => ?_⟩
  · exact execCplxEst_ok ((ReadsAt.refl s).cplxEstP_disabled hl hg hd)
  · obtain ⟨hd, hb⟩ := State.bitsAre_split (m := 1) (n := 4) hb
    obtain ⟨hmethod, hb⟩ := State.bitsAre_split (m := 2) (n := 2) hb
    obtain ⟨hshape, htexture⟩ := State.bitsAre_split (m := 1) (n := 1) hb
    obtain ⟨hpresent, hmotion⟩ := State.bitsAre_split (m := 1) (n := 3) hm
    obtain ⟨hin, _⟩ := State.bitsAre_iff.1 hm
    have hcount := s.countTexture_clearTrash (s.bitAt_lt_two (p := p + 5)) (s.bitAt_lt_two (p := p + 6))
      (s.bitAt_lt_two (p := p + 7)) (s.bitAt_lt_two (p := p + 8))
    have hcounted := ((hat.atBit (p + 3)).atBit (p + 4)).countTexture (s.bitAt (p + 5)) (s.bitAt (p + 6))
      (s.bitAt (p + 7)) (s.bitAt (p + 8))
    have hrun := (hat.leads_cplxMethod hl hd hmethod).followedBy <| (leads_cplxKnownMethod (.inl rfl)).followedBy <|
      ((hat.atBit _).leads_cplxNoShape hl hshape).followedBy <|
      (((hat.atBit _).atBit _).leads_cplxTexture hl htexture (by omega)).followedBy <|
      ((hcounted.atBit _).leads_cplxPresent hl hpresent).followedBy
      (((hcounted.atBit _).atBit _).leads_cplxNoMotion hl hmotion (by simp [Env.find])).runRows_eq
    simp only [State.atBit_atBit, State.countTexture_atBit, hcount] at hrun
    exact execCplxEst_ok (hrows.trans hrun)
  · obtain ⟨hd, hb⟩ := State.bitsAre_split (m := 1) (n := 1) hb
    obtain ⟨hshape, hm⟩ := State.bitsAre_split (m := 1) (n := 2) hm
    obtain ⟨htexture, habsent⟩ := State.bitsAre_split (m := 1) (n := 1) hm
    obtain ⟨hin, _⟩ := State.bitsAre_iff.1 habsent
    have hmethod : s.memRead (p + 1) 2 = 0 ∨ s.memRead (p + 1) 2 = 1 := by
      have hhigh : s.memRead (p + 1) 1 = 0 := (State.bitsAre_iff.1 hb).2
      have hlow : s.memRead (p + 2) 1 < 2 := State.memRead_lt
      have : s.memRead (p + 1) 2 = 2 * s.memRead (p + 1) 1 + s.memRead (p + 2) 1 := s.memRead_add (p + 1) 1 1
      omega
    have hrun := (hat.leads_cplxMethod hl hd (State.bitsAre_memRead (by omega))).followedBy <|
      (leads_cplxKnownMethod hmethod).followedBy <| ((hat.atBit _).leads_cplxNoShape hl hshape).followedBy <|
      (((hat.atBit _).atBit _).leads_cplxNoTexture hl htexture).followedBy <|
      (((hat.atBit _).atBit _).atBit _).runRows_cplxAbsent hl habsent (by omega) (rest := cplxMotionRows)
    exact execCplxEst_ok (hrows.trans hrun)
  · obtain ⟨hd, hb⟩ := State.bitsAre_split (m := 1) (n := 1) hb
    have hmethod : ¬(s.memRead (p + 1) 2 = 0 ∨ s.memRead (p + 1) 2 = 1) := by
      have hhigh : s.memRead (p + 1) 1 = 1 := (State.bitsAre_iff.1 hb).2
      have : s.memRead (p + 1) 2 = 2 * s.memRead (p + 1) 1 + s.memRead (p + 2) 1 := s.memRead_add (p + 1) 1 1
      omega
    exact execCplxEst_ok (hrows.trans ((hat.leads_cplxMethod hl hd (State.bitsAre_memRead (by omega))).followedBy
      (runRows_cplxUnknownMethod hmethod)))

end Sys2Proof.Machine
end

section
/-! VOL on its shortest rectangular form (40_header_vol.md R146 to R168), step by step. -/

namespace Sys2Proof.Machine

variable {s t u : State} {p a b v w x : Nat}

/-! ## Registers the rows ask for -/

/-- A rectangular layer is not a binary one. -/
theorem condHolds_notBinOnly {env : Env SeqField} (h : u.seq.shape = 0) :
    condHolds u env Config.notBinOnly = true := by
  simp [Config.notBinOnly, State.headerReg, h]

theorem condHolds_rectangular {env : Env SeqField} (h : u.seq.shape = 0) : condHolds u env (.reg .shape 0) = true := by
  simp [State.headerReg, h]

theorem condHolds_version1 {env : Env SeqField} (h : u.seq.voVerId = 1) :
    condHolds u env (.reg .voVerId 1) = true := by
  simp [State.headerReg, h]

theorem condHolds_noSprite {env : Env SeqField} (h : u.seq.spriteUsage = 0) {k : Nat} (hk : k ≠ 0) :
    condHolds u env (.reg .spriteUsage k) = false := by
  simp [State.headerReg, h, hk.symm]

theorem condHolds_not_of {c : Cond SeqField} {env : Env SeqField} (h : condHolds u env c = true) :
    condHolds u env (.not c) = false := by
  rw [condHolds_not, h]
  rfl

/-- One condition. -/
theorem guard_one {c : Cond SeqField} {env : Env SeqField} (h : condHolds u env c = true) :
    [c].all (condHolds u env) = true := by
  rw [List.all_cons, h, List.all_nil]
  rfl

/-- Two conditions. -/
theorem guard_two {c d : Cond SeqField} {env : Env SeqField} (h : condHolds u env c = true)
    (h' : condHolds u env d = true) : [c, d].all (condHolds u env) = true := by
  rw [List.all_cons, h]
  exact guard_one h'

/-! ## Steps 1 to 4 -/

/-- Step 1, no identifier and no extended aspect ratio (R147). -/
theorem ReadsAt.volIdent (h : ReadsAt s p u) (hl : s.lenFits = true) (hid : s.bitsAre (p + 9) 1 0 = true)
    (haspect : s.bitsAre (p + 10) 4 a = true) (ha : a ≠ 15) : runLayout (seqReader .vol) Config.volIdent u
      = .ok () ((u.updSeq fun q => { q with voVerId := 1 }).atBit (p + 14)) := by
  obtain ⟨hin, _⟩ := State.bitsAre_iff.1 haspect
  refine Leads.runLayout_eq (.append (.append (.append (.append (.cons rfl (h.skip hl (by omega))
    (.cons rfl ((h.atBit _).skip hl (by omega)) (.cons rfl (((h.atBit _).atBit _).field hl hid rfl) .nil))) (.off rfl))
    (.cons rfl (runItem_put rfl) .nil))
    (.cons rfl (((((h.atBit _).atBit _).atBit _).updSeq _).field hl haspect rfl) .nil)) (.off ?_))
  simpa [Env.find] using ha

/-- Step 2, no control parameters (R148). -/
theorem ReadsAt.volControl (h : ReadsAt s p u) (hl : s.lenFits = true) (hc : s.bitsAre p 1 0 = true) :
    runLayout (seqReader .vol) Config.volControl u
      = .ok () ((u.updSeq fun q => { q with volControl := false, chromaFormat := 1 }).atBit (p + 1)) :=
  Leads.runLayout_eq (.append (.append (.cons rfl (h.field hl hc rfl) .nil) (.off rfl))
    (.cons rfl (runItem_put rfl) .nil))

/-- Step 3, a rectangular shape (R149). -/
theorem ReadsAt.volShape (h : ReadsAt s p u) (hl : s.lenFits = true) (hs : s.bitsAre p 2 0 = true) :
    runLayout (seqReader .vol) Config.volShape u
      = .ok () ((u.updSeq fun q => { q with shape := 0 }).atBit (p + 2)) :=
  Leads.runLayout_eq (.append (.append (.cons rfl (h.field hl hs rfl) .nil) (.off rfl)) (.off rfl))

/-- A resolution that is not 0, and the width it gives. -/
theorem takeResolution_pos (hv : v ≠ 0) (hlt : v < 2 ^ 16) : takeResolution v u = .ok () (u.updSeq fun q => { q with
    timeIncrementResolution := BitVec.ofNat 16 v
    timeIncrementBits := BitVec.ofNat 5 (max 1 (bitLength (v - 1))) }) := by
  have hbits : max 1 (bitLength (v - 1)) < 2 ^ 5 := by
    have := bitLengthIn_le 64 (v - 1) 16 (by omega)
    rw [bitLength]
    omega
  have hread : (u.updSeq fun q => { q with
      timeIncrementResolution := BitVec.ofNat 16 v }).seq.timeIncrementResolution.toNat = v := by
    show (BitVec.ofNat 16 v).toNat = v
    rw [BitVec.toNat_ofNat, Nat.mod_eq_of_lt hlt]
  rw [takeResolution, putSeq, Parse.update_bind, Parse.getState_bind, toU_nat hlt]
  rw [hread, if_neg hv, toU_nat hbits]
  rfl

/-- Step 4, no fixed rate (R150). -/
theorem ReadsAt.volTimeBase (h : ReadsAt s p u) (hl : s.lenFits = true) (h1 : s.bitsAre p 1 1 = true)
    (hres : s.bitsAre (p + 1) 16 v = true) (hv : v ≠ 0) (h2 : s.bitsAre (p + 17) 1 1 = true)
    (hfixed : s.bitsAre (p + 18) 1 0 = true) : runLayout (seqReader .vol) Config.volTimeBase u
      = .ok () (((u.updSeq fun q => { q with
        timeIncrementResolution := BitVec.ofNat 16 v
        timeIncrementBits := BitVec.ofNat 5 (max 1 (bitLength (v - 1)))
        fixedVopTimeIncrement := 1 }).updTime fun t => { t with tFrame := 0 }).atBit (p + 19)) := by
  have hlt : v < 2 ^ 16 := (State.bitsAre_iff.1 hres).2 ▸ State.memRead_lt
  exact Leads.runLayout_eq (.append (.append (.append (.cons rfl (h.mark hl h1)
    (.cons rfl ((h.atBit _).field hl hres (takeResolution_pos hv hlt))
      (.cons rfl ((((h.atBit _).atBit _).updSeq _).mark hl h2)
        (.cons rfl (((((h.atBit _).atBit _).updSeq _).atBit _).field hl hfixed rfl) .nil)))) (.off rfl))
    (.cons rfl (runItem_put rfl) .nil)) (.cons rfl (runItem_act rfl) .nil))

/-! ## Steps 5 to 8 -/

/-- SEQ with the size `w` by `x`, both positive (R151). -/
def Seq.sized (q : Seq) (w x : Nat) : Seq :=
  { q with
    contextReinit :=
      q.contextReinit || decide (q.width ≠ 0 ∧ q.height ≠ 0 ∧ (q.width.toNat ≠ w ∨ q.height.toNat ≠ x))
    width := BitVec.ofNat 14 w
    height := BitVec.ofNat 14 x }

/-- The size update of a positive size that fits its registers. -/
theorem State.setSize_pos (hw : w ≠ 0) (hx : x ≠ 0) (hw' : w < 2 ^ 14) (hx' : x < 2 ^ 14) :
    u.setSize w x = u.updSeq fun q => q.sized w x := by
  rw [State.setSize, if_neg (by omega), toU_nat hw', toU_nat hx']
  rfl

/-- The size update, over the size read. -/
theorem actSeq_setSize {env : Env SeqField} (hw : env.get .width = w) (hx : env.get .height = x) (hw0 : w ≠ 0)
    (hx0 : x ≠ 0) (hw' : w < 2 ^ 14) (hx' : x < 2 ^ 14) :
    actSeq .setSize env u = .ok () (u.updSeq fun q => q.sized w x) := by
  rw [← State.setSize_pos hw0 hx0 hw' hx', ← hw, ← hx]
  rfl

/-- Step 5, the size of a rectangular layer (R151). -/
theorem ReadsAt.volSize (h : ReadsAt s p u) (hl : s.lenFits = true) (hs : u.seq.shape = 0)
    (h1 : s.bitsAre p 1 1 = true) (hw : s.bitsAre (p + 1) 13 w = true) (h2 : s.bitsAre (p + 14) 1 1 = true)
    (hx : s.bitsAre (p + 15) 13 x = true) (h3 : s.bitsAre (p + 28) 1 1 = true) (hw0 : w ≠ 0) (hx0 : x ≠ 0) :
    runLayout (seqReader .vol) Config.volSize u = .ok () ((u.updSeq fun q => q.sized w x).atBit (p + 29)) := by
  have hfits {v k : Nat} (hv : s.bitsAre k 13 v = true) : v < 2 ^ 14 :=
    lt_trans ((State.bitsAre_iff.1 hv).2 ▸ State.memRead_lt) (by decide : 2 ^ 13 < 2 ^ 14)
  have hg (q : Nat) (env : Env SeqField) : [Cond.reg .shape 0].all (condHolds (u.atBit q) env) = true :=
    guard_one (condHolds_rectangular hs)
  exact Leads.runLayout_eq (.cons (guard_one (condHolds_rectangular hs)) (h.mark hl h1)
    (.cons (hg _ _) ((h.atBit _).field hl hw rfl) (.cons (hg _ _) (((h.atBit _).atBit _).mark hl h2)
      (.cons (hg _ _) ((((h.atBit _).atBit _).atBit _).field hl hx rfl)
        (.cons (hg _ _) (((((h.atBit _).atBit _).atBit _).atBit _).mark hl h3)
          (.cons (hg _ _) (runItem_act (actSeq_setSize rfl rfl hw0 hx0 (hfits hw) (hfits hx))) .nil))))))

/-- Step 6 (R152). -/
theorem ReadsAt.volInterlace (h : ReadsAt s p u) (hl : s.lenFits = true) (hs : u.seq.shape = 0)
    (hb : s.bitsAre p 1 b = true) (hin : p + 2 ≤ s.endPos) : runLayout (seqReader .vol) Config.volInterlace u
      = .ok () ((u.updSeq fun q => { q with interlaced := b == 1 }).atBit (p + 2)) := by
  have hlt : b < 2 := (State.bitsAre_iff.1 hb).2 ▸ State.memRead_lt
  rw [← flagOf_bit hlt]
  exact Leads.runLayout_eq (.cons (guard_one (condHolds_notBinOnly hs)) (h.field hl hb rfl)
    (.cons (guard_one (condHolds_notBinOnly hs)) (((h.atBit _).updSeq _).skip hl (by omega)) .nil))

/-- Step 7, no sprite in a version-1 layer (R153). -/
theorem ReadsAt.volSpriteUsage (h : ReadsAt s p u) (hl : s.lenFits = true) (hs : u.seq.shape = 0)
    (hver : u.seq.voVerId = 1) (hb : s.bitsAre p 1 0 = true) : runLayout (seqReader .vol) Config.volSpriteUsage u
      = .ok () ((u.updSeq fun q => { q with spriteUsage := 0 }).atBit (p + 1)) :=
  Leads.runLayout_eq (.under_append (.under_append
    (.cons (guard_two (condHolds_notBinOnly hs) (condHolds_version1 hver)) (h.field hl hb rfl) .nil)
    (.off_inner (condHolds_not_of (condHolds_version1 hver)))) (.off_inner rfl))

/-- Step 8, without a sprite (R154 to R157). -/
theorem volSprite (hs : u.seq.spriteUsage = 0) : runLayout (seqReader .vol) Config.volSprite u = .ok () u := by
  have hoff (k : Nat) (hk : k ≠ 0) (env : Env SeqField) : condHolds u env (.reg .spriteUsage k) = false :=
    condHolds_noSprite hs hk
  refine Leads.runLayout_eq (.under_append (.off_inner (hoff 1 (by decide) _)) (.off_inner ?_))
  rw [condHolds_or, hoff 1 (by decide), hoff 2 (by decide), Bool.or_false]

/-! ## Steps 9 to 12 -/

/-- Step 9, 8 bits (R158). -/
theorem ReadsAt.volPrecision (h : ReadsAt s p u) (hl : s.lenFits = true) (hs : u.seq.shape = 0)
    (hb : s.bitsAre p 1 0 = true) : runLayout (seqReader .vol) Config.volPrecision u
      = .ok () ((u.updSeq fun q => { q with quantPrecision := 5, bitDepth := 8 }).atBit (p + 1)) :=
  Leads.runLayout_eq (.under_append (.under_append (.under_append
    (.cons (guard_one (condHolds_notBinOnly hs)) (h.field hl hb rfl) .nil) (.off_inner rfl))
    (.cons (guard_two (condHolds_notBinOnly hs) rfl) (runItem_put rfl) .nil))
    (.cons (guard_one (condHolds_notBinOnly hs)) (runItem_put rfl) .nil))

/-- Step 10, no custom matrices (R159). -/
theorem ReadsAt.volMatrices (h : ReadsAt s p u) (hl : s.lenFits = true) (hs : u.seq.shape = 0)
    (hb : s.bitsAre p 1 0 = true) : runLayout (seqReader .vol) Config.volMatrices u
      = .ok () ((u.updSeq fun q => { q with mpegQuant := false }).atBit (p + 1)) :=
  Leads.runLayout_eq (.under_append
    (.cons (guard_one (condHolds_notBinOnly hs)) (h.field hl hb rfl) .nil) (.off_inner rfl))

/-- Step 11, no quarter sample in a version-1 layer (R162). -/
theorem ReadsAt.volQuarter (h : ReadsAt s p u) (hs : u.seq.shape = 0) (hver : u.seq.voVerId = 1)
    (hin : p + 4 ≤ s.endPos) : runLayout (seqReader .vol) Config.volQuarter u
      = .ok () (u.updSeq fun q => { q with quarterSample := false }) :=
  Leads.runLayout_eq (.under_append (.under_append (.off_inner (condHolds_not_of (condHolds_version1 hver)))
    (.cons (guard_two (condHolds_notBinOnly hs) (condHolds_version1 hver)) (runItem_put rfl) .nil))
    (.cons (guard_one (condHolds_notBinOnly hs)) ((h.updSeq _).need hin) .nil))

/-- Step 12, no complexity estimation (R163). -/
theorem ReadsAt.volComplexity (h : ReadsAt s p u) (hl : s.lenFits = true) (hg : u.cfg.layout = Config.layout)
    (hs : u.seq.shape = 0) (hd : s.bitsAre p 1 1 = true) :
    volPart .complexity u = .ok () (u.clearTrash.atBit (p + 1)) := by
  have hshape : (u.seq.shape != shapeBinOnly) = true := by
    rw [hs]
    rfl
  rw [volPart, Parse.getState_bind, hshape, whenP_true, h.cplxEstP_disabled hl hg hd]

/-! ## Steps 13 to 15 -/

/-- Step 13, no partitions (R165). -/
theorem ReadsAt.volResilience (h : ReadsAt s p u) (hl : s.lenFits = true) (hb : s.bitsAre p 1 b = true)
    (hpart : s.bitsAre (p + 1) 1 0 = true) : runLayout (seqReader .vol) Config.volResilience u
      = .ok () ((u.updSeq fun q => { q with resyncMarker := b == 0, dataPartitioning := false, rvlc := false }).atBit
        (p + 2)) := by
  have hlt : b < 2 := (State.bitsAre_iff.1 hb).2 ▸ State.memRead_lt
  rw [← flagOf_not_bit hlt]
  exact Leads.runLayout_eq (.append (.append (.cons rfl (h.field hl hb rfl)
    (.cons rfl (((h.atBit _).updSeq _).field hl hpart rfl) .nil)) (.off rfl)) (.cons rfl (runItem_put rfl) .nil))

/-- Step 14, a version-1 layer (R166). -/
theorem volVersion2 (hver : u.seq.voVerId = 1) : runLayout (seqReader .vol) Config.volVersion2 u
    = .ok () (u.updSeq fun q => { q with newPred := false, reducedResVop := false }) :=
  Leads.runLayout_eq (.append (.off (condHolds_not_of (condHolds_version1 hver)))
    (.cons (guard_one (condHolds_version1 hver)) (runItem_put rfl)
      (.cons (guard_one (condHolds_version1 hver)) (runItem_put rfl) .nil)))

/-- Step 15, no scalability (R167). -/
theorem ReadsAt.volScalability (h : ReadsAt s p u) (hl : s.lenFits = true) (hb : s.bitsAre p 1 0 = true) :
    runLayout (seqReader .vol) Config.volScalability u
      = .ok () ((u.updSeq fun q => { q with scalability := false }).atBit (p + 1)) :=
  Leads.runLayout_eq (.append (.cons rfl (h.field hl hb rfl) .nil) (.off rfl))

/-! ## The whole header -/

/-- One part of a VOL header, and the parts after it. -/
theorem forEach_volPart {l : List VolPart} {c : VolPart} {z : EStateM.Result Raise State Unit}
    (h : volPart c u = .ok () t) (h' : forEach volPart l t = z) : forEach volPart (c :: l) u = z :=
  (Parse.bind_ok h).trans h'

/-- A part of a VOL header leaves BS, LEN and CFG alone. -/
theorem ReadsAt.after_volPart (h : ReadsAt s p u) {c : VolPart} {q : Nat} (hrun : volPart c u = .ok () t)
    (hq : t.bitpos = q) : ReadsAt s q t := by
  obtain ⟨hlen, hbs, _, _, _, _, _, _, _, hcfg, _, _⟩ :=
    ((headerBlind_sameButHeader u).volPart c).ok (sameButHeader_refl u) hrun
  exact ⟨hbs.trans h.bs, hlen.trans h.len, hcfg.trans h.cfg, hq⟩

theorem execVol_ok (hg : s.cfg.layout = Config.layout)
    (h : forEach volPart Config.layout.vol (s.updSeq fun q => { q with valid := false }) = .ok () t) :
    exec .vol s = .next (t.updSeq fun q => { q with valid := true }).scanOn := by
  rw [← hg] at h
  exact congrArg Host.Outcome.next (runAt_ok (Parse.bind_ok h))

/-- Settles O18: the fifteen steps, one after the other. -/
theorem volWritesAndValidatesSeq : Obligations.VolWritesAndValidatesSeq := by
  unfold Obligations.VolWritesAndValidatesSeq
  intro s hl hg p res w h hin haspect hres hw hh hident hcontrol hmarker hrate hmarker2 hmarker3 hflags htail
  have here {n v : Nat} (q : Nat) (hv : s.memRead q n = v) (hq : q + n ≤ p + 74) : s.bitsAre q n v = true :=
    State.bitsAre_iff.2 ⟨by omega, hv⟩
  have bit {v : Nat} (q : Nat) (hv : s.bitAt q = v) (hq : q + 1 ≤ p + 74) : s.bitsAre q 1 v = true :=
    here q (State.memRead_one.trans hv) hq
  obtain ⟨hcontrol, hshape⟩ := State.bitsAre_split (m := 1) (n := 2) (here (p + 14) hcontrol (by omega))
  obtain ⟨hmark, hrate⟩ := State.bitsAre_split (m := 1) (n := 2) (here (p + 34) hrate (by omega))
  obtain ⟨hrate, hsize⟩ := State.bitsAre_split (m := 1) (n := 1) hrate
  obtain ⟨hsprite, hflags⟩ := State.bitsAre_split (m := 1) (n := 3) (here (p + 67) hflags (by omega))
  obtain ⟨hbits, hflags⟩ := State.bitsAre_split (m := 1) (n := 2) hflags
  obtain ⟨hquant, hcplx⟩ := State.bitsAre_split (m := 1) (n := 1) hflags
  obtain ⟨hpart, hscal⟩ := State.bitsAre_split (m := 1) (n := 1) (here (p + 72) htail (by omega))
  have r0 : ReadsAt s p (s.updSeq fun q => { q with valid := false }) := (ReadsAt.refl s).updSeq _
  have h1 := r0.volIdent hl (bit _ hident (by omega)) (here _ rfl (by omega)) haspect
  have r1 : ReadsAt s (p + 14) _ := r0.after_volPart (c := .rows _) h1 rfl
  have h2 := r1.volControl hl hcontrol
  have r2 : ReadsAt s (p + 15) _ := r1.after_volPart (c := .rows _) h2 rfl
  have h3 := r2.volShape hl hshape
  have r3 : ReadsAt s (p + 17) _ := r2.after_volPart (c := .rows _) h3 rfl
  have h4 := r3.volTimeBase hl (bit _ hmarker (by omega)) (here _ rfl (by omega)) hres hmark hrate
  have r4 : ReadsAt s (p + 36) _ := r3.after_volPart (c := .rows _) h4 rfl
  have h5 := r4.volSize hl rfl hsize (here _ rfl (by omega)) (bit _ hmarker2 (by omega)) (here _ rfl (by omega))
    (bit _ hmarker3 (by omega)) hw hh
  have r5 : ReadsAt s (p + 65) _ := r4.after_volPart (c := .rows _) h5 rfl
  have h6 := r5.volInterlace hl rfl (bit _ rfl (by omega)) (by omega)
  have r6 : ReadsAt s (p + 67) _ := r5.after_volPart (c := .rows _) h6 rfl
  have h7 := r6.volSpriteUsage hl rfl rfl hsprite
  have r7 : ReadsAt s (p + 68) _ := r6.after_volPart (c := .rows _) h7 rfl
  have h9 := r7.volPrecision hl rfl hbits
  have r9 : ReadsAt s (p + 69) _ := r7.after_volPart (c := .rows _) h9 rfl
  have h10 := r9.volMatrices hl rfl hquant
  have r10 : ReadsAt s (p + 70) _ := r9.after_volPart (c := .rows _) h10 rfl
  have h11 := r10.volQuarter rfl rfl (by omega)
  have r11 : ReadsAt s (p + 70) _ := r10.after_volPart (c := .rows _) h11 rfl
  have h12 := r11.volComplexity hl hg rfl hcplx
  have r12 : ReadsAt s (p + 71) _ := r11.after_volPart h12 rfl
  have h13 := r12.volResilience hl (here _ State.memRead_one (by omega)) hpart
  have r13 : ReadsAt s (p + 73) _ := r12.after_volPart (c := .rows _) h13 rfl
  have r14 : ReadsAt s (p + 73) _ := r13.after_volPart (c := .rows _) (volVersion2 rfl) rfl
  have h15 := r14.volScalability hl hscal
  rw [execVol_ok hg (forEach_volPart h1 <| forEach_volPart h2 <| forEach_volPart h3 <| forEach_volPart h4 <|
    forEach_volPart h5 <| forEach_volPart h6 <| forEach_volPart h7 <| forEach_volPart (volSprite rfl) <|
    forEach_volPart h9 <| forEach_volPart h10 <| forEach_volPart h11 <| forEach_volPart h12 <| forEach_volPart h13 <|
    forEach_volPart (volVersion2 rfl) <| forEach_volPart h15 rfl)]
  simp only [State.scanOn, State.clearTrash, State.updTime, State.updSeq, State.atBit, Seq.sized]
  rfl

end Sys2Proof.Machine
end

section
/-! VOL_STUDIO (40_header_vol.md R170), part by part: a rectangular layer, and any other shape. -/

namespace Sys2Proof.Machine

variable {s t u : State} {p q a b c v w x : Nat} {fs : List (SeqField × Nat)} {env : Env SeqField} {r : Raise}

/-! ## The parts -/

/-- The shape and the scan type. -/
theorem ReadsAt.leads_studioShape (h : ReadsAt s p u) (hl : s.lenFits = true) (hshape : s.bitsAre (p + 13) 2 v = true)
    (hscan : s.bitsAre (p + 19) 1 b = true) : Leads (seqReader .vol) (always [.skip (.bits 1), .skip (.bits 8),
        .skip (.bits 4), .field .shape (.bits 2), .skip (.bits 4), .field .progressive (.bits 1)]) env u
      ⟨(.progressive, b) :: (.shape, v) :: env.fields, env.start⟩
      ((u.updSeq fun q => { q with shape := BitVec.ofNat 2 v, interlaced := !(b == 1) }).atBit (p + 20)) := by
  obtain ⟨hin, rfl⟩ := State.bitsAre_iff.1 hscan
  have hflag : (!(s.memRead (p + 19) 1 == 1)) = flagOf (1 - (s.memRead (p + 19) 1 : Int)) := by
    have hlt : s.memRead (p + 19) 1 < 2 := State.memRead_lt
    obtain h0 | h1 : s.memRead (p + 19) 1 = 0 ∨ s.memRead (p + 19) 1 = 1 := by omega
    · rw [h0]; rfl
    · rw [h1]; rfl
  have hlt : v < 2 ^ 2 := (State.bitsAre_iff.1 hshape).2 ▸ State.memRead_lt
  rw [hflag, ← toU_nat hlt]
  exact .cons rfl (h.skip hl (by omega)) (.cons rfl ((h.atBit _).skip hl (by omega))
    (.cons rfl (((h.atBit _).atBit _).skip hl (by omega))
      (.cons rfl ((((h.atBit _).atBit _).atBit _).field hl hshape rfl)
        (.cons rfl ((((((h.atBit _).atBit _).atBit _).atBit _).updSeq _).skip hl (by omega))
          (.cons rfl (((((((h.atBit _).atBit _).atBit _).atBit _).updSeq _).atBit _).field hl hscan rfl) .nil)))))

/-- The colour model and the chroma format. -/
theorem ReadsAt.leads_studioChroma (h : ReadsAt s p u) (hl : s.lenFits = true) (hrgb : s.bitsAre p 1 b = true)
    (hformat : s.bitsAre (p + 1) 2 c = true) : Leads (seqReader .vol)
      (always [.field .rgb (.bits 1), .field .chromaFormat (.bits 2)]) env u
      ⟨(.chromaFormat, c) :: (.rgb, b) :: env.fields, env.start⟩
      ((u.updSeq fun q => { q with chromaFormat := BitVec.ofNat 2 c }).atBit (p + 3)) := by
  have hlt : c < 2 ^ 2 := (State.bitsAre_iff.1 hformat).2 ▸ State.memRead_lt
  rw [← toU_nat hlt]
  exact .cons rfl (h.field hl hrgb rfl) (.cons rfl ((h.atBit _).field hl hformat rfl) .nil)

/-- An admitted chroma format is not refused. -/
theorem leads_studioChroma_admitted (hc : 2 ≤ c) (hb : ¬(b = 1 ∧ c = 2)) {l : List (Row SeqField SeqAct)} :
    Leads (seqReader .vol) (under (.or (.or (.read .chromaFormat 0) (.read .chromaFormat 1))
        (.and (.read .rgb 1) (.read .chromaFormat 2))) l) ⟨(.chromaFormat, c) :: (.rgb, b) :: fs, q⟩ u
      ⟨(.chromaFormat, c) :: (.rgb, b) :: fs, q⟩ u := by
  refine .off ?_
  have h0 : c ≠ 0 := by omega
  have h1 : c ≠ 1 := by omega
  simpa [Env.find, h0, h1] using hb

/-- The sample depth, the size and the aspect ratio. -/
theorem ReadsAt.leads_studioSize (h : ReadsAt s p u) (hl : s.lenFits = true) (hdepth : s.bitsAre p 4 v = true)
    (h1 : s.bitsAre (p + 4) 1 1 = true) (hw : s.bitsAre (p + 5) 14 w = true) (h2 : s.bitsAre (p + 19) 1 1 = true)
    (hx : s.bitsAre (p + 20) 14 x = true) (h3 : s.bitsAre (p + 34) 1 1 = true) (haspect : s.bitsAre (p + 35) 4 a = true)
    (hw0 : w ≠ 0) (hx0 : x ≠ 0) : Leads (seqReader .vol) (always [.field .bitDepth (.bits 4), .marker .vol,
        .field .width (.bits 14), .marker .vol, .field .height (.bits 14), .marker .vol, .act .setSize,
        .field .aspect (.bits 4)]) env u
      ⟨(.aspect, a) :: (.height, x) :: (.width, w) :: (.bitDepth, v) :: env.fields, env.start⟩
      ((u.updSeq fun q => { q with bitDepth := BitVec.ofNat 4 v }.sized w x).atBit (p + 39)) := by
  have hlt : v < 2 ^ 4 := (State.bitsAre_iff.1 hdepth).2 ▸ State.memRead_lt
  have hw' : w < 2 ^ 14 := (State.bitsAre_iff.1 hw).2 ▸ State.memRead_lt
  have hx' : x < 2 ^ 14 := (State.bitsAre_iff.1 hx).2 ▸ State.memRead_lt
  rw [← toU_nat hlt]
  have d1 := (h.atBit (p + 4)).updSeq fun q => { q with bitDepth := toU 4 v }
  have d2 := ((((d1.atBit (p + 5)).atBit (p + 19)).atBit (p + 20)).atBit (p + 34)).atBit (p + 35)
  exact .cons rfl (h.field hl hdepth rfl) (.cons rfl (d1.mark hl h1)
    (.cons rfl ((d1.atBit _).field hl hw rfl) (.cons rfl (((d1.atBit _).atBit _).mark hl h2)
      (.cons rfl ((((d1.atBit _).atBit _).atBit _).field hl hx rfl)
        (.cons rfl (((((d1.atBit _).atBit _).atBit _).atBit _).mark hl h3)
          (.cons rfl (runItem_act (actSeq_setSize rfl rfl hw0 hx0 hw' hx'))
            (.cons rfl ((d2.updSeq _).field hl haspect rfl) .nil)))))))

/-- The vbv parameters. -/
theorem ReadsAt.leads_vbv (h : ReadsAt s p u) (hl : s.lenFits = true) (h1 : s.bitsAre (p + 15) 1 1 = true)
    (h2 : s.bitsAre (p + 31) 1 1 = true) (h3 : s.bitsAre (p + 47) 1 1 = true) (h4 : s.bitsAre (p + 62) 1 1 = true)
    (h5 : s.bitsAre (p + 78) 1 1 = true) :
    Leads (seqReader .vol) Config.vbvRows env u env (u.atBit (p + 79)) := by
  obtain ⟨hin, _⟩ := State.bitsAre_iff.1 h5
  have at' (n : Nat) : ReadsAt s (p + n) (u.atBit (p + n)) := h.atBit _
  exact .cons rfl (h.skip hl (by omega)) (.cons rfl ((at' 15).mark hl h1)
    (.cons rfl ((at' 16).skip hl (by omega)) (.cons rfl ((at' 31).mark hl h2)
      (.cons rfl ((at' 32).skip hl (by omega)) (.cons rfl ((at' 47).mark hl h3)
        (.cons rfl ((at' 48).skip hl (by omega)) (.cons rfl ((at' 51).skip hl (by omega))
          (.cons rfl ((at' 62).mark hl h4) (.cons rfl ((at' 63).skip hl (by omega))
            (.cons rfl ((at' 78).mark hl h5) .nil))))))))))

/-- The delay and the quantiser type. -/
theorem ReadsAt.leads_studioTail (h : ReadsAt s p u) (hl : s.lenFits = true) (hdelay : s.bitsAre p 1 a = true)
    (hquant : s.bitsAre (p + 1) 1 b = true) : Leads (seqReader .vol)
      (always [.field .lowDelay (.bits 1), .field .mpegQuant (.bits 1), .log .studio]) env u
      ⟨(.mpegQuant, b) :: (.lowDelay, a) :: env.fields, env.start⟩
      (((u.updSeq fun q => { q with lowDelay := a == 1, mpegQuant := b == 1 }).atBit (p + 2)).log .studio) := by
  have ha : a < 2 := (State.bitsAre_iff.1 hdelay).2 ▸ State.memRead_lt
  have hb : b < 2 := (State.bitsAre_iff.1 hquant).2 ▸ State.memRead_lt
  rw [← flagOf_bit ha, ← flagOf_bit hb]
  exact .cons rfl (h.field hl hdelay rfl) (.cons rfl (((h.atBit _).updSeq _).field hl hquant rfl)
    (.cons rfl runItem_log .nil))

/-! ## The whole header -/

/-- Rows of a header leave BS, LEN and CFG alone. -/
theorem ReadsAt.after_leads (h : ReadsAt s p u) {l : List (Row SeqField SeqAct)} {env' : Env SeqField} {tg : Tag}
    (hrun : Leads (seqReader tg) l env u env' t) (hq : t.bitpos = q) : ReadsAt s q t := by
  have hb := headerBlind_sameButHeader u
  obtain ⟨hlen, hbs, _, _, _, _, _, _, _, hcfg, _, _⟩ :=
    (hb.runRows (g := seqReader tg) hb.takeSeq hb.actSeq l env).ok (sameButHeader_refl u) hrun.runRows_eq
  exact ⟨hbs.trans h.bs, hlen.trans h.len, hcfg.trans h.cfg, hq⟩

theorem execVolStudio_ok (hg : s.cfg.layout = Config.layout)
    (h : runLayout (seqReader .vol) Config.volStudioRows (s.updSeq fun q => { q with valid := false }) = .ok () t) :
    exec .volStudio s = .next (t.updSeq fun q => { q with valid := true }).scanOn := by
  rw [show Config.volStudioRows = s.cfg.layout.volStudio by rw [hg]; rfl] at h
  exact congrArg Host.Outcome.next (runAt_ok (Parse.bind_ok h))

theorem execVolStudio_raises (hg : s.cfg.layout = Config.layout)
    (h : runLayout (seqReader .vol) Config.volStudioRows (s.updSeq fun q => { q with valid := false }) = .error r t) :
    exec .volStudio s = .next (t.takeRaise .headerRun r) := by
  rw [show Config.volStudioRows = s.cfg.layout.volStudio by rw [hg]; rfl] at h
  have hrun : volStudioP s = .error r t := by
    rw [volStudioP, putSeq, Parse.update_bind, Parse.getState_bind]
    exact Parse.bind_error h
  exact congrArg Host.Outcome.next (runAt_error hrun)

/-- A shape that is not rectangular is logged and refused. -/
theorem runRows_studioShape_refused (hs : u.seq.shape.toNat ≠ 0) {rest : List (Row SeqField SeqAct)} :
    runRows (seqReader .vol) (under (.not (.reg .shape 0)) (always [.log .shape, .act .refuseShape]) ++ rest) env u
      = .error (invalid .volStudioShape) (u.log .shape) := by
  have hguard (i : Item SeqField SeqAct) (w : State) (hw : w.seq = u.seq) :
      rowRuns w env ⟨[.not (.reg .shape 0)], i⟩ = true := by
    simpa [State.headerReg, hw] using hs
  exact (runRows_run (hguard _ _ rfl) runItem_log).trans (runRows_raise (hguard _ _ rfl) (runItem_act_raises rfl))

/-- Settles O20: the parts one after the other, or the refusal after the shape. -/
theorem volStudioWritesAndValidatesSeq : Obligations.VolStudioWritesAndValidatesSeq := by
  unfold Obligations.VolStudioWritesAndValidatesSeq
  intro s hl hg p cf w h
  have r0 : ReadsAt s p (s.updSeq fun q => { q with valid := false }) := (ReadsAt.refl s).updSeq _
  refine ⟨?admitted, ?refused⟩
  case admitted =>
    intro hin hshape hcf hrgb hw hh haspect m1 m2 m3 m4 m5 m6 m7 m8
    have read (n q : Nat) (hq : q + n ≤ p + 147) : s.bitsAre q n (s.memRead q n) = true :=
      State.bitsAre_memRead (by omega)
    have bit (q : Nat) (hq : q + 1 ≤ p + 147) : s.bitsAre q 1 (s.bitAt q) = true :=
      State.memRead_one (s := s) (p := q) ▸ read 1 q hq
    have one {q : Nat} (hv : s.bitAt q = 1) (hq : q + 1 ≤ p + 147) : s.bitsAre q 1 1 = true := hv ▸ bit q hq
    have l1 := r0.leads_studioShape hl (v := 0) (hshape ▸ read 2 (p + 13) (by omega)) (bit _ (by omega))
      (env := .at p)
    have r1 : ReadsAt s (p + 20) _ := r0.after_leads l1 rfl
    have l2 (env : Env SeqField) := r1.leads_studioChroma (env := env) hl (bit _ (by omega)) (read 2 _ (by omega))
    have r2 : ReadsAt s (p + 23) _ := r1.after_leads (l2 (.at p)) rfl
    have l3 (env : Env SeqField) := r2.leads_studioSize (env := env) hl (read 4 _ (by omega)) (one m1 (by omega))
      (read 14 _ (by omega)) (one m2 (by omega)) (read 14 _ (by omega)) (one m3 (by omega)) (read 4 _ (by omega)) hw hh
    have r3 : ReadsAt s (p + 62) _ := r2.after_leads (l3 (.at p)) rfl
    have r4 := r3.atBit (p + 66)
    have hrun := Leads.runLayout_eq (l := Config.volStudioRows) (.append (.append (.append (.append (.append (.append
      (.append (.append l1 (.off rfl)) (l2 _)) (leads_studioChroma_admitted hcf hrgb)) (l3 _))
      (.off (by simpa [Env.find] using haspect))) (.cons rfl (r3.skip hl (by omega)) .nil))
      (r4.leads_vbv hl (one m4 (by omega)) (one m5 (by omega)) (one m6 (by omega)) (one m7 (by omega))
        (one m8 (by omega))))
      ((r4.atBit _).leads_studioTail hl (bit _ (by omega)) (bit _ (by omega))))
    rw [execVolStudio_ok hg hrun]
    simp only [State.scanOn, State.log, State.updStatus, State.updSeq, State.atBit, Seq.sized]
    rfl
  case refused =>
    intro hin hshape
    have hscan : s.bitsAre (p + 19) 1 (s.memRead (p + 19) 1) = true := State.bitsAre_memRead (by omega)
    have l1 := r0.leads_studioShape hl (State.bitsAre_memRead (by omega)) hscan (env := .at p)
    have hrows : ∃ rest, Config.volStudioRows = always [.skip (.bits 1), .skip (.bits 8), .skip (.bits 4),
        .field .shape (.bits 2), .skip (.bits 4), .field .progressive (.bits 1)]
        ++ (under (.not (.reg .shape 0)) (always [.log .shape, .act .refuseShape]) ++ rest) :=
      by
      simp only [Config.volStudioRows, List.append_assoc]
      exact ⟨_, rfl⟩
    obtain ⟨rest, hrows⟩ := hrows
    have hs : (BitVec.ofNat 2 (s.memRead (p + 13) 2)).toNat ≠ 0 := by
      rwa [BitVec.toNat_ofNat, Nat.mod_eq_of_lt State.memRead_lt]
    have hraise := l1.followedBy (runRows_studioShape_refused (rest := rest) hs)
    rw [← hrows] at hraise
    refine ⟨_, execVolStudio_raises hg hraise, ?_⟩
    rw [State.takeRaise_headerRun_invalid rfl]
    exact ⟨rfl, rfl, rfl, rfl⟩

end Sys2Proof.Machine
end

section
/-! Taking a raise in the picture header (60_exceptions.md R371), and TIME_INCR and TI_HEAL run by themselves
(41_header_vop.md R184 to R187). -/

namespace Sys2Proof.Machine

variable {s u : State} {n p k : Nat} {r : Raise}

/-! ## Taking a raise in the picture header -/

/-- A picture header whose raise is FRAME_SKIPPED ends its command in DONE. -/
theorem State.takeRaise_vop_skipped (h : r.code = .frameSkipped) :
    s.takeRaise .vopHeader r = (s.recordRaise r).setFsm .done := by
  rw [State.takeRaise, h]

/-- A fatal end in the picture header loses no macroblock. -/
theorem State.failFatally_vop (s : State) (tg : Tag) : s.failFatally .vopHeader tg
    = ((s.publishRow s.mbH).updStatus fun t => { t with picValid := false }).setFsm .error := by
  rw [State.failFatally, State.noteLost, State.lostAt]
  simp only [List.append_nil]
  rfl

/-- A picture header that fails publishes every row and ends its command in ERROR. -/
theorem State.takeRaise_vop_failed (h : r.IsFailure) : s.takeRaise .vopHeader r
    = (((s.recordRaise r).publishRow s.mbH).updStatus fun t => { t with picValid := false }).setFsm .error := by
  refine Eq.trans ?_ (State.failFatally_vop (s.recordRaise r) r.tag)
  obtain ⟨c, tg⟩ := r
  obtain h | h := h <;> cases c
  case inl.invalidData => rfl
  case inr.refusedStudio | inr.fatalTruncated | inr.fatalExhausted | inr.fatalRange | inr.fatalGmc | inr.fatalNoVol
    | inr.fatalNoResync => rfl
  all_goals cases h

/-! ## TIME_INCR -/

theorem ReadsAt.updPic (h : ReadsAt s p u) (f : Pic → Pic) : ReadsAt s p (u.updPic f) := ⟨h.bs, h.len, h.cfg, h.pos⟩

/-- PIC.time_incr `k` higher. -/
def State.countedOnes (u : State) (k : Nat) : State :=
  u.updPic fun q => { q with timeIncr := BitVec.ofNat 16 (q.timeIncr.toNat + k) }

theorem State.countedOnes_zero (u : State) : u.countedOnes 0 = u := by
  rw [State.countedOnes, State.updPic, Nat.add_zero, BitVec.ofNat_toNat, BitVec.setWidth_eq]

theorem State.countedOnes_countedOnes (u : State) (m k : Nat) :
    (u.countedOnes m).countedOnes k = u.countedOnes (m + k) := by
  have hsum : BitVec.ofNat 16 ((BitVec.ofNat 16 (u.pic.timeIncr.toNat + m)).toNat + k)
      = BitVec.ofNat 16 (u.pic.timeIncr.toNat + (m + k)) := by
    refine BitVec.eq_of_toNat_eq ?_
    simp only [BitVec.toNat_ofNat]
    omega
  exact congrArg (fun v => u.updPic fun q => { q with timeIncr := v }) hsum

theorem State.countedOnes_of_zero (h : u.pic.timeIncr = 0) (k : Nat) :
    u.countedOnes k = u.updPic fun q => { q with timeIncr := BitVec.ofNat 16 k } := by
  have hsum : BitVec.ofNat 16 (u.pic.timeIncr.toNat + k) = BitVec.ofNat 16 k := by
    rw [h]
    exact congrArg (BitVec.ofNat 16) (Nat.zero_add k)
  exact congrArg (fun v => u.updPic fun q => { q with timeIncr := v }) hsum

/-- One bit of the run is counted. -/
theorem ReadsAt.timeUnary_one (h : ReadsAt s p u) (hl : s.lenFits = true) (hb : s.bitsAre p 1 1 = true)
    (hfits : u.pic.timeIncr.toNat + 1 < 65536) :
    timeUnary (n + 1) u = timeUnary n ((u.countedOnes 1).atBit (p + 1)) := by
  have hw : toU 16 ((u.pic.timeIncr.toNat + 1 : Nat) : Int) = BitVec.ofNat 16 (u.pic.timeIncr.toNat + 1) := toU_nat hfits
  rw [timeUnary, Parse.bind_ok (h.getFlag_of_bitsAre hl hb)]
  simp only [BEq.rfl, if_true, putPic, Parse.update_bind, State.countedOnes, State.updPic, State.atBit, hw]

/-- The run ends at its first zero. -/
theorem ReadsAt.timeUnary_zero (h : ReadsAt s p u) (hl : s.lenFits = true) (hb : s.bitsAre p 1 0 = true) :
    timeUnary (n + 1) u = .ok () (u.atBit (p + 1)) := by
  rw [timeUnary, Parse.bind_ok (h.getFlag_of_bitsAre hl hb)]
  rfl

/-- The run is cut off where BS ends. -/
theorem ReadsAt.timeUnary_cut (h : ReadsAt s s.endPos u) : timeUnary (n + 1) u = .error (truncated .vop) u := by
  have hpos : u.pos = s.endPos := h.pos
  have hshort : u.endPos < u.pos + 1 := by
    rw [hpos, h.endPos]
    omega
  rw [timeUnary, Parse.bind_error (getFlag_short hshort)]

/-- A run of `k` ones is counted, whatever follows it. -/
theorem ReadsAt.timeUnary_ones (hl : s.lenFits = true) (k : Nat) : ∀ {p u}, ReadsAt s p u → p + k ≤ s.endPos →
    (∀ j, j < k → s.bitAt (p + j) = 1) → u.pic.timeIncr.toNat + k < 65536 →
    timeUnary (k + n) u = timeUnary n ((u.countedOnes k).atBit (p + k)) := by
  induction k with
  | zero =>
    intro p u h _ _ _
    rw [Nat.zero_add, State.countedOnes_zero, Nat.add_zero, ← h.pos]
    rfl
  | succ k ih =>
    intro p u h hin hones hfits
    have hfirst : s.bitsAre p 1 1 = true := State.bitsAre_bit_one (hones 0 (Nat.succ_pos k)) (by omega)
    have hrest (j : Nat) (hj : j < k) : s.bitAt (p + 1 + j) = 1 := by
      rw [Nat.add_assoc, Nat.add_comm 1]
      exact hones (j + 1) (Nat.succ_lt_succ hj)
    have hcount : ((u.countedOnes 1).atBit (p + 1)).pic.timeIncr.toNat = u.pic.timeIncr.toNat + 1 :=
      Nat.mod_eq_of_lt (by omega)
    have hone : ReadsAt s (p + 1) ((u.countedOnes 1).atBit (p + 1)) := (h.updPic _).atBit _
    have hboth : (((u.countedOnes 1).atBit (p + 1)).countedOnes k).atBit (p + 1 + k)
        = ((u.countedOnes 1).countedOnes k).atBit (p + (k + 1)) := by
      rw [Nat.add_assoc, Nat.add_comm 1]
      rfl
    rw [Nat.add_right_comm, h.timeUnary_one hl hfirst (by omega), ih hone (by omega) hrest (by rw [hcount]; omega),
      hboth, State.countedOnes_countedOnes, Nat.add_comm 1]

/-- The whole run of the operation: `k` ones from where PIC.time_incr is 0. -/
theorem ReadsAt.actTime_ones (h : ReadsAt s p u) (hl : s.lenFits = true) (h0 : u.pic.timeIncr = 0) (hk : k < 65536)
    (hin : p + k ≤ s.endPos) (hones : ∀ j, j < k → s.bitAt (p + j) = 1) : ∃ n, actTime .unary u
      = timeUnary (n + 1) ((u.updPic fun q => { q with timeIncr := BitVec.ofNat 16 k }).atBit (p + k)) := by
  have hpos : u.pos = p := h.pos
  have hfuel : s.endPos - p + 1 = k + (s.endPos - p - k + 1) := by omega
  have hzero : u.pic.timeIncr.toNat = 0 := by
    rw [h0]
    rfl
  refine ⟨s.endPos - p - k, ?_⟩
  rw [actTime, Parse.getState_bind, hpos, h.endPos, hfuel, ReadsAt.timeUnary_ones hl k h hin hones (by omega),
    State.countedOnes_of_zero h0]

/-- TIME_INCR is its rows over a cleared PIC.time_incr. -/
theorem ReadsAt.timeIncrP_rows (h : ReadsAt s p u) (hg : s.cfg.layout.timeIncr = Config.timeIncrRows) :
    timeIncrP u = runRows timeReader Config.timeIncrRows (.at p) (u.updPic fun q => { q with timeIncr := 0 }) := by
  have hcfg : (u.updPic fun q => { q with timeIncr := 0 }).cfg.layout.timeIncr = Config.timeIncrRows :=
    (congrArg (fun c => c.layout.timeIncr) h.cfg).trans hg
  rw [timeIncrP, putPic, Parse.update_bind, Parse.getState_bind, hcfg, ← h.pos]
  rfl

section Run

variable (h : ReadsAt s p u) (hl : s.lenFits = true) (hg : s.cfg.layout.timeIncr = Config.timeIncrRows)
  (hk : k < 65536) (hin : p + k ≤ s.endPos) (hones : ∀ j, j < k → s.bitAt (p + j) = 1)

include h hl hg hk hin hones

/-- After the run and its zero, TIME_INCR is its marker. -/
theorem ReadsAt.timeIncrP_marker (hzero : s.bitsAre (p + k) 1 0 = true) :
    timeIncrP u = runRows timeReader [⟨[], .marker .vopBeforeTimeInc⟩] (.at p)
      ((u.updPic fun q => { q with timeIncr := BitVec.ofNat 16 k }).atBit (p + k + 1)) := by
  obtain ⟨n, hrun⟩ := (h.updPic fun q => { q with timeIncr := 0 }).actTime_ones hl rfl hk hin hones
  have hstop := (((h.updPic fun q => { q with timeIncr := 0 }).updPic fun q =>
    { q with timeIncr := BitVec.ofNat 16 k }).atBit (p + k)).timeUnary_zero (n := n) hl hzero
  rw [h.timeIncrP_rows hg]
  exact runRows_run (g := timeReader) rowRuns_nil (runItem_act (hrun.trans hstop))

/-- TIME_INCR is cut off inside its run. -/
theorem ReadsAt.timeIncrP_cut (hend : p + k = s.endPos) : ∃ t, timeIncrP u = .error (truncated .vop) t := by
  obtain ⟨n, hrun⟩ := (h.updPic fun q => { q with timeIncr := 0 }).actTime_ones hl rfl hk hin hones
  have hat := (((h.updPic fun q => { q with timeIncr := 0 }).updPic fun q =>
    { q with timeIncr := BitVec.ofNat 16 k }).atBit (p + k))
  rw [h.timeIncrP_rows hg]
  rw [hend] at hat hrun
  exact ⟨_, runRows_raise (g := timeReader) rowRuns_nil (runItem_act_raises (hrun.trans hat.timeUnary_cut))⟩

end Run

/-- Settles O24: the ones are counted, and their zero's marker passes, is tolerated or is refused; or BS ends. -/
theorem timeIncrCountsOnes : Obligations.TimeIncrCountsOnes := by
  unfold Obligations.TimeIncrCountsOnes
  intro s k hl hg hk hin hones t
  have hat := ReadsAt.refl s
  have hmark : ReadsAt s (s.pos + k + 1) ((s.updPic fun q => { q with timeIncr := BitVec.ofNat 16 k }).atBit _) :=
    (hat.updPic _).atBit _
  have split {v : Nat} (hv : v < 2) (hb : s.bitsAre (s.pos + k) 2 v = true) :
      s.bitsAre (s.pos + k) 1 0 = true ∧ s.bitsAre (s.pos + k + 1) 1 v = true := by
    have hparts := State.bitsAre_split (m := 1) (n := 1) hb
    rwa [show v / 2 ^ 1 = 0 by omega, show v % 2 ^ 1 = v by omega] at hparts
  refine ⟨fun hb => ?passes, fun hb hs => ?tolerated, fun hb hs => ?refused, fun hend => ?cut⟩
  case passes =>
    obtain ⟨hzero, hone⟩ := split (by decide) hb
    have hrun := (hat.timeIncrP_marker hl hg hk hin hones hzero).trans (runRows_marker (hmark.marker hl hone))
    exact congrArg Host.Outcome.next (runAt_ok hrun)
  case tolerated =>
    obtain ⟨hzero, hbit⟩ := split (by decide) hb
    have hrun := (hat.timeIncrP_marker hl hg hk hin hones hzero).trans
      (runRows_marker (hmark.marker_tolerated hl hbit hs))
    exact congrArg Host.Outcome.next (runAt_ok hrun)
  case refused =>
    obtain ⟨hzero, hbit⟩ := split (by decide) hb
    have hrun := (hat.timeIncrP_marker hl hg hk hin hones hzero).trans
      (runRows_marker_raises (hmark.marker_refused hl hbit hs))
    refine ⟨_, congrArg Host.Outcome.next (runAt_error hrun), ?_⟩
    rw [State.takeRaise_vop_failed (.invalid _)]
    exact ⟨rfl, rfl, rfl⟩
  case cut =>
    obtain ⟨u, hrun⟩ := hat.timeIncrP_cut hl hg hk hin hones hend
    refine ⟨_, congrArg Host.Outcome.next (runAt_error hrun), ?_⟩
    rw [State.takeRaise_vop_failed (.truncated _)]
    exact ⟨rfl, rfl, rfl⟩

/-! ## TI_HEAL -/

/-- The search stops at the first match from `p` up, or after its last candidate. -/
theorem State.healWidth_eq {fuel : Nat} (hp : p ≤ n) (hbefore : ∀ k, p ≤ k → k < n → s.healMatches k = false)
    (hn : n = p + fuel ∨ n < p + fuel ∧ s.healMatches n = true) : s.healWidth fuel p = n := by
  induction fuel generalizing p with
  | zero =>
    rw [State.healWidth]
    omega
  | succ fuel ih =>
    rw [State.healWidth]
    obtain rfl | hlt := Nat.eq_or_lt_of_le hp
    · obtain hend | ⟨_, hmatch⟩ := hn
      · omega
      · rw [if_pos hmatch]
    · rw [if_neg (Bool.eq_false_iff.1 (hbefore p le_rfl hlt))]
      exact ih hlt (fun k hk => hbefore k (by omega)) (hn.imp (fun h => by omega) (And.imp_left fun h => by omega))

/-- Settles O25: the pattern is the one TI_HEAL tests, so its search stops at the first width that meets it. -/
theorem tiHealTakesTheFirstWidth : Obligations.TiHealTakesTheFirstWidth := by
  unfold Obligations.TiHealTakesTheFirstWidth
  intro s n fits hn hbefore hend
  have hmatches (k : Nat) : s.healMatches k = true ↔ fits k := by
    have hrounding : s.hasRounding = true ↔ s.pic.pictType = .p ∨ (s.pic.pictType = .s ∧ s.seq.spriteUsage = 2) := by
      simp only [State.hasRounding, State.isGmc, spriteGmc, Bool.or_eq_true, Bool.and_eq_true, beq_iff_eq]
    simp only [State.healMatches, fits, hrounding, State.peek]
    split <;> exact beq_iff_eq
  have hwidth : s.healWidth 15 1 = n := by
    refine State.healWidth_eq hn (fun k hk hlt => ?_) (hend.imp id fun ⟨hlt, hfits⟩ => ⟨hlt, (hmatches n).2 hfits⟩)
    exact Bool.eq_false_iff.2 fun hk' => hbefore k hk hlt ((hmatches k).1 hk')
  have hfits : toU 5 (n : Int) = BitVec.ofNat 5 n := toU_nat (by omega)
  show Host.Outcome.next s.tiHeal = _
  rw [State.tiHeal, hwidth, hfits]
  rfl

end Sys2Proof.Machine
end

section
/-! The picture header as its precondition, its rows and its end (41_header_vop.md R180, R181, R199). -/

namespace Sys2Proof.Machine

variable {s u : State} {r : Raise}

/-- There is a sequence to decode a picture of (R181). -/
def State.hasVol (s : State) : Prop := s.seq.valid = true ∧ s.seq.width ≠ 0 ∧ s.seq.height ≠ 0

theorem State.not_hasVol : ¬s.hasVol ↔ s.seq.valid = false ∨ s.seq.width = 0 ∨ s.seq.height = 0 := by
  rw [State.hasVol, not_and_or, not_and_or, Bool.not_eq_true, not_not, not_not]

theorem vopPrecondition_met (h : s.hasVol) : vopPrecondition s = .ok () s := by
  rw [vopPrecondition, Parse.getState_bind, if_neg fun hbad => State.not_hasVol.2 hbad h]
  rfl

theorem vopPrecondition_fails (h : ¬s.hasVol) : vopPrecondition s = .error ⟨.fatalNoVol, .vop⟩ s := by
  rw [vopPrecondition, Parse.getState_bind, if_pos (State.not_hasVol.1 h)]
  rfl

/-- The rows of the picture header that CFG.GRAMMAR has. -/
def vopHeaderRows (c : Cfg) : Parse Unit := forEach (fun l => runLayout vopReader l) c.layout.vop

/-- The end of a header that failed nowhere: the picture start and the result (R199). -/
def State.vopEnd (s : State) : State :=
  ((s.pictureStart.updStatus fun t => { t with picValid := true }).post .ok).setFsm .sliceStart

/-- VOP over a sequence is its rows, and its end after them. -/
theorem vopP_rows (h : s.hasVol) : vopP s = (vopHeaderRows s.cfg >>= fun _ =>
    update State.pictureStart >>= fun _ =>
    update (fun s => s.updStatus (fun t => { t with picValid := true })) >>= fun _ =>
    finishOk .sliceStart : Parse Unit) s.vopStart := by
  rw [vopP, Parse.update_bind, Parse.bind_ok (vopPrecondition_met (s := s.vopStart) h), Parse.getState_bind]
  rfl

theorem execVop_ok (h : s.hasVol) (hrows : vopHeaderRows s.cfg s.vopStart = .ok () u) :
    exec .vop s = .next u.vopEnd := by
  have hrun : vopP s = .ok () u.vopEnd := by
    rw [vopP_rows h, Parse.bind_ok hrows]
    rfl
  exact congrArg Host.Outcome.next (runAt_ok hrun)

theorem execVop_raises (h : s.hasVol) (hrows : vopHeaderRows s.cfg s.vopStart = .error r u) :
    exec .vop s = .next (u.takeRaise .vopHeader r) := by
  have hrun : vopP s = .error r u := by rw [vopP_rows h, Parse.bind_error hrows]
  exact congrArg Host.Outcome.next (runAt_error hrun)

theorem execVop_noVol (h : ¬s.hasVol) :
    exec .vop s = .next (s.vopStart.takeRaise .vopHeader ⟨.fatalNoVol, .vop⟩) := by
  have hrun : vopP s = .error ⟨.fatalNoVol, .vop⟩ s.vopStart := by
    rw [vopP, Parse.update_bind, Parse.bind_error (vopPrecondition_fails (s := s.vopStart) h)]
  exact congrArg Host.Outcome.next (runAt_error hrun)

/-- Settles O28: the precondition fails before the first read, and its raise publishes the rows. -/
theorem vopWithoutVolIsFatal : Obligations.VopWithoutVolIsFatal := by
  unfold Obligations.VopWithoutVolIsFatal
  intro s hbad
  refine ⟨s.mbH, (execVop_noVol (State.not_hasVol.2 hbad)).trans ?_⟩
  rw [State.takeRaise_vop_failed (.inr rfl)]
  simp only [State.setFsm, State.updStatus, State.publishRow, State.updStores, State.recordRaise, State.vopStart,
    State.updPic, State.pos, State.mbH]

end Sys2Proof.Machine
end

section
/-! The first part of VOP up to the times of the picture, and the pictures that are skipped there (41_header_vop.md R182
to R192). -/

namespace Sys2Proof.Machine

variable {φ ε : Type} {g : Reader φ ε} {s t u : State} {env : Env VopField} {c n p v : Nat} {r : Raise}

/-! ## Rows -/

/-- A field whose width is a register's. -/
theorem ReadsAt.field_of_width (h : ReadsAt s p u) (hl : s.lenFits = true) {env : Env φ} {f : φ} {w : Width}
    (hw : u.widthOf w = n) (hv : s.bitsAre p n v = true) (ht : g.take f v (u.atBit (p + n)) = .ok () t) :
    runItem g env (.field f w) u = .ok (some { env with fields := (f, v) :: env.fields }) t := by
  subst hw
  exact h.field hl hv ht

/-- Bits passed over, whose number is a register's. -/
theorem ReadsAt.skip_of_width (h : ReadsAt s p u) (hl : s.lenFits = true) {env : Env φ} {w : Width}
    (hw : u.widthOf w = n) (hin : p + n ≤ s.endPos) : runItem g env (.skip w) u = .ok (some env) (u.atBit (p + n)) := by
  subst hw
  exact h.skip hl hin

/-- A guard of one condition that holds. -/
theorem guard_holds [DecidableEq φ] {env : Env φ} {c : Cond φ} (h : condHolds u env c = true) :
    [c].all (condHolds u env) = true := by
  rw [List.all_cons, h]
  rfl

/-- A guard of two conditions that hold. -/
theorem guard_both [DecidableEq φ] {env : Env φ} {c d : Cond φ} (h : condHolds u env c = true)
    (h' : condHolds u env d = true) : [c, d].all (condHolds u env) = true := by
  rw [List.all_cons, h]
  exact guard_holds h'

theorem condHolds_not_true [DecidableEq φ] {env : Env φ} {c : Cond φ} (h : condHolds u env c = false) :
    condHolds u env (.not c) = true := by
  rw [condHolds_not, h]
  rfl

theorem condHolds_not_false [DecidableEq φ] {env : Env φ} {c : Cond φ} (h : condHolds u env c = true) :
    condHolds u env (.not c) = false := by
  rw [condHolds_not, h]
  rfl

/-- A row of one act. -/
theorem leads_act [DecidableEq φ] {env : Env φ} {a : ε} (h : g.act a env u = .ok () t) :
    Leads g (always [.act a]) env u env t := .cons rfl (runItem_act h) .nil

/-! ## The picture type -/

/-- PIC with the picture type of code `c` (R182). -/
def State.withType (u : State) (c : Nat) : State := u.updPic fun q => { q with
  pictType := pictTypeOf (BitVec.ofNat 2 c)
  partitionedFrame := u.seq.dataPartitioning && pictTypeOf (BitVec.ofNat 2 c) != .b }

theorem pictTypeOf_eq_b : ∀ {c : Nat}, c < 4 → (pictTypeOf (BitVec.ofNat 2 c) = .b ↔ c = 2) := by decide

theorem ReadsAt.leads_vopType (h : ReadsAt s p u) (hl : s.lenFits = true) (hc : s.bitsAre p 2 c = true) :
    Leads vopReader (always [.field .type (.bits 2)]) env u ⟨(.type, c) :: env.fields, env.start⟩
      ((u.withType c).atBit (p + 2)) := by
  have hlt : c < 2 ^ 2 := (State.bitsAre_iff.1 hc).2 ▸ State.memRead_lt
  rw [State.withType, ← toU_nat hlt]
  exact .cons rfl (h.field hl hc rfl) .nil

/-- The condition of the repair of SEQ.low_delay (R183). -/
def lowDelayBroken : Cond VopField := .and (.reg .pictType 2) (.and (.reg .lowDelay 1) (.reg .volControl 0))

/-- SEQ.low_delay is repaired in a B picture only. -/
theorem leads_repairLowDelay : ∃ d, (u.pic.pictType ≠ .b → d = u.seq.lowDelay) ∧
    Leads vopReader (under lowDelayBroken (always [.act .repairLowDelay])) env u env
      (u.updSeq fun q => { q with lowDelay := d }) := by
  cases hc : condHolds u env lowDelayBroken with
  | false => exact ⟨u.seq.lowDelay, fun _ => rfl, .off hc⟩
  | true =>
    refine ⟨false, fun hb => absurd ?_ hb, .cons (guard_holds hc) (runItem_act rfl) .nil⟩
    have hcode : (pictTypeCode u.pic.pictType).toNat = 2 := by
      simp only [lowDelayBroken, condHolds_and, condHolds_reg, Bool.and_eq_true, beq_iff_eq] at hc
      exact hc.1
    cases ht : u.pic.pictType with
    | b => rfl
    | i | p | s =>
      rw [ht] at hcode
      cases hcode

/-! ## The time increment -/

/-- TIME_INCR with no unary part and its marker 1. -/
theorem ReadsAt.timeIncrP_none (h : ReadsAt s p u) (hl : s.lenFits = true)
    (hg : s.cfg.layout.timeIncr = Config.timeIncrRows) (hb : s.bitsAre p 2 1 = true) :
    timeIncrP u = .ok () ((u.updPic fun q => { q with timeIncr := 0 }).atBit (p + 2)) := by
  obtain ⟨hzero, hone⟩ := State.bitsAre_split (m := 1) (n := 1) hb
  obtain ⟨hin, _⟩ := State.bitsAre_iff.1 hb
  have hrun := h.timeIncrP_marker (k := 0) hl hg (by decide) (by omega) (fun j hj => absurd hj (Nat.not_lt_zero j)) hzero
  exact hrun.trans (runRows_marker ((((h.updPic _).atBit _)).marker hl hone))

/-- The marker after the time increment is present, so no width is healed (R185). -/
theorem ReadsAt.probeMarker_present (h : ReadsAt s p u) (hn : u.seq.timeIncrementBits.toNat = n) (hpos : 1 ≤ n)
    (hm : s.bitAt (p + n) = 1) : probeMarker u = .ok () u := by
  have hodd : s.memRead p (n + 1) % 2 = 1 := by
    rw [State.memRead, hm]
    omega
  have hpresent : u.markerAbsent = false := by
    simp only [State.markerAbsent, hn, h.peek, hodd, Bool.or_eq_false_iff, beq_eq_false_iff_ne]
    exact ⟨by omega, by decide⟩
  rw [probeMarker, Parse.getState_bind, hpresent]
  rfl

/-! ## Up to the times -/

/-- Rows of VOP without a condition. -/
abbrev vopAlways (l : List (Item VopField VopAct)) : List (Row VopField VopAct) := always l

/-- Rows of VOP under the condition `c`. -/
abbrev vopUnder (c : Cond VopField) (l : List (Item VopField VopAct)) : List (Row VopField VopAct) := under c (always l)

/-- The rows of VOP before its times (R182 to R187). -/
def vopLeadRows : List (Row VopField VopAct) :=
  vopAlways [.field .type (.bits 2)] ++ vopUnder lowDelayBroken [.act .repairLowDelay]
    ++ vopAlways [.act .timeIncr, .act .probe]
    ++ vopUnder (.reg .is3iv1 1) [.field .timeIncrement (.bits 1)]
    ++ vopUnder (.not (.reg .is3iv1 1)) [.field .timeIncrement .timeIncrement]

theorem vopStart_eq : Config.vopStart = vopLeadRows
    ++ vopAlways [.act .times, .marker .vopBeforeVopCoded, .field .vopCoded (.bits 1)]
    ++ vopUnder (.read .vopCoded 0) [.log .vopNotCoded, .act .notCoded] := rfl

/-- The state before the times of a picture of type code `c` and time increment `v`. -/
def State.beforeTimes (u : State) (c v : Nat) (d : Bool) : State :=
  ((u.withType c).updSeq fun q => { q with lowDelay := d }).updPic fun q => { q with
    timeIncr := 0, timeIncrement := BitVec.ofNat 16 v }

theorem ReadsAt.beforeTimes (h : ReadsAt s p u) (c v : Nat) (d : Bool) : ReadsAt s p (u.beforeTimes c v d) :=
  ⟨h.bs, h.len, h.cfg, h.pos⟩

/-- The rows before the times, with no unary part and each marker present. -/
theorem ReadsAt.leads_vopLead (h : ReadsAt s p u) (hl : s.lenFits = true)
    (hg : s.cfg.layout.timeIncr = Config.timeIncrRows) (hq : u.quirk .is3iv1 = false)
    (hn : u.seq.timeIncrementBits.toNat = n) (hn1 : 1 ≤ n) (hn16 : n ≤ 16) (hc : s.bitsAre p 2 c = true)
    (hb : s.bitsAre (p + 2) 2 1 = true) (hv : s.bitsAre (p + 4) n v = true) (hm : s.bitAt (p + 4 + n) = 1) :
    ∃ d, (c ≠ 2 → d = u.seq.lowDelay) ∧ Leads vopReader vopLeadRows env u
      ⟨(.timeIncrement, v) :: (.type, c) :: env.fields, env.start⟩ ((u.beforeTimes c v d).atBit (p + 4 + n)) := by
  have hc4 : c < 2 ^ 2 := (State.bitsAre_iff.1 hc).2 ▸ State.memRead_lt
  have hv16 : v < 2 ^ 16 := lt_of_lt_of_le ((State.bitsAre_iff.1 hv).2 ▸ State.memRead_lt)
    (Nat.pow_le_pow_right (by decide) hn16)
  have htype : ReadsAt s (p + 2) ((u.withType c).atBit (p + 2)) := (h.updPic _).atBit _
  obtain ⟨d, hd, hrepair⟩ := leads_repairLowDelay (u := (u.withType c).atBit (p + 2))
    (env := ⟨(.type, c) :: env.fields, env.start⟩)
  refine ⟨d, fun hne => hd fun hb => hne ((pictTypeOf_eq_b hc4).1 hb), ?_⟩
  have hincr : ReadsAt s (p + 4) _ := ((htype.updSeq fun q => { q with lowDelay := d }).updPic
    fun q => { q with timeIncr := 0 }).atBit (p + 4)
  rw [vopLeadRows, State.beforeTimes, ← toU_nat hv16]
  have hquirk {w : State} {env : Env VopField} (hw : w.ctrl = u.ctrl) : condHolds w env (.reg .is3iv1 1) = false := by
    have : w.quirk .is3iv1 = false := by rw [State.quirk, hw]; exact hq
    rw [condHolds_reg, State.headerReg, this]
    rfl
  have ltime : Leads vopReader (always [.act .timeIncr] ++ always [.act .probe])
      ⟨(.type, c) :: env.fields, env.start⟩ _ _ _ :=
    (leads_act ((htype.updSeq fun q => { q with lowDelay := d }).timeIncrP_none hl hg hb)).append
      (leads_act (hincr.probeMarker_present hn hn1 hm))
  exact ((((h.leads_vopType hl hc).append hrepair).append ltime).append (.off (hquirk rfl))).append
    (.cons (guard_holds (condHolds_not_true (hquirk rfl))) (hincr.field_of_width hl hn hv rfl) .nil)

/-! ## The times -/

theorem vopTimes_b (h : u.pic.pictType = .b) : vopTimes u = bTimes u := by
  rw [vopTimes, Parse.getState_bind, if_pos h]

theorem vopTimes_nonB (h : u.pic.pictType ≠ .b) : vopTimes u = .ok () u.nonBTime := by
  rw [vopTimes, Parse.getState_bind, if_neg h]
  rfl

/-- A B picture whose times are in the wrong order (R189). -/
theorem bTimes_inverted (h : u.bTime.bInverted = true) :
    bTimes u = .error ⟨.frameSkipped, .vopBTiming⟩ (u.bTime.log .bTiming) := by
  rw [bTimes, Parse.update_bind, Parse.getState_bind, h]
  rfl

theorem ReadsAt.bTime (h : ReadsAt s p u) : ReadsAt s p u.bTime := ⟨h.bs, h.len, h.cfg, h.pos⟩

theorem ReadsAt.nonBTime (h : ReadsAt s p u) : ReadsAt s p u.nonBTime := ⟨h.bs, h.len, h.cfg, h.pos⟩

/-- The times of a non-B picture, the marker and vop_coded (R188, R192). -/
theorem ReadsAt.leads_vopCoded (h : ReadsAt s p u) (hl : s.lenFits = true) (ht : u.pic.pictType ≠ .b) {b : Nat}
    (hm : s.bitsAre p 1 1 = true) (hb : s.bitsAre (p + 1) 1 b = true) :
    Leads vopReader (always [.act .times, .marker .vopBeforeVopCoded, .field .vopCoded (.bits 1)]) env u
      ⟨(.vopCoded, b) :: env.fields, env.start⟩
      ((u.nonBTime.updPic fun q => { q with vopCoded := b == 1 }).atBit (p + 2)) := by
  have hlt : b < 2 := (State.bitsAre_iff.1 hb).2 ▸ State.memRead_lt
  rw [← flagOf_bit hlt]
  exact .cons rfl (runItem_act (vopTimes_nonB ht)) (.cons rfl (h.nonBTime.mark hl hm)
    (.cons rfl ((h.nonBTime.atBit _).field hl hb rfl) .nil))

/-! ## Skipped pictures -/

/-- The rows of the default picture header raise where its first part does. -/
theorem vopHeaderRows_raises (hg : s.cfg.layout = Config.layout)
    (h : runRows vopReader Config.vopStart (.at u.pos) u = .error r t) : vopHeaderRows s.cfg u = .error r t := by
  rw [vopHeaderRows, hg]
  exact Parse.bind_error (m := runLayout vopReader Config.vopStart) h

/-- What a skipped picture leaves of the state `u` where its header raised. -/
def State.skippedAt (u : State) (tg : Tag) (p : Nat) : State := { u with
  fsm := .done
  status := { u.status with result := .frameSkipped, tag := tg, errpos := BitVec.ofNat 32 p } }

/-- VOP that skips its picture at bit `p`. -/
theorem ReadsAt.execVop_skipped (h : ReadsAt s p u) (hl : s.lenFits = true) (hp : p ≤ s.endPos) {tg : Tag}
    (hrun : exec .vop s = .next (u.takeRaise .vopHeader ⟨.frameSkipped, tg⟩)) :
    exec .vop s = .next (u.skippedAt tg p) := by
  have hpos : toU 32 (u.bitpos : Int) = BitVec.ofNat 32 p := by
    rw [h.pos]
    exact toU_nat (lt_of_le_of_lt hp (State.lenFits_iff.1 hl).2)
  rw [hrun, State.takeRaise_vop_skipped rfl, State.recordRaise, hpos]
  rfl

/-- A value inside the two's-complement range is read back from its signed register. -/
theorem toInt_toS32 {x : Int} (h : -2147483648 ≤ x) (h' : x < 2147483648) : (toS 32 x).toInt = x := by
  rw [toS_ofInt (by norm_num; omega) (by norm_num; omega),
    BitVec.toInt_ofInt_eq_self (by decide) (by norm_num; omega) (by norm_num; omega)]

/-- `u` at bit `q` with the condition `k` logged, SEQ.low_delay at `d`, and TIME and PIC rewritten by `f` and `g`. -/
def State.skips (u : State) (q : Nat) (d : Bool) (f : Time → Time) (g : Pic → Pic) (k : LogFlag) : State := { u with
  bitpos := q, seq := { u.seq with lowDelay := d }, time := f u.time, pic := g u.pic
  status := { u.status with log := u.status.log ||| k.mask } }

theorem ReadsAt.skips (h : ReadsAt s p u) (q : Nat) (d : Bool) (f : Time → Time) (g : Pic → Pic) (k : LogFlag) :
    ReadsAt s q (u.skips q d f g k) := ⟨h.bs, h.len, h.cfg, rfl⟩

/-- The state before the times, at bit `q`, is PIC rewritten by some `g` that leaves the type of code `c`. -/
theorem State.beforeTimes_writes (u : State) (c v : Nat) (d : Bool) :
    ∃ g : Pic → Pic, (∀ r, (g r).pictType = pictTypeOf (BitVec.ofNat 2 c))
      ∧ u.beforeTimes c v d = (u.updSeq fun r => { r with lowDelay := d }).updPic g := by
  rw [State.beforeTimes, State.withType]
  exact ⟨fun r => { r with
    pictType := pictTypeOf (BitVec.ofNat 2 c)
    partitionedFrame := u.seq.dataPartitioning && pictTypeOf (BitVec.ofNat 2 c) != .b
    timeIncr := 0, timeIncrement := BitVec.ofNat 16 v }, fun _ => rfl, rfl⟩

/-- The times of a non-B picture write TIME and PIC alone. -/
theorem State.nonBTime_writes (u : State) : ∃ f g, u.nonBTime = (u.updTime f).updPic g := by
  rw [State.nonBTime]
  exact ⟨_, _, rfl⟩

/-- The times of a B picture, before its field times, write PIC alone, and not its type. -/
theorem State.bTime_writes (u : State) : ∃ g, u.bTime = u.updPic g ∧ ∀ q, (g q).pictType = q.pictType := by
  rw [State.bTime]
  exact ⟨_, rfl, fun _ => rfl⟩

section Skips

variable (h : ReadsAt s p u) (hl : s.lenFits = true) (hg : s.cfg.layout.timeIncr = Config.timeIncrRows)
  (hq : u.quirk .is3iv1 = false) (hn : u.seq.timeIncrementBits.toNat = n) (hn1 : 1 ≤ n) (hn16 : n ≤ 16)
  (hc : s.bitsAre p 2 c = true) (hb : s.bitsAre (p + 2) 2 1 = true) (hv : s.bitsAre (p + 4) n v = true)

include h hl hg hq hn hn1 hn16 hc hb hv

/-- A picture that is not coded is skipped after its vop_coded bit. -/
theorem ReadsAt.runRows_notCoded (hne : c ≠ 2) (hbits : s.bitsAre (p + 4 + n) 2 2 = true) :
    ∃ f g, (∀ r, (g r).vopCoded = false) ∧ runRows vopReader Config.vopStart (.at p) u
      = .error ⟨.frameSkipped, .vopNotCoded⟩ (u.skips (p + 4 + n + 2) u.seq.lowDelay f g .vopNotCoded) := by
  have hc4 : c < 2 ^ 2 := (State.bitsAre_iff.1 hc).2 ▸ State.memRead_lt
  obtain ⟨hm, hcoded⟩ := State.bitsAre_split (m := 1) (n := 1) hbits
  obtain ⟨d, hd, hlead⟩ := h.leads_vopLead (env := .at p) hl hg hq hn hn1 hn16 hc hb hv
    (State.memRead_one.symm.trans (State.bitsAre_iff.1 hm).2)
  obtain rfl := hd hne
  have hat := (h.beforeTimes c v u.seq.lowDelay).atBit (p + 4 + n)
  have hnb : pictTypeOf (BitVec.ofNat 2 c) ≠ .b := fun hb => hne ((pictTypeOf_eq_b hc4).1 hb)
  have hrows := hlead.append (hat.leads_vopCoded hl hnb hm hcoded)
  obtain ⟨f, g, htimes⟩ := State.nonBTime_writes ((u.beforeTimes c v u.seq.lowDelay).atBit (p + 4 + n))
  obtain ⟨g₀, _, hbefore⟩ := u.beforeTimes_writes c v u.seq.lowDelay
  rw [htimes, hbefore] at hrows
  refine ⟨f, fun r => { g (g₀ r) with vopCoded := false }, fun _ => rfl, ?_⟩
  rw [vopStart_eq]
  refine hrows.followedBy ?_
  exact (runRows_run (g := vopReader) (r := ⟨[.read .vopCoded 0], .log .vopNotCoded⟩) rfl runItem_log).trans
    (runRows_raise (g := vopReader) (r := ⟨[.read .vopCoded 0], .act .notCoded⟩) rfl (runItem_act_raises rfl))

/-- A B picture whose times are in the wrong order is skipped before its marker. -/
theorem ReadsAt.runRows_outOfOrder (h2 : c = 2) (hm : s.bitsAre (p + 4 + n) 1 1 = true)
    (hbad : ∀ d, ((u.beforeTimes 2 v d).atBit (p + 4 + n)).bTime.bInverted = true) :
    ∃ d g, (∀ r, (g r).pictType = .b) ∧ runRows vopReader Config.vopStart (.at p) u
      = .error ⟨.frameSkipped, .vopBTiming⟩ (u.skips (p + 4 + n) d (fun m => m) g .bTiming) := by
  subst h2
  obtain ⟨d, _, hlead⟩ := h.leads_vopLead (env := .at p) hl hg hq hn hn1 hn16 hc hb hv
    (State.memRead_one.symm.trans (State.bitsAre_iff.1 hm).2)
  have htimes := (vopTimes_b rfl).trans (bTimes_inverted (hbad d))
  obtain ⟨g, hwrites, hkept⟩ := State.bTime_writes ((u.beforeTimes 2 v d).atBit (p + 4 + n))
  obtain ⟨g₀, htype, hbefore⟩ := u.beforeTimes_writes 2 v d
  rw [hwrites, hbefore] at htimes
  rw [hbefore] at hlead
  refine ⟨d, fun r => g (g₀ r), fun r => (hkept _).trans (htype r), ?_⟩
  rw [vopStart_eq, List.append_assoc]
  exact hlead.raises (gs := []) rfl (runItem_act_raises (g := vopReader) (a := VopAct.times) htimes)

end Skips

/-- The times of a B picture are out of order when the three tests of R189 on the distances say so. -/
theorem State.bInverted_of {pp pb : Int} (hi : u.pic.timeIncr = 0) (hv : u.pic.timeIncrement.toNat = v)
    (hpp : u.time.ppTime.toInt = pp)
    (hpb : pp - (u.time.lastNonBTime.toInt
      - (u.time.lastTimeBase.toInt * u.seq.timeIncrementResolution.toNat + v)) = pb)
    (hlow : -2147483648 ≤ pb) (hhigh : pb < 2147483648) (h : pp ≤ pb ∨ pp ≤ pp - pb ∨ pp ≤ 0) :
    u.bTime.bInverted = true := by
  have hdist : u.bTime.pic.pbTime.toInt = pb := by
    have hzero : u.pic.timeIncr.toNat = 0 := by
      rw [hi]
      rfl
    simp only [State.bTime, State.updPic, hzero, hv, hpp, Nat.cast_zero, add_zero, hpb]
    exact toInt_toS32 hlow hhigh
  have hfirst : u.bTime.pic.ppTime.toInt = pp := hpp
  simp only [State.bInverted, hdist, hfirst, Bool.or_eq_true, decide_eq_true_eq]
  tauto

/-- Settles O27: the rows up to the times, then the marker and vop_coded, or the test of the B picture's times. -/
theorem vopSkipsTheFrame : Obligations.VopSkipsTheFrame := by
  unfold Obligations.VopSkipsTheFrame
  intro s hl hg p n v hvalid hw hh hq hn1 hn16 hb
  have hvol : s.hasVol := ⟨hvalid, hw, hh⟩
  have h0 : ReadsAt s p s.vopStart := ⟨rfl, rfl, rfl, rfl⟩
  have hgt : s.cfg.layout.timeIncr = Config.timeIncrRows := by
    rw [hg]
    rfl
  obtain ⟨hbin, _⟩ := State.bitsAre_iff.1 hb
  have htype : s.bitsAre p 2 (s.memRead p 2) = true := State.bitsAre_memRead (by omega)
  refine ⟨?notCoded, ?timing⟩
  case notCoded =>
    intro hne hbits
    obtain ⟨hin, _⟩ := State.bitsAre_iff.1 hbits
    obtain ⟨f, g, hcoded, hrows⟩ := h0.runRows_notCoded (n := n) hl hgt hq rfl hn1 hn16 htype hb (v := v)
      (State.bitsAre_memRead (by omega)) hne hbits
    rw [show p + 4 + n + 2 = p + 6 + n by omega] at hrows
    have hend := (h0.skips (p + 6 + n) _ f g _).execVop_skipped hl (by omega)
      (execVop_raises hvol (vopHeaderRows_raises hg hrows))
    exact ⟨_, hend, rfl, rfl, hcoded _, rfl, rfl, rfl, rfl⟩
  case timing =>
    intro heq hm pp pb hhigh hlow hinv
    obtain ⟨hin, _⟩ := State.bitsAre_iff.1 hm
    have hv16 : (BitVec.ofNat 16 v).toNat = v := by
      have hlt : v < 2 ^ n := State.memRead_lt
      exact Nat.mod_eq_of_lt (lt_of_lt_of_le hlt (Nat.pow_le_pow_right (by decide) hn16))
    have hbad (d : Bool) : ((s.vopStart.beforeTimes 2 v d).atBit (p + 4 + n)).bTime.bInverted = true :=
      State.bInverted_of (pp := pp) (pb := pb) rfl hv16 rfl rfl hlow hhigh hinv
    obtain ⟨d, g, hb, hrows⟩ := h0.runRows_outOfOrder (n := n) hl hgt hq rfl hn1 hn16 htype hb (v := v)
      (State.bitsAre_memRead (by omega)) heq hm hbad
    have hend := (h0.skips (p + 4 + n) d _ g _).execVop_skipped hl (by omega)
      (execVop_raises hvol (vopHeaderRows_raises hg hrows))
    exact ⟨_, hend, rfl, rfl, hb _, rfl, rfl, rfl, rfl, rfl⟩

end Sys2Proof.Machine
end

section
/-! VOP of a coded I picture of a rectangular progressive sequence (41_header_vop.md R180 to R200), step by step. -/

namespace Sys2Proof.Machine

variable {s t u : State} {env : Env VopField} {n p q v : Nat}

/-! ## Registers the rows ask for -/

/-- An I picture of a rectangular progressive sequence without newpred fields, trash bits or a scalability tail. -/
structure State.PlainIntra (u : State) : Prop where
  pictType : u.pic.pictType = .i
  shape : u.seq.shape = 0
  newPred : u.seq.newPred = false
  trashI : u.seq.trashI = 0
  interlaced : u.seq.interlaced = false
  scalability : u.seq.scalability = false

namespace State.PlainIntra

/-- Steps that leave SEQ and the picture type alone. -/
theorem of_eq (h : u.PlainIntra) (hs : t.seq = u.seq) (hp : t.pic.pictType = u.pic.pictType) : t.PlainIntra := by
  obtain ⟨h1, h2, h3, h4, h5, h6⟩ := h
  rw [← hs] at h2 h3 h4 h5 h6
  exact ⟨hp.trans h1, h2, h3, h4, h5, h6⟩

theorem atBit (h : u.PlainIntra) (q : Nat) : (u.atBit q).PlainIntra := h.of_eq rfl rfl

theorem condHolds_notBinOnly (h : u.PlainIntra) : condHolds u env Config.notBinOnly = true := by
  simp [Config.notBinOnly, State.headerReg, h.shape]

theorem condHolds_rect (h : u.PlainIntra) : condHolds u env (.reg .shape 0) = true := by
  simp [State.headerReg, h.shape]

theorem condHolds_intra (h : u.PlainIntra) : condHolds u env (.reg .pictType 0) = true := by
  simp [State.headerReg, h.pictType, pictTypeCode]

theorem condHolds_type (h : u.PlainIntra) {k : Nat} (hk : k ≠ 0) : condHolds u env (.reg .pictType k) = false := by
  simp [State.headerReg, h.pictType, pictTypeCode, hk.symm]

theorem condHolds_notB (h : u.PlainIntra) : condHolds u env (.reg .pictType 2) = false := h.condHolds_type (by decide)

theorem condHolds_newPred (h : u.PlainIntra) : condHolds u env (.reg .newPred 1) = false := by
  simp [State.headerReg, h.newPred]

theorem condHolds_interlaced (h : u.PlainIntra) : condHolds u env (.reg .interlaced 1) = false := by
  simp [State.headerReg, h.interlaced]

theorem condHolds_scalability (h : u.PlainIntra) : condHolds u env (.reg .scalability 0) = true := by
  simp [State.headerReg, h.scalability]

/-- A picture without a rounding bit. -/
theorem condHolds_rounding (h : u.PlainIntra) : condHolds u env (.and Config.notBinOnly Config.hasRounding) = false := by
  rw [condHolds_and, Config.hasRounding, condHolds_or, condHolds_and, h.condHolds_type (by decide),
    h.condHolds_type (by decide), Bool.false_and, Bool.or_false, Bool.and_false]

end State.PlainIntra

/-! ## The times -/

/-- The time of a non-B picture without a unary part and outside UMP4 (R188). -/
theorem State.nonBTime_eq (hq : u.quirk .ump4 = false) (hi : u.pic.timeIncr = 0) (hv : u.pic.timeIncrement.toNat = v) :
    let time : Int := u.time.timeBase.toInt * u.seq.timeIncrementResolution.toNat + v
    let pp : BitVec 32 := BitVec.ofInt 32 (time - u.time.lastNonBTime.toInt)
    u.nonBTime = (u.updTime fun m => { m with
        lastTimeBase := m.timeBase, ppTime := pp, lastNonBTime := BitVec.ofInt 64 time }).updPic fun q => { q with
        time := BitVec.ofInt 64 time, ppTime := pp } := by
  intro time pp
  have hincr : u.pic.timeIncr.toNat = 0 := by
    rw [hi]
    rfl
  have hv16 : v < 65536 := hv ▸ u.pic.timeIncrement.isLt
  have hres : u.seq.timeIncrementResolution.toNat < 65536 := u.seq.timeIncrementResolution.isLt
  have hbase := BitVec.toInt_lt (x := u.time.timeBase)
  have hbase' := BitVec.le_toInt u.time.timeBase
  have hmul := Int.mul_le_mul_of_nonneg_right (a := u.time.timeBase.toInt) (b := 2147483648)
    (c := u.seq.timeIncrementResolution.toNat) (by omega) (by omega)
  have hmul' := Int.mul_le_mul_of_nonneg_right (a := -2147483648) (b := u.time.timeBase.toInt)
    (c := u.seq.timeIncrementResolution.toNat) (by omega) (by omega)
  have hlow : -(2 ^ 64) ≤ 2 * time := by omega
  have hhigh : 2 * time < 2 ^ 64 := by omega
  have hkept : toS 32 u.time.timeBase.toInt = u.time.timeBase := by
    rw [toS_ofInt (by omega) (by omega), BitVec.ofInt_toInt]
  simp only [State.nonBTime, hq, hincr, hv, Bool.false_and, Nat.cast_zero, add_zero, Bool.false_eq_true, if_false, hkept]
  rw [toS_ofInt hlow hhigh]
  rfl

/-! ## Steps 8 to 15 -/

/-- The state after step 8. -/
def State.afterRounding (u : State) : State := u.updPic fun q => { q with noRounding := false }

/-- The state at bit `p` after steps 9 and 10, with the threshold index `v`. -/
def State.afterThreshold (u : State) (v p : Nat) : State := (u.updPic fun q => { q with
  intraDcThreshold := ([99, 13, 15, 17, 19, 21, 23, 0] : List (BitVec 7)).getD v 0
  topFieldFirst := false, alternateScan := false }).atBit p

/-- The state at bit `p` after steps 11 to 13, with the quantiser `v`. -/
def State.afterRanges (u : State) (v p : Nat) : State := (u.updPic fun q => { q with
  qscale := BitVec.ofNat 9 v, chromaQscale := BitVec.ofNat 9 v, fCode := 1, bCode := 1 }).atBit p

theorem State.PlainIntra.afterRounding (h : u.PlainIntra) : u.afterRounding.PlainIntra := h.of_eq rfl rfl

theorem State.PlainIntra.afterThreshold (h : u.PlainIntra) (v p : Nat) : (u.afterThreshold v p).PlainIntra :=
  h.of_eq rfl rfl

theorem State.PlainIntra.afterRanges (h : u.PlainIntra) (v p : Nat) : (u.afterRanges v p).PlainIntra := h.of_eq rfl rfl

/-- Step 8, no newpred fields, rounding bit or geometry (R193). -/
theorem State.PlainIntra.vopRounding (h : u.PlainIntra) : runLayout vopReader Config.vopRounding u
    = .ok () u.afterRounding :=
  Leads.runLayout_eq (.append (.append (.append (.off h.condHolds_newPred) (.off h.condHolds_rounding))
    (.cons (guard_holds (condHolds_not_true h.condHolds_rounding)) (runItem_put rfl) .nil))
    (.off (condHolds_not_false h.afterRounding.condHolds_rect)))

/-- DCTHR has an entry for each 3-bit index (R195). -/
theorem dcThreshold_eq : ∀ {i : Nat}, i < 8 → dcThreshold i
    = ([99, 13, 15, 17, 19, 21, 23, 0] : List (BitVec 7)).getD i 0 := by
  intro i hi
  interval_cases i <;> rfl

/-- Steps 9 and 10, no trash bits, the DC threshold, no interlace bits (R194, R195). -/
theorem ReadsAt.vopThreshold (h : ReadsAt s p u) (hl : s.lenFits = true) (hu : u.PlainIntra)
    (hv : s.bitsAre p 3 v = true) : runLayout vopReader Config.vopThreshold u = .ok () (u.afterThreshold v (p + 3)) := by
  have hlt : v < 2 ^ 3 := (State.bitsAre_iff.1 hv).2 ▸ State.memRead_lt
  obtain ⟨hin, _⟩ := State.bitsAre_iff.1 hv
  have hskip : u.widthOf (.trash .i) = 0 := by
    rw [State.widthOf_trash, State.trashOf, hu.trashI]
    rfl
  have hstart : ReadsAt s p (u.atBit (p + 0)) := h.atBit _
  have hstart' : (u.atBit (p + 0)).PlainIntra := hu.of_eq rfl rfl
  have hbin {w : State} {e : Env VopField} (hs : w.seq = u.seq) (hp : w.pic.pictType = u.pic.pictType) :=
    State.PlainIntra.condHolds_notBinOnly (env := e) (hu.of_eq hs hp)
  have hprog {w : State} {e : Env VopField} (hs : w.seq = u.seq) (hp : w.pic.pictType = u.pic.pictType) :=
    State.PlainIntra.condHolds_interlaced (env := e) (hu.of_eq hs hp)
  rw [State.afterThreshold, ← dcThreshold_eq hlt]
  exact Leads.runLayout_eq (.under_append (.under_append (.under_append (.under_append (.under_append
    (.cons (guard_holds hu.condHolds_notBinOnly) (h.skip_of_width hl hskip (by omega)) .nil)
    (.off_inner (condHolds_not_false hstart'.condHolds_intra)))
    (.off_inner (hstart'.condHolds_type (by decide))))
    (.cons (guard_holds hstart'.condHolds_notBinOnly) (hstart.need hin)
      (.cons (guard_holds hstart'.condHolds_notBinOnly) (hstart.field hl hv rfl) .nil)))
    (.off_inner (hprog rfl rfl)))
    (.cons (guard_both (hbin rfl rfl) (condHolds_not_true (hprog rfl rfl))) (runItem_put rfl)
      (.cons (guard_both (hbin rfl rfl) (condHolds_not_true (hprog rfl rfl))) (runItem_put rfl) .nil)))

/-- A quantiser that is not 0 (R197). -/
theorem takeQuant_pos (hv : v ≠ 0) (hlt : v < 2 ^ 9) : takeQuant v u = .ok () (u.setQscale (BitVec.ofNat 9 v)) := by
  rw [takeQuant, if_neg hv, toU_nat hlt]
  rfl

/-- Steps 11 to 13, the quantiser alone (R196 to R198). -/
theorem ReadsAt.vopRanges (h : ReadsAt s p u) (hl : s.lenFits = true) (hu : u.PlainIntra)
    (hn : u.seq.quantPrecision.toNat = n) (hn9 : n ≤ 9) (hv : s.bitsAre p n v = true) (hv0 : v ≠ 0) :
    runLayout vopReader Config.vopRanges u = .ok () (u.afterRanges v (p + n)) := by
  have hlt : v < 2 ^ 9 := lt_of_lt_of_le ((State.bitsAre_iff.1 hv).2 ▸ State.memRead_lt)
    (Nat.pow_le_pow_right (by decide) hn9)
  have hintra {w : State} {e : Env VopField} (hs : w.seq = u.seq) (hp : w.pic.pictType = u.pic.pictType) :=
    State.PlainIntra.condHolds_intra (env := e) (hu.of_eq hs hp)
  have hnotB {w : State} {e : Env VopField} (hs : w.seq = u.seq) (hp : w.pic.pictType = u.pic.pictType) :=
    State.PlainIntra.condHolds_notB (env := e) (hu.of_eq hs hp)
  exact Leads.runLayout_eq (.append (.append (.append (.append (.append
    (.off (hu.condHolds_type (by decide)))
    (.cons (guard_holds hu.condHolds_notBinOnly) (h.field_of_width hl hn hv (takeQuant_pos hv0 hlt)) .nil))
    (.off (condHolds_not_false (hintra rfl rfl))))
    (.cons (guard_holds (hintra rfl rfl)) (runItem_put rfl) .nil))
    (.off (hnotB rfl rfl)))
    (.cons (guard_holds (condHolds_not_true (hnotB rfl rfl))) (runItem_put rfl) .nil))

/-- Step 15, no tail (R200). -/
theorem State.PlainIntra.vopTail (h : u.PlainIntra) : runLayout vopReader Config.vopTail u = .ok () u := by
  have hskip : condHolds u (.at u.pos : Env VopField)
      (.and (.reg .scalability 0) (.and (.not (.reg .shape 0)) (.not (.reg .pictType 0)))) = false := by
    rw [condHolds_and, condHolds_and, condHolds_not_false h.condHolds_rect, Bool.false_and, Bool.and_false]
  exact Leads.runLayout_eq (.under_append (.off_inner hskip) (.off_inner (condHolds_not_false h.condHolds_scalability)))

/-! ## The picture start -/

/-- The picture start of a textured I picture: what its header does not carry is at its reset value (R199). -/
theorem State.PlainIntra.pictureStart (h : u.PlainIntra) : u.pictureStart = { u with
    stores := Stores.initial
    slice := { Slice.reset with firstSliceLine := true }
    eng := { u.eng with failed := [] }
    pic := { u.pic with
      pbTime := 0, ppFieldTime := 0, pbFieldTime := 0, spriteTraj := Quad.all (Vec.zero 16)
      spriteOffsetLuma := IVec.zero, spriteOffsetChroma := IVec.zero
      spriteDeltaX := IVec.zero, spriteDeltaY := IVec.zero
      spriteShiftLuma := 0, spriteShiftChroma := 0, realSpriteWarpingPoints := 0 } } := by
  have hpict : (u.clearPicture).pic.pictType = .i := h.pictType
  have hshape : (u.clearPicture).seq.shape = 0 := h.shape
  simp only [State.pictureStart, State.clearUncarried, hpict, hshape]
  rfl

/-! ## The whole header -/

/-- The rows of the default picture header, part by part. -/
theorem vopHeaderRows_ok (hg : s.cfg.layout = Config.layout) {u₁ u₂ u₃ u₄ : State}
    (h₁ : runLayout vopReader Config.vopStart u = .ok () u₁) (h₂ : runLayout vopReader Config.vopRounding u₁ = .ok () u₂)
    (h₃ : runLayout vopReader Config.vopThreshold u₂ = .ok () u₃)
    (h₄ : runLayout vopReader Config.vopRanges u₃ = .ok () u₄) (h₅ : runLayout vopReader Config.vopTail u₄ = .ok () t) :
    vopHeaderRows s.cfg u = .ok () t := by
  rw [vopHeaderRows, hg]
  exact (Parse.bind_ok h₁).trans ((Parse.bind_ok h₂).trans ((Parse.bind_ok h₃).trans ((Parse.bind_ok h₄).trans
    (Parse.bind_ok h₅))))

/-- The state at bit `q` after steps 1 to 7 of a coded I picture of time increment `v`. -/
def State.codedIntra (u : State) (v q : Nat) : State :=
  ((u.beforeTimes 0 v u.seq.lowDelay).nonBTime.updPic fun r => { r with vopCoded := true }).atBit q

/-- The state before the times of an I picture of time increment `v`. -/
def State.intraBeforeTimes (u : State) (v : Nat) : State := u.updPic fun r => { r with
  pictType := .i, partitionedFrame := u.seq.dataPartitioning, timeIncr := 0, timeIncrement := BitVec.ofNat 16 v }

theorem State.beforeTimes_intra : u.beforeTimes 0 v u.seq.lowDelay = u.intraBeforeTimes v :=
  congrArg (fun b => u.updPic fun r => { r with
    pictType := .i, partitionedFrame := b, timeIncr := 0, timeIncrement := BitVec.ofNat 16 v }) (Bool.and_true _)

/-- The registers that the first steps of a coded I picture write (R182 to R192). -/
theorem State.codedIntra_eq (hq : u.quirk .ump4 = false) (hv : (BitVec.ofNat 16 v).toNat = v) :
    let time : Int := u.time.timeBase.toInt * u.seq.timeIncrementResolution.toNat + v
    let pp : BitVec 32 := BitVec.ofInt 32 (time - u.time.lastNonBTime.toInt)
    u.codedIntra v q = { u with
      bitpos := q
      time := { u.time with lastTimeBase := u.time.timeBase, ppTime := pp, lastNonBTime := BitVec.ofInt 64 time }
      pic := { u.pic with
        pictType := .i, partitionedFrame := u.seq.dataPartitioning, timeIncr := 0, timeIncrement := BitVec.ofNat 16 v
        time := BitVec.ofInt 64 time, ppTime := pp, vopCoded := true } } := by
  intro time pp
  rw [State.codedIntra, State.beforeTimes_intra, State.nonBTime_eq (u := u.intraBeforeTimes v) hq rfl hv]
  simp only [State.intraBeforeTimes, State.updPic_time, State.updPic_seq]
  rfl

theorem ReadsAt.codedIntra (h : ReadsAt s p u) (v q : Nat) : ReadsAt s q (u.codedIntra v q) :=
  ((h.beforeTimes 0 v u.seq.lowDelay).nonBTime.updPic _).atBit q

/-- Steps 1 to 7 of a coded I picture, with no unary part and each marker present (R182 to R192). -/
theorem ReadsAt.vopStart_intra (h : ReadsAt s p u) (hl : s.lenFits = true)
    (hg : s.cfg.layout.timeIncr = Config.timeIncrRows) (hq : u.quirk .is3iv1 = false)
    (hn : u.seq.timeIncrementBits.toNat = n) (hn1 : 1 ≤ n) (hn16 : n ≤ 16) (hb : s.bitsAre p 4 1 = true)
    (hv : s.bitsAre (p + 4) n v = true) (hm : s.bitsAre (p + 4 + n) 2 3 = true) :
    runLayout vopReader Config.vopStart u = .ok () (u.codedIntra v (p + 6 + n)) := by
  obtain ⟨htype, hnone⟩ := State.bitsAre_split (m := 2) (n := 2) hb
  obtain ⟨hmark, hcoded⟩ := State.bitsAre_split (m := 1) (n := 1) hm
  obtain ⟨hin, hm1⟩ := State.bitsAre_iff.1 hmark
  obtain ⟨d, hd, hlead⟩ := h.leads_vopLead (env := .at p) hl hg hq hn hn1 hn16 htype hnone hv
    (State.memRead_one.symm.trans hm1)
  obtain rfl := hd (by decide)
  have hat := (h.beforeTimes 0 v u.seq.lowDelay).atBit (p + 4 + n)
  have hintra : pictTypeOf (BitVec.ofNat 2 0) ≠ .b := by decide
  have hrows := (hlead.append (hat.leads_vopCoded hl hintra hmark hcoded)).append
    (.off (c := .read .vopCoded 0) (l := always [.log .vopNotCoded, .act .notCoded]) rfl)
  rw [runLayout_apply, show u.pos = p from h.pos, show p + 6 + n = p + 4 + n + 2 by omega]
  exact hrows.runRows_eq

/-- Settles O26: the five parts of the header one after the other, then the picture start. -/
theorem vopStartsAnIntraPicture : Obligations.VopStartsAnIntraPicture := by
  unfold Obligations.VopStartsAnIntraPicture
  intro s hl hg p n v q time hvalid hw hh hnew hshape htrash hinter hscal hq hump hn1 hn16 hprec hb hm hin hq0
  have hvol : s.hasVol := ⟨hvalid, hw, hh⟩
  have h0 : ReadsAt s p s.vopStart := ⟨rfl, rfl, rfl, rfl⟩
  have hgt : s.cfg.layout.timeIncr = Config.timeIncrRows := by
    rw [hg]
    rfl
  have read (a k : Nat) (ha : a + k ≤ p + 9 + n + s.seq.quantPrecision.toNat) :
      s.bitsAre a k (s.memRead a k) = true := State.bitsAre_memRead (by omega)
  have h1 := h0.vopStart_intra (n := n) (v := v) hl hgt hq rfl hn1 hn16 hb (read _ _ (by omega)) hm
  have p1 : (s.vopStart.codedIntra v (p + 6 + n)).PlainIntra := ⟨rfl, hshape, hnew, htrash, hinter, hscal⟩
  have r1 := h0.codedIntra v (p + 6 + n)
  have h2 := p1.vopRounding
  have p2 := p1.afterRounding
  have r2 : ReadsAt s (p + 6 + n) (s.vopStart.codedIntra v (p + 6 + n)).afterRounding := r1.updPic _
  have h3 := r2.vopThreshold hl p2 (read (p + 6 + n) 3 (by omega))
  have p3 := p2.afterThreshold (s.memRead (p + 6 + n) 3) (p + 9 + n)
  have r3 : ReadsAt s (p + 9 + n) (State.afterThreshold _ (s.memRead (p + 6 + n) 3) (p + 9 + n)) :=
    (r2.updPic _).atBit _
  rw [show p + 6 + n + 3 = p + 9 + n by omega] at h3
  have h4 := r3.vopRanges hl p3 rfl hprec (read _ _ le_rfl) hq0
  have h5 := (p3.afterRanges q (p + 9 + n + s.seq.quantPrecision.toNat)).vopTail
  rw [execVop_ok hvol (vopHeaderRows_ok hg h1 h2 h3 h4 h5), State.vopEnd,
    State.PlainIntra.pictureStart (p3.afterRanges _ _)]
  have hv16 : (BitVec.ofNat 16 v).toNat = v := by
    have hlt : v < 2 ^ n := State.memRead_lt
    exact Nat.mod_eq_of_lt (lt_of_lt_of_le hlt (Nat.pow_le_pow_right (by decide) hn16))
  rw [State.codedIntra_eq (u := s.vopStart) hump hv16]
  rfl

end Sys2Proof.Machine
end

section
/-! The frame of VOP in every form (41_header_vop.md R180 to R200, 60_exceptions.md R384): what its rows keep of State,
said once for every property that their kinds of write leave alone. -/

namespace Sys2Proof.Machine

variable {α φ ε : Type} {P : State → Prop} {s t u : State} {r : Raise}

/-! ## What the rows of a picture header keep -/

/-- A property of State that no write of a picture header changes, but for that of the picture type: TIME as a whole is
written in a non-B picture only. -/
structure VopBlind (P : State → Prop) : Prop where
  pos : ∀ s p, P s → P (s.setPos p)
  log : ∀ s f, P s → P (s.log f)
  pic : ∀ s f, (∀ q, (f q).pictType = q.pictType ∧ (f q).tiHealed = q.tiHealed) → P s → P (s.updPic f)
  lowDelay : ∀ s, P s → P (s.updSeq fun q => { q with lowDelay := false })
  tiHeal : ∀ s, P s → P s.tiHeal
  time : ∀ s f, s.pic.pictType ≠ .b → P s → P (s.updTime f)
  tFrame : ∀ s v, P s → P (s.updTime fun m => { m with tFrame := v })

/-- The field that an item takes. -/
def fieldTaken : Item φ ε → Option φ
  | .field f _ => some f
  | .put f _ => some f
  | .skip _ => none
  | .mark => none
  | .marker _ => none
  | .log _ => none
  | .need _ => none
  | .act _ => none
  | .leave => none

namespace VopBlind

theorem forward (h : VopBlind P) (s : State) (q : Nat) (hs : P s) (_ : s.pos ≤ q) (_ : q ≤ s.endPos) :
    P (s.setPos q) := h.pos s q hs

theorem getBits (h : VopBlind P) {e : Raise} {n : Nat} : KeepsAny P (getBits e n) := .getBits h.forward trivial

theorem getFlag (h : VopBlind P) {e : Raise} : KeepsAny P (getFlag e) := .getFlag h.forward trivial

theorem skipBits (h : VopBlind P) {e : Raise} {n : Nat} : KeepsAny P (skipBits e n) := .skipBits h.forward trivial

theorem marker (h : VopBlind P) {e : Raise} : KeepsAny P (marker e) := .marker h.forward h.log trivial trivial

theorem logBit (h : VopBlind P) {f : LogFlag} : KeepsAny P (logBit f) := .update fun u => h.log u f

/-- A rewrite of PIC that leaves the type and PIC.ti_healed alone. -/
theorem putPic (h : VopBlind P) {f : Pic → Pic} (hf : ∀ q, (f q).pictType = q.pictType ∧ (f q).tiHealed = q.tiHealed) :
    KeepsAny P (putPic f) := .update fun u => h.pic u f hf

/-- An item keeps what its field and its act keep. -/
theorem runItem (h : VopBlind P) {g : Reader φ ε} {i : Item φ ε}
    (ht : ∀ f, fieldTaken i = some f → ∀ v, KeepsAny P (g.take f v)) (ha : ∀ a env, KeepsAny P (g.act a env))
    (env : Env φ) : KeepsAny P (runItem g env i) := by
  cases i with
  | field f w => exact .getState_bind fun _ _ => .bind h.getBits fun v => .bind (ht f rfl v) fun _ => .pure _
  | put f v => exact .bind (ht f rfl v) fun _ => .pure _
  | skip w => exact .getState_bind fun _ _ => .bind h.skipBits fun _ => .pure _
  | mark => exact .getState_bind fun _ _ => .pure _
  | marker t => exact .bind h.marker fun _ => .pure _
  | log f => exact .bind h.logBit fun _ => .pure _
  | need n => exact .getState_bind fun _ _ => .ite (fun _ => .raise trivial) fun _ => .pure _
  | act a => exact .bind (ha a env) fun _ => .pure _
  | leave => exact .pure _

theorem runRows [DecidableEq φ] (h : VopBlind P) {g : Reader φ ε} {l : List (Row φ ε)}
    (ht : ∀ r ∈ l, ∀ f, fieldTaken r.item = some f → ∀ v, KeepsAny P (g.take f v))
    (ha : ∀ a env, KeepsAny P (g.act a env)) : ∀ env, KeepsAny P (runRows g l env) := by
  induction l with
  | nil => exact fun _ => .pure _
  | cons r rows ih =>
    intro env
    have hrest := ih fun r' hr => ht r' (List.mem_cons_of_mem _ hr)
    refine .getState_bind fun _ _ => .ite (fun _ => ?_) fun _ => hrest env
    refine .bind (h.runItem (ht r List.mem_cons_self) ha env) fun o => ?_
    cases o with
    | none => exact .pure _
    | some env' => exact hrest env'

/-- Rows none of whose fields asks for more. -/
theorem runLayout [DecidableEq φ] (h : VopBlind P) {g : Reader φ ε} (ht : ∀ f v, KeepsAny P (g.take f v))
    (ha : ∀ a env, KeepsAny P (g.act a env)) (l : List (Row φ ε)) : KeepsAny P (runLayout g l) :=
  .getState_bind fun _ _ => h.runRows (fun _ _ f _ => ht f) ha _

/-! ## The acts -/

theorem timeIncrP (h : VopBlind P) : KeepsAny P timeIncrP := by
  have unary : ∀ n, KeepsAny P (timeUnary n) := by
    intro n
    induction n with
    | zero => exact .raise trivial
    | succ n ih =>
      exact .bind h.getFlag fun _ => .ite (fun _ => .bind (h.putPic fun _ => ⟨rfl, rfl⟩) fun _ => ih) fun _ => .pure _
  refine .bind (h.putPic fun _ => ⟨rfl, rfl⟩) fun _ => .getState_bind fun _ _ => h.runLayout (fun f => nomatch f) ?_ _
  intro a _
  cases a
  exact .getState_bind fun _ _ => unary _

theorem bTime (h : VopBlind P) (hs : P u) : P u.bTime := by
  rw [State.bTime]
  exact h.pic _ _ (fun _ => ⟨rfl, rfl⟩) hs

theorem nonBTime (h : VopBlind P) (hb : u.pic.pictType ≠ .b) (hs : P u) : P u.nonBTime := by
  rw [State.nonBTime]
  exact h.pic _ _ (fun _ => ⟨rfl, rfl⟩) (h.time _ _ hb hs)

theorem fieldTimes (h : VopBlind P) (hs : P u) : P u.fieldTimes := by
  rw [State.fieldTimes]
  exact h.pic _ _ (fun _ => ⟨rfl, rfl⟩) (h.tFrame _ _ hs)

theorem bTimes (h : VopBlind P) : KeepsAny P bTimes := by
  have skip : KeepsAny P skipInverted := .bind h.logBit fun _ => .raise trivial
  have repair : KeepsAny P repairFields := .bind (h.putPic fun _ => ⟨rfl, rfl⟩) fun _ => .getState_bind fun _ _ =>
    .whenP fun _ => skip
  exact .bind (.update fun _ => h.bTime) fun _ => .getState_bind fun _ _ => .bind (.whenP fun _ => skip) fun _ =>
    .bind (.update fun _ => h.fieldTimes) fun _ => .getState_bind fun _ _ => .whenP fun _ => repair

theorem vopTimes (h : VopBlind P) : KeepsAny P vopTimes := by
  intro u hu
  by_cases hb : u.pic.pictType = .b
  · rw [vopTimes_b hb]
    exact h.bTimes u hu
  · rw [vopTimes_nonB hb]
    exact h.nonBTime hb hu

theorem newpredFields (h : VopBlind P) {ends : Tag → Raise} {tg : Tag} : KeepsAny P (newpredFields ends tg) :=
  .getState_bind fun _ _ => h.runLayout (fun _ _ => .pure _) (fun a => nomatch a) _

theorem trajPoint (h : VopBlind P) {ex : Tag → Raise} {family : Tag} {bad : Raise} :
    KeepsAny P (trajPoint ex family bad) := by
  have component : KeepsAny P (trajComponent (ex family) bad) :=
    .bind (.vlcNumber h.forward trivial trivial) fun _ => .ite (fun _ => .pure _) fun _ => .getFolded h.forward trivial
  have items : ∀ l v, KeepsAny P (trajItems ex family bad l v) := by
    intro l
    induction l with
    | nil => exact fun _ => .pure _
    | cons i l ih =>
      intro v
      cases i with
      | component c => exact .bind (.bind component fun _ => .pure _) fun _ => ih _
      | marker t o =>
        exact .bind (.getState_bind fun _ _ => .bind (.whenP fun _ => h.marker) fun _ => .pure _) fun _ => ih _
  exact .getState_bind fun _ _ => items _ _

theorem setTraj (h : VopBlind P) (i : Fin 4) (v : IVec) (hs : P u) : P (u.setTraj i v) := by
  rw [State.setTraj]
  exact h.pic _ _ (fun _ => ⟨rfl, rfl⟩) hs

theorem spriteTrajP (h : VopBlind P) : KeepsAny P spriteTrajP :=
  .forEach (fun i => .getState_bind fun _ _ => .ite
    (fun _ => .bind h.trajPoint fun v => .update fun _ => h.setTraj i v) fun _ => .update fun _ => h.setTraj i _) _

theorem commitWarp (h : VopBlind P) (k : Warp) (n : BitVec 3) (hs : P u) : P (u.commitWarp k n) := by
  rw [State.commitWarp]
  exact h.pic _ _ (fun _ => ⟨rfl, rfl⟩) hs

theorem gmcOverflow (h : VopBlind P) (hs : P u) : P u.gmcOverflow := by
  rw [State.gmcOverflow]
  exact h.log _ _ (h.pic _ _ (fun _ => ⟨rfl, rfl⟩) hs)

theorem resolveWarp (h : VopBlind P) (hs : P u) : P u.resolveWarp := by
  rw [State.resolveWarp]
  dsimp only
  split
  · refine h.commitWarp _ _ ?_
    split
    · exact h.log _ _ hs
    · exact hs
  · split
    · exact h.gmcOverflow hs
    · split
      · exact h.gmcOverflow hs
      · exact h.commitWarp _ _ hs

theorem gmcResolveP (h : VopBlind P) : KeepsAny P gmcResolveP :=
  .getState_bind fun _ _ => .ite (fun _ => .raise trivial) fun _ => .update fun _ => h.resolveWarp

theorem actVop (h : VopBlind P) (a : VopAct) (env : Env VopField) : KeepsAny P (actVop a env) := by
  cases a with
  | repairLowDelay => exact .update h.lowDelay
  | timeIncr => exact h.timeIncrP
  | probe => exact .getState_bind fun _ _ => .whenP fun _ => .update h.tiHeal
  | times => exact h.vopTimes
  | notCoded => exact .raise trivial
  | newpred => exact h.newpredFields
  | sprite => exact .bind h.spriteTrajP fun _ => h.gmcResolveP
  | zeroSprite => exact h.putPic fun _ => ⟨rfl, rfl⟩

/-! ## The fields -/

/-- A field other than the type writes PIC, and neither its type nor PIC.ti_healed. -/
theorem takeVop (h : VopBlind P) {f : VopField} (hf : f ≠ .type) (v : Nat) : KeepsAny P (takeVop f v) := by
  cases f with
  | type => exact absurd rfl hf
  | alphaPresent => exact .pure _
  | quant => exact .ite (fun _ => .raise trivial) fun _ => .update fun u => h.pic u _ fun _ => ⟨rfl, rfl⟩
  | fCode | bCode =>
    exact .ite (fun _ => .bind (h.putPic fun _ => ⟨rfl, rfl⟩) fun _ => .raise trivial) fun _ =>
      h.putPic fun _ => ⟨rfl, rfl⟩
  | timeIncrement | vopCoded | roundingType | dcThreshold | topField | alternateScan =>
    exact h.putPic fun _ => ⟨rfl, rfl⟩

/-- Rows of VOP that do not take the picture type. -/
theorem untypedRows (h : VopBlind P) {l : List (Row VopField VopAct)} (hl : ∀ r ∈ l, fieldTaken r.item ≠ some .type)
    (env : Env VopField) : KeepsAny P (Machine.runRows vopReader l env) :=
  h.runRows (fun r hr _ hf => h.takeVop fun ht => hl r hr (hf.trans (congrArg some ht))) h.actVop env

/-- Any rows of VOP, where taking the picture type keeps the property too. -/
theorem typedRows (h : VopBlind P) (ht : ∀ v, KeepsAny P (takePictType v)) (l : List (Row VopField VopAct)) :
    KeepsAny P (Machine.runLayout vopReader l) := by
  refine h.runLayout (fun f v => ?_) h.actVop l
  by_cases hf : f = .type
  · subst hf
    exact ht v
  · exact h.takeVop hf v

end VopBlind

/-! ## What every picture header leaves alone -/

/-- What the rows of a picture header that began in `s` leave of it: MB, the port, the stores, SLICE, STATUS.PIC_VALID
at 0, and SEQ but for the width of the time increment, only where PIC.ti_healed is set, and SEQ.low_delay. -/
def sameInVop (s u : State) : Prop :=
  u.mb = s.mb ∧ u.port = s.port ∧ u.stores = s.stores ∧ u.slice = s.slice ∧ u.status.picValid = false
    ∧ u.seq = { s.seq with timeIncrementBits := u.seq.timeIncrementBits, lowDelay := u.seq.lowDelay }
    ∧ (u.pic.tiHealed = false → u.seq.timeIncrementBits = s.seq.timeIncrementBits)

theorem vopBlind_sameInVop (s : State) : VopBlind (sameInVop s) where
  pos _ _ hu := hu
  log _ _ hu := hu
  pic u _ hf := by
    rintro ⟨hmb, hport, hstores, hslice, hvalid, hseq, hheal⟩
    exact ⟨hmb, hport, hstores, hslice, hvalid, hseq, fun h => hheal ((hf u.pic).2.symm.trans h)⟩
  lowDelay u := by
    rintro ⟨hmb, hport, hstores, hslice, hvalid, hseq, hheal⟩
    exact ⟨hmb, hport, hstores, hslice, hvalid, congrArg (fun q : Seq => { q with lowDelay := false }) hseq, hheal⟩
  tiHeal u := by
    rintro ⟨hmb, hport, hstores, hslice, hvalid, hseq, _⟩
    exact ⟨hmb, hport, hstores, hslice, hvalid,
      congrArg (fun q : Seq => { q with timeIncrementBits := u.tiHeal.seq.timeIncrementBits }) hseq,
      fun h => Bool.noConfusion h⟩
  time _ _ _ hu := hu
  tFrame _ _ hu := hu

/-- The type of a picture whose header is read is taken once PIC.ti_healed is cleared, and no part of the frame. -/
theorem takePictType_sameInVop (s : State) (v : Nat) : KeepsAny (sameInVop s) (takePictType v) := .update fun _ hu => hu

/-- Every grammar of the picture header keeps the frame. -/
theorem vopHeaderRows_sameInVop (s : State) (c : Cfg) : KeepsAny (sameInVop s) (vopHeaderRows c) :=
  .forEach (fun l => (vopBlind_sameInVop s).typedRows (takePictType_sameInVop s) l) _

theorem sameInVop_vopStart (s : State) : sameInVop s s.vopStart := ⟨rfl, rfl, rfl, rfl, rfl, rfl, fun _ => rfl⟩

/-! ## TIME of a B picture -/

/-- A B picture leaves TIME alone but for TIME.t_frame. -/
def bKeepsTime (s u : State) : Prop := u.pic.pictType = .b → u.time = { s.time with tFrame := u.time.tFrame }

theorem vopBlind_bKeepsTime (s : State) : VopBlind (bKeepsTime s) where
  pos _ _ hu := hu
  log _ _ hu := hu
  pic u _ hf hu hb := hu ((hf u.pic).1.symm.trans hb)
  lowDelay _ hu := hu
  tiHeal _ hu := hu
  time _ _ hne _ hb := absurd hb hne
  tFrame _ v hu hb := congrArg (fun m : Time => { m with tFrame := v }) (hu hb)

/-- The state a parse ends in, a raise included. -/
def endState {α : Type} : EStateM.Result Raise State α → State
  | .ok _ t => t
  | .error _ t => t

theorem Keeps.endState {α : Type} {m : Parse α} (h : KeepsAny P m) (hs : P s) : P (Machine.endState (m s)) := by
  cases hm : m s with
  | ok a t => exact h.ok hs hm
  | error r t => exact (h.error hs hm).1

/-- The rows of the default picture header after the first take the picture type no more. -/
theorem vopLayout_typedOnce : ∃ l ls, Config.layout.vop = (⟨[], .field .type (.bits 2)⟩ :: l) :: ls
    ∧ (∀ r ∈ l, fieldTaken r.item ≠ some .type) ∧ ∀ l' ∈ ls, ∀ r ∈ l', fieldTaken r.item ≠ some .type :=
  ⟨_, _, rfl, by decide, by decide⟩

theorem Keeps.forEach_mem {α : Type} {f : α → Parse Unit} {l : List α} (h : ∀ a ∈ l, KeepsAny P (f a)) :
    KeepsAny P (Machine.forEach f l) := by
  induction l with
  | nil => exact .pure _
  | cons a l ih => exact .bind (h a List.mem_cons_self) fun _ => ih fun b hb => h b (List.mem_cons_of_mem _ hb)

/-- The default picture header takes its type before its times, and then no more. -/
theorem bKeepsTime_vopHeaderRows {c : Cfg} (hg : c.layout = Config.layout) (hu : u.time = s.time) :
    bKeepsTime s (endState (vopHeaderRows c u)) := by
  obtain ⟨l, ls, hvop, hl, hls⟩ := vopLayout_typedOnce
  have h := vopBlind_bKeepsTime s
  have hrest (env : Env VopField) : KeepsAny (bKeepsTime s)
      (runRows vopReader l env >>= fun _ => forEach (fun l => runLayout vopReader l) ls) :=
    .bind (h.untypedRows hl env) fun _ => .forEach_mem fun l' hm => .getState_bind fun _ _ => h.untypedRows (hls l' hm) _
  have hstart {w : State} (hw : w.time = u.time) : bKeepsTime s w := fun _ => by rw [hw, hu]
  rw [vopHeaderRows, hg, hvop, forEach_cons, Parse.bind_apply, runLayout_apply]
  by_cases hin : u.pos + 2 ≤ u.endPos
  · rw [runRows_run rowRuns_nil (runItem_field hin rfl), ← Parse.bind_apply]
    exact (hrest _).endState (hstart rfl)
  · rw [runRows_raise rowRuns_nil (runItem_field_short (Nat.lt_of_not_le hin))]
    exact hstart rfl

/-! ## The end of a picture header -/

/-- VOP starts its picture, or takes a raise, in a state that keeps the frame. -/
theorem execVop_cases (e : exec .vop s = .next t) : ∃ u, sameInVop s u
    ∧ (s.cfg.layout = Config.layout → bKeepsTime s u)
    ∧ (t = u.vopEnd ∨ ∃ r : Raise, r.OfPictureHeader ∧ t = u.takeRaise .vopHeader r) := by
  by_cases hvol : s.hasVol
  · have hframe := (vopHeaderRows_sameInVop s s.cfg).endState (sameInVop_vopStart s)
    have htime (hg : s.cfg.layout = Config.layout) := bKeepsTime_vopHeaderRows (u := s.vopStart) (s := s) hg rfl
    have hraises : Raises Raise.OfPictureHeader (vopHeaderRows s.cfg) := .forEach vopRows_raises _
    cases hrows : vopHeaderRows s.cfg s.vopStart with
    | ok _ u =>
      rw [hrows] at hframe htime
      rw [execVop_ok hvol hrows] at e
      exact ⟨u, hframe, htime, .inl (Host.Outcome.next.inj e).symm⟩
    | error r u =>
      rw [hrows] at hframe htime
      rw [execVop_raises hvol hrows] at e
      exact ⟨u, hframe, htime, .inr ⟨r, (hraises.error trivial hrows).2, (Host.Outcome.next.inj e).symm⟩⟩
  · rw [execVop_noVol hvol] at e
    exact ⟨s.vopStart, sameInVop_vopStart s, fun _ _ => rfl, .inr ⟨_, .inl (.inr rfl), (Host.Outcome.next.inj e).symm⟩⟩

/-- What the rest of the frame says of the end of a header that the frame holds before. -/
def vopFrame (s t : State) : Prop :=
  t.mb = s.mb ∧ t.port = s.port
    ∧ t.seq = { s.seq with timeIncrementBits := t.seq.timeIncrementBits, lowDelay := t.seq.lowDelay }
    ∧ (t.pic.tiHealed = false → t.seq.timeIncrementBits = s.seq.timeIncrementBits)
    ∧ (t.fsm = .sliceStart ↔ t.status.picValid = true) ∧ (t.fsm = .sliceStart → t.stores = Stores.initial)
    ∧ (t.fsm = .done → t.status.result = .frameSkipped ∧ t.stores = s.stores ∧ t.slice = s.slice)
    ∧ (t.fsm = .error → t.stores = { s.stores with rowprog := t.stores.rowprog } ∧ t.slice = s.slice)

/-- The registers that the header did not carry are registers of PIC, and neither its type nor PIC.ti_healed. -/
theorem State.clearUncarried_writes (u : State) : ∃ g : Pic → Pic,
    (∀ q, (g q).pictType = q.pictType ∧ (g q).tiHealed = q.tiHealed) ∧ u.clearUncarried = u.updPic g := by
  simp only [State.clearUncarried]
  refine ⟨_, ?_, rfl⟩
  exact fun _ => ⟨rfl, rfl⟩

/-- The end of a header writes FSM, STATUS, the stores, SLICE, the lost macroblocks, and PIC but for its type and
PIC.ti_healed. -/
theorem State.vopEnd_writes (u : State) : ∃ (st : Status) (l : Slice) (m : Eng) (g : Pic → Pic),
    st.picValid = true ∧ (∀ q, (g q).pictType = q.pictType ∧ (g q).tiHealed = q.tiHealed)
      ∧ u.vopEnd = { u with
        fsm := .sliceStart, status := st, stores := Stores.initial, slice := l, eng := m, pic := g u.pic } := by
  obtain ⟨g, hg, hclear⟩ := u.clearPicture.clearUncarried_writes
  rw [State.vopEnd, State.pictureStart, hclear]
  refine ⟨{ u.status with result := .ok, picValid := true }, { Slice.reset with firstSliceLine := true },
    { u.eng with failed := [] }, g, rfl, hg, ?_⟩
  simp only [State.setFsm, State.post, State.updStatus, State.updEng, State.updPic, State.clearPicture,
    State.updStores, State.updSlice]

theorem vopFrame_vopEnd (h : sameInVop s u) : vopFrame s u.vopEnd := by
  obtain ⟨hmb, hport, _, _, _, hseq, hheal⟩ := h
  obtain ⟨st, l, m, g, hvalid, hg, hend⟩ := u.vopEnd_writes
  rw [hend]
  refine ⟨hmb, hport, hseq, fun hh => hheal ((hg u.pic).2.symm.trans hh), ⟨fun _ => hvalid, fun _ => rfl⟩, fun _ => rfl,
    fun hf => ?_, fun hf => ?_⟩ <;> cases hf

/-- A skipped picture leaves the stores and SLICE. -/
theorem vopFrame_skipped (h : sameInVop s u) (hr : r.code = .frameSkipped) : vopFrame s (u.takeRaise .vopHeader r) := by
  obtain ⟨hmb, hport, hstores, hslice, hvalid, hseq, hheal⟩ := h
  rw [State.takeRaise_vop_skipped hr]
  have hno : ¬u.status.picValid = true := by
    rw [hvalid]
    exact Bool.false_ne_true
  refine ⟨hmb, hport, hseq, hheal, ⟨fun hf => ?_, fun hp => absurd hp hno⟩, fun hf => ?_, fun _ => ⟨hr, hstores, hslice⟩,
    fun hf => ?_⟩ <;> cases hf

/-- A header that fails leaves them too, but for the row counter. -/
theorem vopFrame_failed (h : sameInVop s u) (hr : r.IsFailure) : vopFrame s (u.takeRaise .vopHeader r) := by
  obtain ⟨hmb, hport, hstores, hslice, _, hseq, hheal⟩ := h
  rw [State.takeRaise_vop_failed hr]
  have hrows : { u.stores with rowprog := u.mbH } = { s.stores with rowprog := u.mbH } := by rw [hstores]
  refine ⟨hmb, hport, hseq, hheal, ⟨fun hf => ?_, fun hp => ?_⟩, fun hf => ?_, fun hf => ?_, fun _ => ⟨hrows, hslice⟩⟩
  · cases hf
  · cases hp
  · cases hf
  · cases hf

/-- The end of a header leaves the picture type and TIME. -/
theorem bKeepsTime_vopEnd (h : bKeepsTime s u) : bKeepsTime s u.vopEnd := by
  obtain ⟨st, l, m, g, _, hg, hend⟩ := u.vopEnd_writes
  rw [hend]
  exact fun hb => h ((hg u.pic).1.symm.trans hb)

/-- Taking a raise leaves the picture type and TIME. -/
theorem bKeepsTime_takeRaise (h : bKeepsTime s u) (hr : r.OfPictureHeader) :
    bKeepsTime s (u.takeRaise .vopHeader r) := by
  obtain hr | hr := hr
  · rw [State.takeRaise_vop_failed hr]
    exact h
  · rw [State.takeRaise_vop_skipped hr]
    exact h

/-- Settles O29: the frame of the rows, and what the picture start or the raise after them leaves of it. -/
theorem vopLeavesTheRestAlone : Obligations.VopLeavesTheRestAlone := by
  unfold Obligations.VopLeavesTheRestAlone
  intro s t e
  obtain ⟨⟨hbs, hlen, hcoloc⟩, hctrl, hcfg⟩ := sameOutside_exec (by decide) (by decide) e
  obtain ⟨u, hu, htime, hend⟩ := execVop_cases e
  have hboth : vopFrame s t ∧ (s.cfg.layout = Config.layout → bKeepsTime s t) := by
    obtain rfl | ⟨r, hr, rfl⟩ := hend
    · exact ⟨vopFrame_vopEnd hu, fun hg => bKeepsTime_vopEnd (htime hg)⟩
    · exact ⟨hr.elim (vopFrame_failed hu) (vopFrame_skipped hu), fun hg => bKeepsTime_takeRaise (htime hg) hr⟩
  obtain ⟨⟨hmb, hport, hseq, hheal, hvalid, hstart, hdone, herror⟩, htime⟩ := hboth
  exact ⟨hmb, hctrl, hcfg, hcoloc, hbs, hlen, hport, hseq, hheal, hvalid, hstart, hdone, herror, htime⟩

end Sys2Proof.Machine
end

section
/-! GET_AMV: the average of the field over a macroblock, rounded and clamped (42_gmc.md R232). -/

namespace Sys2Proof.Machine

/-- The two asymmetric bounds of the clamp, as a maximum and a minimum. -/
theorem clampAmv_eq_max_min (f : Nat) (v : Int) :
    clampAmv f v = max (-(2 ^ (f + 4))) (min v (2 ^ (f + 4) - 1)) := by
  have hlen : (0 : Int) < 2 ^ (f + 4) := by positivity
  rw [clampAmv]
  generalize (2 : Int) ^ (f + 4) = len at *
  split_ifs <;> omega

/-- An accumulating loop over 0..n-1 adds the sum of its terms. -/
theorem foldl_range_add (f : Nat → Int) (z : Int) (n : Nat) :
    (List.range n).foldl (fun acc i => acc + f i) z = z + ∑ i ∈ Finset.range n, f i := by
  induction n with
  | zero => simp
  | succ n ih => rw [List.range_succ, List.foldl_append, ih, Finset.sum_range_succ, ← add_assoc]; rfl

/-- The two loops over the block are a double sum. -/
theorem fieldSum_eq_sum (v0 dx dy : Int) (shift : Nat) :
    fieldSum v0 dx dy shift =
      ∑ y ∈ Finset.range 16, ∑ x ∈ Finset.range 16, (v0 + dy * y + dx * x) / 2 ^ shift := by
  rw [fieldSum]
  simp only [foldl_range_add, zero_add, sar]

theorem State.divx413_iff (s : State) :
    s.divx413 = true ↔ s.seq.divxVersion = 500 ∧ s.seq.divxBuild = 413 := by
  rw [State.divx413, Bool.and_eq_true, beq_iff_eq, beq_iff_eq]

/-- The one-point form, with DIVX413 spelled out. -/
theorem State.amvOnePoint_eq (s : State) (n : Comp) :
    s.amvOnePoint n =
      if s.seq.divxVersion = 500 ∧ s.seq.divxBuild = 413
          ∧ s.seq.quarterSample.toNat ≤ s.seq.spriteWarpingAccuracy.toNat then
        Int.tdiv (vecComp s.pic.spriteOffsetLuma n)
          (2 ^ (s.seq.spriteWarpingAccuracy.toNat - s.seq.quarterSample.toNat))
      else rshift (vecComp s.pic.spriteOffsetLuma n * 2 ^ s.seq.quarterSample.toNat)
        s.seq.spriteWarpingAccuracy.toNat := by
  simp only [State.amvOnePoint, State.divx413_iff, and_assoc]

theorem exec_getAmv (n : Comp) (s : State) :
    exec (.getAmv n) s = .next { s with eng := { s.eng with ret := [s.amv n] } } :=
  congrArg completes (runFor_ok (m := pure [s.amv n]) rfl)

/-- Settles O32: the loops are the sum, the comparisons are the clamp, and the result is handed back. -/
theorem getAmvClampsTheFieldAverage : Obligations.GetAmvClampsTheFieldAverage := by
  unfold Obligations.GetAmvClampsTheFieldAverage
  intro n s
  rw [exec_getAmv, State.amv, clampAmv_eq_max_min, State.amvOnePoint_eq, State.amvField, fieldSum_eq_sum]
  cases n
  · simp [vecComp, Pic.deltaRow, rshift, sar]
  · simp [vecComp, Pic.deltaRow, rshift, sar]

end Sys2Proof.Machine
end

section
/-! GMC_RESOLVE: the constants, the reference points and closed forms, and the three ways a warp is committed
(42_gmc.md R211 to R228). -/

namespace Sys2Proof.Machine

variable {s : State} {k : Warp} {g : GmcIn} {al be : Nat}

/-! ## Registers and arithmetic -/

/-- Reading back a signed register that took a value which fits. -/
theorem toInt_toS {w : Nat} {v : Int} (h : -(2 ^ w) ≤ 2 * v) (h' : 2 * v < 2 ^ w) : (toS w v).toInt = v := by
  rw [toS_ofInt h h']
  have e : ((2 ^ w : Nat) : Int) = (2 : Int) ^ w := by push_cast; rfl
  rw [← e] at h h'
  rw [BitVec.toInt_ofInt, Int.bmod_eq_of_le_mul_two (by omega) (by omega)]

/-- The bit length is an upper bound: what it counts suffices. -/
theorem lt_two_pow_bitLengthIn (fuel : Nat) : ∀ v, v < 2 ^ fuel → v < 2 ^ bitLengthIn fuel v := by
  induction fuel with
  | zero => exact fun v h => h
  | succ n ih =>
    intro v h
    rw [bitLengthIn]
    split
    next hv => rw [hv]; exact Nat.two_pow_pos 0
    next =>
      have := ih (v / 2) (by rw [Nat.pow_succ] at h; omega)
      rw [Nat.pow_succ]
      omega

/-- bitlength is the least sufficient number of bits. -/
theorem bitLength_le_iff {v n : Nat} (hv : v < 2 ^ 64) : bitLength v ≤ n ↔ v < 2 ^ n :=
  ⟨fun h => (lt_two_pow_bitLengthIn 64 v hv).trans_le (Nat.pow_le_pow_right two_pos h), bitLengthIn_le 64 v n⟩

/-- The exponent of the least power of two, from `2 ^ low` on, that is not below `v` (R211). -/
theorem max_bitLength_pred_eq {v n low : Nat} (h0 : v ≠ 0) (hv : v < 2 ^ 64) (hlow : low ≤ n) (hup : v ≤ 2 ^ n)
    (hleast : n = low ∨ 2 ^ (n - 1) < v) : max low (bitLength (v - 1)) = n := by
  have hle : bitLength (v - 1) ≤ n := (bitLength_le_iff (by omega)).2 (by omega)
  obtain rfl | hmin := hleast
  · exact max_eq_left hle
  · have hge : ¬bitLength (v - 1) ≤ n - 1 := fun h => by
      have := (bitLength_le_iff (by omega)).1 h
      omega
    omega

/-- The rounded quotient of R9 by a positive divisor, as a floor division of the magnitude. -/
def roundedQuot (v n : Int) : Int := if 0 ≤ v then (v + n / 2) / n else -((-v + n / 2) / n)

theorem roundedDiv_eq_roundedQuot {v n : Int} (hn : 0 < n) : roundedDiv v n = roundedQuot v n := by
  rw [roundedDiv, if_pos hn, roundedQuot]
  split_ifs with hv
  · exact Int.tdiv_eq_ediv_of_nonneg (by omega)
  · rw [show v - n / 2 = -(-v + n / 2) by ring, Int.neg_tdiv, Int.tdiv_eq_ediv_of_nonneg (by omega)]

theorem sar_two_pow {m n : Nat} (h : m ≤ n) : sar (2 ^ n) m = 2 ^ (n - m) := by
  rw [sar, ← Nat.sub_add_cancel h, pow_add, Nat.add_sub_cancel]
  exact Int.mul_ediv_cancel _ (by positivity)

theorem halfKeepingOdd_eq (v : Int) :
    halfKeepingOdd v = v / 2 + (if v % 2 = 1 ∧ v / 2 % 2 = 0 then 1 else 0) := by
  rw [halfKeepingOdd, sar, pow_one]
  split_ifs <;> omega

/-! ## The constants and the reference points -/

theorem State.gmcIn_alpha (h0 : s.seq.width ≠ 0) (h1 : 1 ≤ al) (hup : (s.seq.width.toNat : Int) ≤ 2 ^ al)
    (hleast : al = 1 ∨ (2 : Int) ^ (al - 1) < s.seq.width.toNat) : s.gmcIn.alpha = al :=
  max_bitLength_pred_eq (fun h => h0 (BitVec.eq_of_toNat_eq h)) (by omega) h1 (mod_cast hup) (mod_cast hleast)

theorem State.gmcIn_beta (h0 : s.seq.height ≠ 0) (hup : (s.seq.height.toNat : Int) ≤ 2 ^ be)
    (hleast : be = 0 ∨ (2 : Int) ^ (be - 1) < s.seq.height.toNat) : s.gmcIn.beta = be := by
  have h := max_bitLength_pred_eq (fun h => h0 (BitVec.eq_of_toNat_eq h)) (by omega) (Nat.zero_le be) (mod_cast hup)
    (mod_cast hleast)
  rwa [Nat.zero_max] at h

/-- One component of a reference point, by the three variants of R217. -/
def State.refComponent (s : State) (corner disp : Int) : Int :=
  if s.seq.divxVersion = 500 ∧ s.seq.divxBuild = 413 then s.gmcFactor * corner + disp
  else if s.cfg.gmcRef = .src then s.gmcFactor * (corner + disp) else s.gmcFactor / 2 * (2 * corner + disp)

/-- A reference point, by the three variants of R217. -/
def State.refPoint (s : State) (corner disp : IVec) : IVec :=
  ⟨s.refComponent corner.x disp.x, s.refComponent corner.y disp.y⟩

theorem spriteRefOf_eq_refComponent (s : State) (corner disp : Int) :
    spriteRefOf s.divx413 s.cfg.gmcRef s.gmcFactor corner disp = s.refComponent corner disp := by
  simp only [spriteRefOf, State.refComponent, State.divx413_iff]
  cases s.cfg.gmcRef <;> simp [sar]

theorem spriteRefPoint_eq_refPoint (s : State) (corner disp : IVec) :
    spriteRefPoint s.divx413 s.cfg.gmcRef s.gmcIn.a corner disp = s.refPoint corner disp := by
  simp only [spriteRefPoint, State.gmcIn, spriteRefOf_eq_refComponent, State.refPoint]

/-- sprite_ref[0] (R217). -/
def State.spriteRef0 (s : State) : IVec := s.refPoint s.gmcIn.ref0 s.gmcIn.d0
/-- sprite_ref[1] (R217). -/
def State.spriteRef1 (s : State) : IVec := s.refPoint s.gmcIn.ref1 (s.gmcIn.d0.plus s.gmcIn.d1)
/-- sprite_ref[2] (R217). -/
def State.spriteRef2 (s : State) : IVec := s.refPoint s.gmcIn.ref2 (s.gmcIn.d0.plus s.gmcIn.d2)

/-- The four values of `a` (R211). -/
theorem State.gmcFactor_cases (s : State) :
    s.gmcFactor = 2 ∨ s.gmcFactor = 4 ∨ s.gmcFactor = 8 ∨ s.gmcFactor = 16 := by
  have hacc := s.seq.spriteWarpingAccuracy.isLt
  rw [State.gmcFactor]
  interval_cases s.seq.spriteWarpingAccuracy.toNat <;> decide

/-! ## The closed forms, whose corner vop_ref[0] is the origin -/

theorem virtualRef0_eq (hw : 0 < g.w) (s0 s1 : IVec) :
    virtualRef0 g s0 s1 =
      ⟨16 * g.w2 + roundedQuot ((g.w - g.w2) * (g.r * s0.x) + g.w2 * (g.r * s1.x - 16 * g.w)) g.w,
        roundedQuot ((g.w - g.w2) * (g.r * s0.y) + g.w2 * (g.r * s1.y)) g.w⟩ := by
  simp only [virtualRef0, GmcIn.ref0, GmcIn.ref1, roundedDiv_eq_roundedQuot hw, mul_zero, sub_zero, zero_add]

theorem virtualRef1_eq (hh : 0 < g.h) (s0 s2 : IVec) :
    virtualRef1 g s0 s2 =
      ⟨roundedQuot ((g.h - g.h2) * (g.r * s0.x) + g.h2 * (g.r * s2.x)) g.h,
        16 * g.h2 + roundedQuot ((g.h - g.h2) * (g.r * s0.y) + g.h2 * (g.r * s2.y - 16 * g.h)) g.h⟩ := by
  simp only [virtualRef1, GmcIn.ref0, GmcIn.ref2, roundedDiv_eq_roundedQuot hh, mul_zero, sub_zero, zero_add]

/-- The case of two points (R221) with `A`, `D` the deltas along x. -/
theorem warpTwo_eq {sh : Nat} (hsh : g.alpha + g.rho = sh) (s0 v0 : IVec) :
    warpTwo g s0 v0 =
      let A := v0.x - g.r * s0.x
      let D := g.r * s0.y - v0.y
      ⟨⟨s0.x * 2 ^ sh + 2 ^ (sh - 1), s0.y * 2 ^ sh + 2 ^ (sh - 1)⟩,
        ⟨A + D + 2 * g.w2 * g.r * s0.x - 16 * g.w2 + 2 ^ (sh + 1),
          A - D + 2 * g.w2 * g.r * s0.y - 16 * g.w2 + 2 ^ (sh + 1)⟩,
        ⟨A, D⟩, ⟨-D, A⟩, sh, sh + 2⟩ := by
  simp only [warpTwo, hsh, GmcIn.ref0, Warp.mk.injEq, IVec.mk.injEq, true_and, and_true]
  refine ⟨⟨?_, ?_⟩, ⟨?_, ?_⟩, ?_, ?_⟩ <;> ring

/-- The case of three points (R222) with `w3`, `h3` the powers of two left of w2, h2. -/
theorem warpThree_eq {sh : Nat} (hsh : max g.alpha g.beta + g.rho = sh) (s0 v0 v1 : IVec) :
    warpThree g s0 v0 v1 =
      let w3 : Int := 2 ^ (g.alpha - min g.alpha g.beta)
      let h3 : Int := 2 ^ (g.beta - min g.alpha g.beta)
      let Ax := v0.x - g.r * s0.x
      let Bx := v1.x - g.r * s0.x
      let Ay := v0.y - g.r * s0.y
      let By := v1.y - g.r * s0.y
      ⟨⟨s0.x * 2 ^ sh + 2 ^ (sh - 1), s0.y * 2 ^ sh + 2 ^ (sh - 1)⟩,
        ⟨Ax * h3 + Bx * w3 + 2 * g.w2 * h3 * g.r * s0.x - 16 * g.w2 * h3 + 2 ^ (sh + 1),
          Ay * h3 + By * w3 + 2 * g.w2 * h3 * g.r * s0.y - 16 * g.w2 * h3 + 2 ^ (sh + 1)⟩,
        ⟨Ax * h3, Bx * w3⟩, ⟨Ay * h3, By * w3⟩, sh, sh + 2⟩ := by
  have hw3 : sar g.w2 (min g.alpha g.beta) = 2 ^ (g.alpha - min g.alpha g.beta) := sar_two_pow (min_le_left _ _)
  have hh3 : sar g.h2 (min g.alpha g.beta) = 2 ^ (g.beta - min g.alpha g.beta) := sar_two_pow (min_le_right _ _)
  have hsum : g.alpha + g.beta + g.rho - min g.alpha g.beta = sh := by omega
  simp only [warpThree, hw3, hh3, hsum, GmcIn.ref0, Warp.mk.injEq, IVec.mk.injEq, and_true]
  refine ⟨⟨?_, ?_⟩, ⟨?_, ?_⟩, ⟨?_, ?_⟩, ?_, ?_⟩ <;> ring

/-! ## The raw warp of each number of points -/

/-- A pure translation at unit scale `a`, with no shift. -/
def Warp.translation (a : Int) (luma chroma : IVec) : Warp := ⟨luma, chroma, ⟨a, 0⟩, ⟨0, a⟩, 0, 0⟩

theorem State.rawWarp_none (hn : s.seq.numSpriteWarpingPoints = 0) :
    s.rawWarp = .translation s.gmcFactor ⟨0, 0⟩ ⟨0, 0⟩ := by
  rw [State.rawWarp, hn]
  rfl

theorem State.rawWarp_one (hn : s.seq.numSpriteWarpingPoints = 1) :
    s.rawWarp = .translation s.gmcFactor s.spriteRef0
      ⟨halfKeepingOdd s.spriteRef0.x, halfKeepingOdd s.spriteRef0.y⟩ := by
  have h : s.rawWarp = warpOne s.gmcIn s.spriteRef0 := by
    simp only [State.rawWarp, hn, spriteRefPoint_eq_refPoint]
    rfl
  rw [h]
  simp only [warpOne, GmcIn.ref0, Int.zero_tdiv, mul_zero, sub_zero, Warp.translation]
  rfl

theorem State.rawWarp_two (hn : s.seq.numSpriteWarpingPoints = 2) (hv : s.cfg.gmcVirtual = .standard)
    (hc : s.cfg.gmcCase2 = .standard) :
    s.rawWarp = warpTwo s.gmcIn s.spriteRef0 (virtualRef0 s.gmcIn s.spriteRef0 s.spriteRef1) := by
  simp only [State.rawWarp, hn, spriteRefPoint_eq_refPoint, State.virtualRefs, hv, State.warpOfTwo, hc]
  rfl

theorem State.rawWarp_three (hn : s.seq.numSpriteWarpingPoints = 3) (hv : s.cfg.gmcVirtual = .standard)
    (hc : s.cfg.gmcCase3 = .standard) :
    s.rawWarp = warpThree s.gmcIn s.spriteRef0 (virtualRef0 s.gmcIn s.spriteRef0 s.spriteRef1)
      (virtualRef1 s.gmcIn s.spriteRef0 s.spriteRef2) := by
  simp only [State.rawWarp, hn, spriteRefPoint_eq_refPoint, State.virtualRefs, hv, State.warpOfThree, hc]
  rfl

/-! ## The tests of R224 and R226 -/

/-- Pure unit scaling by `a` (R224). -/
def Warp.Scales (k : Warp) (a : Int) : Prop := k.rowX = ⟨a * 2 ^ k.sh0, 0⟩ ∧ k.rowY = ⟨0, a * 2 ^ k.sh0⟩

theorem Warp.isPureScaling_iff {a : Int} : k.isPureScaling a = true ↔ k.Scales a := by
  obtain ⟨luma, chroma, ⟨xx, xy⟩, ⟨yx, yy⟩, sh0, sh1⟩ := k
  simp only [Warp.isPureScaling, Warp.Scales, Bool.and_eq_true, beq_iff_eq, IVec.mk.injEq, and_assoc]

theorem Warp.translation_scales (a : Int) (luma chroma : IVec) : (Warp.translation a luma chroma).Scales a := by
  constructor <;> simp [Warp.translation]

theorem Warp.collapse_translation (a : Int) (luma chroma : IVec) :
    (Warp.translation a luma chroma).collapse a = .translation a luma chroma := by
  simp [Warp.translation, Warp.collapse, sar]

theorem Warp.noOffset_iff : k.noOffset = true ↔ k.luma = ⟨0, 0⟩ ∧ k.chroma = ⟨0, 0⟩ := by
  obtain ⟨⟨lx, ly⟩, ⟨cx, cy⟩, rowX, rowY, sh0, sh1⟩ := k
  simp only [Warp.noOffset, Bool.and_eq_true, beq_iff_eq, IVec.mk.injEq, and_assoc]

/-- Part 1 of the guard (R226) for 32-bit integers: a term would not survive its scaling. -/
def Warp.OverflowsEarly (k : Warp) : Prop :=
  16 < k.sh0 ∨ 16 < k.sh1
    ∨ (∃ v ∈ [k.luma.x, k.luma.y, k.rowX.x, k.rowX.y, k.rowY.x, k.rowY.y],
        2147483647 / 2 ^ (16 - k.sh0) ≤ (v.natAbs : Int))
    ∨ ∃ v ∈ [k.chroma.x, k.chroma.y], 2147483647 / 2 ^ (16 - k.sh1) ≤ (v.natAbs : Int)

/-- Part 2 of the guard (R226) for 32-bit integers: a term of a row is too large after the scaling. -/
def Warp.OverflowsLate (k : Warp) (a w h : Int) : Prop :=
  (∃ v ∈ guardedTerms a (w + 16) (h + 16) k.luma.x k.rowX, 2147483647 ≤ (v.natAbs : Int))
    ∨ ∃ v ∈ guardedTerms a (w + 16) (h + 16) k.luma.y k.rowY, 2147483647 ≤ (v.natAbs : Int)

/-- The guard of R226 on the raw warp `k`, before and after its normalisation. -/
def Warp.Overflows (k : Warp) (a w h : Int) : Prop := k.OverflowsEarly ∨ k.normalise.OverflowsLate a w h

theorem reaches_iff {v m : Int} : reaches v m = true ↔ m ≤ (v.natAbs : Int) := decide_eq_true_iff

theorem Warp.overflowsBefore_iff : k.overflowsBefore 2147483647 = true ↔ k.OverflowsEarly := by
  simp only [Warp.overflowsBefore, Warp.OverflowsEarly, Bool.or_eq_true, decide_eq_true_eq, reaches_iff, sar,
    List.mem_cons, List.not_mem_nil, or_false, exists_eq_or_imp, exists_eq_left]
  tauto

theorem Warp.overflowsAfter_iff {a w h : Int} : k.overflowsAfter 2147483647 a w h = true ↔ k.OverflowsLate a w h := by
  simp only [Warp.overflowsAfter, Warp.OverflowsLate, Bool.or_eq_true, List.any_eq_true, reaches_iff]

theorem State.gmcMax_of_32 (h32 : s.cfg.intBits = 32) : s.gmcMax = 2147483647 := by
  rw [State.gmcMax, h32]
  norm_num

/-! ## What is committed (R228) -/

/-- An integer that a 32-bit register holds. -/
def InWord (v : Int) : Prop := -2147483648 ≤ v ∧ v ≤ 2147483647

/-- Both components fit. -/
def IVec.FitsWord (v : IVec) : Prop := InWord v.x ∧ InWord v.y

/-- Every offset and delta fits. -/
structure Warp.FitsWords (k : Warp) : Prop where
  luma : k.luma.FitsWord
  chroma : k.chroma.FitsWord
  rowX : k.rowX.FitsWord
  rowY : k.rowY.FitsWord

/-- PIC with the warp `k` and the number of real points, and STATUS.LOG. -/
def State.putWarp (s : State) (k : Warp) (points : BitVec 3) (log : BitVec 32) : State :=
  { s with
    status := { s.status with log := log }
    pic := { s.pic with
      spriteOffsetLuma := k.luma, spriteOffsetChroma := k.chroma, spriteDeltaX := k.rowX, spriteDeltaY := k.rowY
      spriteShiftLuma := BitVec.ofNat 6 k.sh0, spriteShiftChroma := BitVec.ofNat 6 k.sh1
      realSpriteWarpingPoints := points } }

/-- STATUS.LOG with LOG_GMC_IDENTITY set when the offsets of `c` are all zero (R224). -/
def State.identityLog (s : State) (c : Warp) : BitVec 32 :=
  if c.luma = ⟨0, 0⟩ ∧ c.chroma = ⟨0, 0⟩ then s.status.log ||| 0x40 else s.status.log

theorem State.commit_of_fitsWord (h32 : s.cfg.intBits = 32) {v : IVec} (hv : v.FitsWord) : s.commit v = v := by
  obtain ⟨⟨hxl, hxh⟩, hyl, hyh⟩ := hv
  rw [State.commit, h32, toInt_toS (by norm_num; omega) (by norm_num; omega),
    toInt_toS (by norm_num; omega) (by norm_num; omega)]

/-- A warp that fits is committed as it stands. -/
theorem State.commitWarp_of_fitsWords (h32 : s.cfg.intBits = 32) (hk : k.FitsWords) (h0 : k.sh0 < 64)
    (h1 : k.sh1 < 64) (points : BitVec 3) : s.commitWarp k points = s.putWarp k points s.status.log := by
  simp only [State.commitWarp, State.commit_of_fitsWord h32, hk.luma, hk.chroma, hk.rowX, hk.rowY,
    toU_nat (w := 6) h0, toU_nat (w := 6) h1]
  rfl

/-- A value below the guard's bound fits after its scaling. -/
theorem inWord_mul_of_lt {v f : Int} (hf : 0 < f) (h : (v.natAbs : Int) < 2147483647 / f) : InWord (v * f) := by
  have hmul : ((v.natAbs : Int) + 1) * f ≤ 2147483647 := (Int.le_ediv_iff_mul_le hf).1 h
  rw [Int.natCast_natAbs] at hmul
  exact ⟨by nlinarith [neg_abs_le v], by nlinarith [le_abs_self v]⟩

/-- Past part 1 of the guard every scaled term fits (R228). -/
theorem Warp.normalise_fitsWords (h : ¬k.OverflowsEarly) : k.normalise.FitsWords := by
  simp only [Warp.OverflowsEarly, not_or, not_exists, not_and, not_le, List.forall_mem_cons] at h
  obtain ⟨-, -, ⟨hlx, hly, hxx, hxy, hyx, hyy, -⟩, hcx, hcy, -⟩ := h
  have hy : (0 : Int) < 2 ^ (16 - k.sh0) := by positivity
  have hc : (0 : Int) < 2 ^ (16 - k.sh1) := by positivity
  exact ⟨⟨inWord_mul_of_lt hy hlx, inWord_mul_of_lt hy hly⟩,
    ⟨inWord_mul_of_lt hc hcx, inWord_mul_of_lt hc hcy⟩,
    ⟨inWord_mul_of_lt hy hxx, inWord_mul_of_lt hy hxy⟩, ⟨inWord_mul_of_lt hy hyx, inWord_mul_of_lt hy hyy⟩⟩

/-! ## The three outcomes of GMC_RESOLVE -/

theorem exec_gmcResolve (hw : s.seq.width ≠ 0) (hh : s.seq.height ≠ 0) :
    exec .gmcResolve s = .next s.resolveWarp := by
  have h : gmcResolveP s = .ok () s.resolveWarp := by
    rw [gmcResolveP, Parse.getState_bind, if_neg (not_or.2 ⟨hw, hh⟩)]
    rfl
  exact congrArg completes (runAt_ok h)

theorem exec_gmcResolve_noSize (h0 : s.seq.width = 0 ∨ s.seq.height = 0) :
    exec .gmcResolve s = .next (s.takeRaise .vopHeader ⟨.fatalGmc, .gmcSize⟩) := by
  have h : gmcResolveP s = .error ⟨.fatalGmc, .gmcSize⟩ s := by
    rw [gmcResolveP, Parse.getState_bind, if_pos h0]
    rfl
  exact congrArg completes (runAt_error h)

/-- Pure unit scaling collapses to a translation with one real point (R224). -/
theorem State.resolveWarp_scaling (h32 : s.cfg.intBits = 32) (hs : s.rawWarp.Scales s.gmcFactor)
    (hluma : (s.rawWarp.collapse s.gmcFactor).luma.FitsWord)
    (hchroma : (s.rawWarp.collapse s.gmcFactor).chroma.FitsWord) :
    s.resolveWarp = s.putWarp (s.rawWarp.collapse s.gmcFactor) 1
      (s.identityLog (s.rawWarp.collapse s.gmcFactor)) := by
  have ha : InWord s.gmcFactor ∧ InWord 0 := by
    refine ⟨?_, by decide, by decide⟩
    obtain h | h | h | h := s.gmcFactor_cases <;> rw [h] <;> constructor <;> decide
  have hfit : (s.rawWarp.collapse s.gmcFactor).FitsWords := ⟨hluma, hchroma, ha, ha.symm⟩
  rw [State.resolveWarp, if_pos (Warp.isPureScaling_iff.2 hs)]
  simp only [Warp.noOffset_iff, State.identityLog]
  split_ifs
  · exact State.commitWarp_of_fitsWords (s := s.log .gmcIdentity) h32 hfit (by decide : 0 < 64) (by decide : 0 < 64) 1
  · exact State.commitWarp_of_fitsWords h32 hfit (by decide : 0 < 64) (by decide : 0 < 64) 1

/-- Any other warp that passes the guard is normalised to the shift 16 (R225). -/
theorem State.resolveWarp_normalised (h32 : s.cfg.intBits = 32) (hs : ¬s.rawWarp.Scales s.gmcFactor)
    (ho : ¬s.rawWarp.Overflows s.gmcFactor s.seq.width.toNat s.seq.height.toNat) :
    s.resolveWarp = s.putWarp s.rawWarp.normalise s.seq.numSpriteWarpingPoints s.status.log := by
  obtain ⟨he, hl⟩ := not_or.1 ho
  rw [State.resolveWarp, s.gmcMax_of_32 h32, if_neg (mt Warp.isPureScaling_iff.1 hs),
    if_neg (mt Warp.overflowsBefore_iff.1 he), if_neg (mt Warp.overflowsAfter_iff.1 hl)]
  exact State.commitWarp_of_fitsWords h32 (Warp.normalise_fitsWords he) (by decide : 16 < 64) (by decide : 16 < 64) _

/-- One that does not leaves zeros and a reported overflow (R226). -/
theorem State.resolveWarp_overflow (h32 : s.cfg.intBits = 32) (hs : ¬s.rawWarp.Scales s.gmcFactor)
    (ho : s.rawWarp.Overflows s.gmcFactor s.seq.width.toNat s.seq.height.toNat) :
    s.resolveWarp = s.gmcOverflow := by
  rw [State.resolveWarp, s.gmcMax_of_32 h32, if_neg (mt Warp.isPureScaling_iff.1 hs)]
  rw [Warp.Overflows, ← Warp.overflowsBefore_iff, ← Warp.overflowsAfter_iff] at ho
  split_ifs with he hl
  · rfl
  · rfl
  · exact (ho.elim he hl).elim

/-- A translation is left as it stands, with LOG_GMC_IDENTITY when it is none. -/
theorem State.resolveWarp_translation (h32 : s.cfg.intBits = 32) {luma chroma : IVec}
    (hk : s.rawWarp = .translation s.gmcFactor luma chroma) (hl : luma.FitsWord) (hc : chroma.FitsWord) :
    s.resolveWarp = s.putWarp (.translation s.gmcFactor luma chroma) 1
      (s.identityLog (.translation s.gmcFactor luma chroma)) := by
  have hcol : s.rawWarp.collapse s.gmcFactor = .translation s.gmcFactor luma chroma := by
    rw [hk, Warp.collapse_translation]
  have hs : s.rawWarp.Scales s.gmcFactor := hk ▸ Warp.translation_scales ..
  have h := State.resolveWarp_scaling h32 hs (by rwa [hcol]) (by rwa [hcol])
  rwa [hcol] at h

/-- What GMC_RESOLVE leaves of the raw warp `k`: the collapse, the normalisation or the overflow. -/
theorem exec_gmcResolve_cases (h32 : s.cfg.intBits = 32) (hw : s.seq.width ≠ 0) (hh : s.seq.height ≠ 0)
    (hk : s.rawWarp = k) :
    let c := k.collapse s.gmcFactor
    let overflows := k.Overflows s.gmcFactor s.seq.width.toNat s.seq.height.toNat
    (k.Scales s.gmcFactor → (∀ v ∈ [c.luma.x, c.luma.y, c.chroma.x, c.chroma.y], InWord v) →
        exec .gmcResolve s = .next (s.putWarp c 1 (s.identityLog c)))
      ∧ (¬k.Scales s.gmcFactor → ¬overflows →
        exec .gmcResolve s = .next (s.putWarp k.normalise s.seq.numSpriteWarpingPoints s.status.log))
      ∧ (¬k.Scales s.gmcFactor → overflows → exec .gmcResolve s = .next s.gmcOverflow) := by
  subst hk
  rw [exec_gmcResolve hw hh]
  refine ⟨fun hs hfit => ?_, fun hs ho => ?_, fun hs ho => ?_⟩
  · simp only [List.forall_mem_cons] at hfit
    obtain ⟨hlx, hly, hcx, hcy, -⟩ := hfit
    rw [State.resolveWarp_scaling h32 hs ⟨hlx, hly⟩ ⟨hcx, hcy⟩]
  · rw [State.resolveWarp_normalised h32 hs ho]
  · rw [State.resolveWarp_overflow h32 hs ho]

/-! ## The reference point alone (R220) -/

theorem inWord_halfKeepingOdd {v : Int} (h : InWord v) : InWord (halfKeepingOdd v) := by
  obtain ⟨hl, hh⟩ := h
  rw [halfKeepingOdd_eq]
  constructor <;> split_ifs <;> omega

/-- Every variant of R217 keeps the first point within a word. -/
theorem State.inWord_refComponent (s : State) (v : BitVec 16) : InWord (s.refComponent 0 v.toInt) := by
  have hlow := v.le_toInt
  have hhigh := v.toInt_lt
  rw [State.refComponent]
  obtain ha | ha | ha | ha := s.gmcFactor_cases <;> rw [ha] <;> constructor <;> split_ifs <;> omega

/-- No point: the identity, logged. -/
theorem State.resolveWarp_none (h32 : s.cfg.intBits = 32) (hn : s.seq.numSpriteWarpingPoints = 0) :
    s.resolveWarp = s.putWarp (.translation s.gmcFactor ⟨0, 0⟩ ⟨0, 0⟩) 1 (s.status.log ||| 0x40) := by
  have hzero : IVec.FitsWord ⟨0, 0⟩ := ⟨⟨by decide, by decide⟩, by decide, by decide⟩
  rw [State.resolveWarp_translation h32 (State.rawWarp_none hn) hzero hzero, State.identityLog, if_pos ⟨rfl, rfl⟩]

/-- One point: the translation by it, and the identity exactly when it is zero. -/
theorem State.resolveWarp_one (h32 : s.cfg.intBits = 32) (hn : s.seq.numSpriteWarpingPoints = 1) :
    s.resolveWarp = s.putWarp (.translation s.gmcFactor s.spriteRef0
        ⟨halfKeepingOdd s.spriteRef0.x, halfKeepingOdd s.spriteRef0.y⟩) 1
      (if s.spriteRef0 = ⟨0, 0⟩ then s.status.log ||| 0x40 else s.status.log) := by
  have hx : InWord s.spriteRef0.x := s.inWord_refComponent _
  have hy : InWord s.spriteRef0.y := s.inWord_refComponent _
  rw [State.resolveWarp_translation h32 (State.rawWarp_one hn) ⟨hx, hy⟩
    ⟨inWord_halfKeepingOdd hx, inWord_halfKeepingOdd hy⟩]
  have hlog : ∀ p : IVec,
      (p = ⟨0, 0⟩ ∧ (⟨halfKeepingOdd p.x, halfKeepingOdd p.y⟩ : IVec) = ⟨0, 0⟩) ↔ p = ⟨0, 0⟩ :=
    fun p => and_iff_left_of_imp fun h => by rw [h]; decide
  simp only [State.identityLog, Warp.translation, hlog]

/-- The shift of the closed forms (R221, R222). -/
theorem State.add_rho (s : State) (n : Nat) :
    n + s.gmcIn.rho = n + 3 - s.seq.spriteWarpingAccuracy.toNat := by
  have hacc := s.seq.spriteWarpingAccuracy.isLt
  simp only [State.gmcIn]
  omega

/-- Settles O31: the raw warp of each number of points, and what the three tests leave of it. -/
theorem gmcResolveLeavesATranslation : Obligations.GmcResolveLeavesATranslation := by
  unfold Obligations.GmcResolveLeavesATranslation
  intro s h32
  refine ⟨fun hw hh hn => ?_, fun hw hh hn => ?_, fun al be hw hh hv h1 hup hleast hup' hleast' => ?_, fun h0 => ?_⟩
  · rw [exec_gmcResolve hw hh, State.resolveWarp_none h32 hn]
    rfl
  · rw [exec_gmcResolve hw hh, State.resolveWarp_one h32 hn, halfKeepingOdd_eq, halfKeepingOdd_eq]
    rfl
  · have hal := State.gmcIn_alpha hw h1 hup hleast
    have hbe := State.gmcIn_beta hh hup' hleast'
    have hw0 : 0 < s.gmcIn.w := Int.natCast_pos.2 (BitVec.toNat_pos_of_ne_zero hw)
    have hh0 : 0 < s.gmcIn.h := Int.natCast_pos.2 (BitVec.toNat_pos_of_ne_zero hh)
    refine ⟨fun hn hc => exec_gmcResolve_cases h32 hw hh ?_, fun hn hc => exec_gmcResolve_cases h32 hw hh ?_⟩
    · rw [State.rawWarp_two hn hv hc, warpTwo_eq (s.add_rho _), virtualRef0_eq hw0]
      simp only [GmcIn.w2, hal]
      rfl
    · rw [State.rawWarp_three hn hv hc, warpThree_eq (s.add_rho _), virtualRef0_eq hw0, virtualRef1_eq hh0]
      simp only [GmcIn.w2, GmcIn.h2, hal, hbe]
      rfl
  · exact ⟨_, exec_gmcResolve_noSize h0, rfl, rfl, rfl, rfl⟩

end Sys2Proof.Machine
end

section
/-! MB_STUDIO (43_macroblock.md R280, R282) and MVD run by itself (43_macroblock.md R257, R258). -/

namespace Sys2Proof.Machine

variable {s : State} {pred : Int} {fc p c : Nat}

/-! ## MB_STUDIO -/

theorem engineMove_mb (hf : s.fsm = .mb) : engineMove s = none := by simp only [engineMove, hf]

/-- A studio stream selects MB_STUDIO for a macroblock of any picture (30_encoding.md R110; log 21). -/
theorem decode_studioMb (hf : s.fsm = .mb) (hs : s.seq.studioProfile = true) :
    decode (fetch s).1 (fetch s).2 = .ok .mbStudio := by
  simp only [fetch, hf, decode, operationOf, hs, if_true]

/-- MB_STUDIO ends in its raise, with MB cleared and the condition logged. -/
theorem mbStudioP_raises (s : State) :
    mbStudioP s = .error ⟨.refusedStudio, .mbStudio⟩ (s.startMb.log .studio) := rfl

/-- What a fatal failure of MB_STUDIO leaves of the state that raised it (60_exceptions.md R371, R386; log 42). -/
theorem State.failFatally_mbStudio (u : State) : u.failFatally .macroblock .mbStudio = { u with
    fsm := .error
    status := { u.status with picValid := false }
    stores := { u.stores with rowprog := u.mbH }
    eng := { u.eng with failed :=
      u.eng.failed ++ List.range' u.mbi (if u.pic.partitionedFrame then max 1 u.slice.mbNumLeft.toNat else 1) } } := by
  simp only [State.mbi, State.mbW, State.mbH]
  rfl

/-- Settles O38: the raise is taken at the site of a macroblock, as the end of a picture. -/
theorem studioMacroblockIsRefused : Obligations.StudioMacroblockIsRefused := by
  unfold Obligations.StudioMacroblockIsRefused
  refine fun s => ⟨?_, fun hf hs => step_of_decoded (engineMove_mb hf) (decode_studioMb hf hs)⟩
  have hmask : LogFlag.studio.mask = 0x800 := by decide
  refine congrArg Host.Outcome.next ((runAt_error (mbStudioP_raises s)).trans ?_)
  refine (State.failFatally_mbStudio ((s.startMb.log .studio).recordRaise ⟨.refusedStudio, .mbStudio⟩)).trans ?_
  rw [← hmask]
  simp only [State.mbi, State.mbW, State.mbH]
  rfl

/-! ## MVD from a cursor inside BS -/

/-- Code 0 is the prediction. -/
theorem ReadsAt.mvdP_zero {u : State} {q : Nat} (h : ReadsAt s p u) (hl : s.lenFits = true) (hp : p ≤ s.endPos)
    (hn : s.readsNumbers [(.mv, 0)] p = some q) : Machine.mvdP pred fc u = .ok pred (u.atBit q) := by
  rw [Machine.mvdP, Parse.bind_ok (h.vlcNumber hl hp hn)]
  rfl

/-- What MVD run by itself hands over is what its parse answers. -/
theorem execMvd_of {v : Int} {t : State} (h : mvdP pred fc s = .ok v t) :
    exec (.mvd pred fc) s = .next { t with eng := { t.eng with ret := [v] } } := by
  refine congrArg Host.Outcome.next (runFor_ok ?_)
  rw [Parse.bind_ok h]
  rfl

/-- The first clause of O34 under the premise it leaves out, that the cursor stands inside BS (10_state.md R21). -/
theorem execMvd_zero (hl : s.lenFits = true) (hp : s.pos ≤ s.endPos)
    (hn : s.readsNumbers [(.mv, 0)] s.pos = some p) :
    exec (.mvd pred fc) s = .next { s.atBit p with eng := { s.eng with ret := [pred] } } :=
  execMvd_of ((ReadsAt.refl s).mvdP_zero hl hp hn)

/-- The wrapped value is the one of the signed (5 + fc)-bit range that is congruent to the sum (R258). -/
theorem wrapMv_spec (v : Int) (fc : Nat) :
    -(2 ^ (4 + fc)) ≤ wrapMv v fc ∧ wrapMv v fc < 2 ^ (4 + fc)
      ∧ wrapMv v fc % 2 ^ (5 + fc) = v % 2 ^ (5 + fc) := by
  have hm : (2 : Int) ^ (5 + fc) = 2 * 2 ^ (4 + fc) := by
    rw [show 5 + fc = 4 + fc + 1 from by omega, pow_succ]
    ring
  have hpos : (0 : Int) < 2 ^ (4 + fc) := by positivity
  unfold wrapMv
  dsimp only
  rw [hm]
  generalize (2 : Int) ^ (4 + fc) = k at *
  have h0 := Int.emod_nonneg v (show 2 * k ≠ 0 by omega)
  have h1 := Int.emod_lt_of_pos v (show 0 < 2 * k by omega)
  split
  · exact ⟨by omega, by omega, Int.emod_emod_of_dvd v dvd_rfl⟩
  · exact ⟨by omega, by omega, by rw [Int.sub_emod_right, Int.emod_emod_of_dvd v dvd_rfl]⟩

/-- The component that stands after code `c`, at least 1: its sign, its refinement, the sum with the prediction. -/
theorem State.readsMvd_of_code (hc : 1 ≤ c) (hn : s.readsNumbers [(.mv, c)] s.pos = some p)
    (hin : p + fc ≤ s.endPos) :
    let size : Int := (c - 1) * 2 ^ (fc - 1) + s.memRead (p + 1) (fc - 1) + 1
    s.readsMvd pred fc s.pos = some (wrapMv (pred + if s.bitAt p = 1 then -size else size) fc, p + fc) := by
  obtain ⟨row, hrow, hnum, rfl⟩ := State.readsNumbers_one.1 hn
  obtain ⟨k, rfl⟩ : ∃ k, c = k + 1 := ⟨c - 1, by omega⟩
  rw [State.readsMvd, eq_of_beq hrow]
  dsimp only
  rw [hnum]
  dsimp only
  rw [if_pos hin]
  push_cast
  rw [Int.add_sub_cancel]

/-- Code `c`, at least 1: the wrapped sum of the prediction and the refined differential (the second clause of O34). -/
theorem execMvd_refined (hl : s.lenFits = true) (hfc : 1 ≤ fc) (hc : 1 ≤ c)
    (hn : s.readsNumbers [(.mv, c)] s.pos = some p) (hin : p + fc ≤ s.endPos) :
    let size : Int := (c - 1) * 2 ^ (fc - 1) + s.memRead (p + 1) (fc - 1) + 1
    let raw : Int := pred + (if s.bitAt p = 1 then -size else size)
    ∃ v : Int, -(2 ^ (4 + fc)) ≤ v ∧ v < 2 ^ (4 + fc) ∧ v % 2 ^ (5 + fc) = raw % 2 ^ (5 + fc)
      ∧ exec (.mvd pred fc) s = .next { s.atBit (p + fc) with eng := { s.eng with ret := [v] } } := by
  intro size raw
  have hp : s.pos ≤ s.endPos := by
    have := State.readsNumbers_le hn
    omega
  have hrun := (ReadsAt.refl s).mvdP hl hp (by omega) (State.readsMvd_of_code (pred := pred) hc hn hin)
  obtain ⟨hlo, hhi, hmod⟩ := wrapMv_spec raw fc
  exact ⟨wrapMv raw fc, hlo, hhi, hmod, execMvd_of hrun⟩

/-- No code word: INVALID_DATA, and the recovery of the slice (the third clause of O34). -/
theorem execMvd_invalid (h : s.readsInvalid .mv = true) :
    ∃ t, exec (.mvd pred fc) s = .next t ∧ t.fsm = .resyncCheck ∧ t.status.result = .invalidData
      ∧ t.status.tag = .mbMv ∧ t.bitpos = s.bitpos := by
  have hparse : mvdP pred fc s = .error (invalid .mbMv) s := by
    rw [mvdP, Parse.bind_error (vlcNumber_invalid h)]
  have htake : s.takeRaise .macroblock (invalid .mbMv) =
      (s.recordRaise (invalid .mbMv)).failRecoverably .macroblock .mbMv := rfl
  refine ⟨_, congrArg Host.Outcome.next ((runFor_error (Parse.bind_error hparse)).trans htake), ?_⟩
  exact ⟨rfl, rfl, rfl, rfl⟩

/-! ## A cursor that cannot hold its position -/

/-- A cursor of no bits is at bit 0 after every write. -/
theorem State.setPos_of_noCursor (h : s.cfg.cursorBits = 0) (p : Nat) : s.setPos p = s.atBit 0 := by
  have hlt := (toU s.cfg.cursorBits p).isLt
  have hzero : (toU s.cfg.cursorBits p).toNat = 0 := by
    generalize (toU s.cfg.cursorBits p).toNat = k at hlt ⊢
    rw [h] at hlt
    omega
  rw [State.setPos, hzero]
  rfl

/-- A code of no bits for code 0, under CFG.CURSOR_BITS = 0: what O34's premises do not exclude. -/
def noCursorCfg : Cfg :=
  { Config.initial with cursorBits := 0, vlc := { Config.initial.vlc with mv := [⟨0, 0, .num 0⟩] } }

/-- BITPOS beyond the empty BS, at a bit that its register cannot hold. -/
def pastNoCursor : State := { State.reset with bitpos := 1, fsm := .mb, cfg := noCursorCfg }

/-- Looked for through the cursor, the code word stands at bit 1: the write of 1 leaves the cursor at bit 0. -/
theorem pastNoCursor_readsNumbers : pastNoCursor.readsNumbers [(.mv, 0)] pastNoCursor.pos = some 1 := by
  rw [State.readsNumbers_one]
  refine ⟨⟨0, 0, .num 0⟩, ?_, rfl, rfl⟩
  rw [State.readsRow, State.setPos_of_noCursor rfl]
  decide

/-- MVD, which reads at bit 1 itself, finds BS exhausted. -/
theorem pastNoCursor_exhausted : ∃ t, exec (.mvd 0 1) pastNoCursor = .next t ∧ t.fsm = .error :=
  ⟨_, rfl, rfl⟩

/-- Refutes O34: its first clause does not say that the cursor stands inside BS. Under CFG.CURSOR_BITS = 0 the cursor
stands at bit 1 of an empty BS, and code 0 is found only by a write of the cursor that does not fit. Where the cursor
stands inside BS all three clauses hold: `execMvd_zero`, `execMvd_refined`, `execMvd_invalid`. -/
theorem not_mvdAddsAndWraps : ¬ Obligations.MvdAddsAndWraps := by
  unfold Obligations.MvdAddsAndWraps
  intro h
  obtain ⟨hzero, _, _⟩ := h pastNoCursor 0 1 (by decide) (by decide) (by decide)
  have hsays := hzero 1 pastNoCursor_readsNumbers
  obtain ⟨t, hexec, herr⟩ := pastNoCursor_exhausted
  rw [hexec] at hsays
  have hfsm : t.fsm = .mb := congrArg State.fsm (Host.Outcome.next.inj hsays)
  rw [herr] at hfsm
  cases hfsm

end Sys2Proof.Machine
end

section
/-! The end of a macroblock of an I, P or S picture (43_macroblock.md R262, R263), and the predictor of a vector
(43_macroblock.md R255). -/

namespace Sys2Proof.Machine

variable {s u : State} {v : Mv}

/-! ## The end -/

theorem State.storeMotion_intra (hb : s.pic.pictType ≠ .b) (hi : s.mb.intra = true) :
    s.storeMotion = s.writeMvAll (Vec.zero 16) := by rw [State.storeMotion, if_neg hb, if_pos hi]

theorem State.storeMotion_frame (hb : s.pic.pictType ≠ .b) (hi : s.mb.intra = false) (ht : s.mb.mvType = .mv16x16) :
    s.storeMotion = s.writeMvAll s.mb.mvFwd.v0 := by
  rw [State.storeMotion, if_neg hb, hi, if_neg Bool.false_ne_true, ht]

/-- The state after the end of a macroblock whose four luma blocks have the vector `v`. -/
def State.endedWith (s : State) (v : Mv) : State :=
  { s with
    fsm := .resyncCheck
    slice := { s.slice with
      mbValid := BitVec.ofNat 20 (s.slice.mbValid.toNat + 1), nextMbi := BitVec.ofNat 20 (s.mbi + 1) }
    stores := { s.stores with
      qmem := Cells.write 0 s.mbi s.mb.qscale s.stores.qmem
      mvmem := (s.writeMvAll v).stores.mvmem
      mbtype := Cells.write MbType.zero s.mbi s.mb.typeWord s.stores.mbtype }
    eng := { s.eng with phase := .peek, failed := s.eng.failed.filter (fun i => i != s.mbi) } }

/-- `s` with MVMEM replaced. -/
def State.withMvmem (s : State) (c : Cells Mv) : State := { s with stores := { s.stores with mvmem := c } }

/-- The write of the four vectors is a write of MVMEM alone. -/
theorem State.writeMvAll_eq (s : State) (v : Mv) : s.writeMvAll v = s.withMvmem (s.writeMvAll v).stores.mvmem := by
  have again : ∀ c n, ∃ c', (s.withMvmem c).writeMv n v = s.withMvmem c' := fun _ _ => ⟨_, rfl⟩
  obtain ⟨c0, h0⟩ := again s.stores.mvmem 0
  obtain ⟨c1, h1⟩ := again c0 1
  obtain ⟨c2, h2⟩ := again c1 2
  obtain ⟨c3, h3⟩ := again c2 3
  have hall : s.writeMvAll v = s.withMvmem c3 := by
    rw [← h3, ← h2, ← h1, ← h0]
    rfl
  rw [hall]
  rfl

theorem State.writeQ_writeMv (s : State) (q : BitVec 9) (n : Fin 4) (v : Mv) :
    (s.writeQ q).writeMv n v = (s.writeMv n v).writeQ q := rfl

/-- The write of the quantiser and that of the vectors commute. -/
theorem State.writeQ_writeMvAll (s : State) (q : BitVec 9) (v : Mv) :
    (s.writeQ q).writeMvAll v = (s.writeMvAll v).writeQ q := by
  simp only [State.writeMvAll, State.writeQ_writeMv]

/-- `s` with the words of the macroblock written: the type, the quantiser, and MVMEM as `c`. -/
def State.storesWritten (s : State) (x : MbType) (q : BitVec 9) (c : Cells Mv) : State :=
  { s with stores := { s.stores with
      qmem := Cells.write 0 s.mbi q s.stores.qmem
      mvmem := c
      mbtype := Cells.write MbType.zero s.mbi x s.stores.mbtype } }

theorem State.storesWritten_eq (s : State) (x : MbType) (q : BitVec 9) (c : Cells Mv) :
    ((s.withMvmem c).writeQ q).writeMbType x = s.storesWritten x q c := rfl

/-- The end of a macroblock by the vector that it stores. -/
theorem State.endMb_eq (hm : (s.writeQ s.mb.qscale).storeMotion = (s.writeQ s.mb.qscale).writeMvAll v)
    (hv : s.slice.mbValid.toNat + 1 < 1048576) (hi : s.mbi + 1 < 1048576) : s.endMb = s.endedWith v := by
  have e1 : toU 20 ((s.slice.mbValid.toNat + 1 : Nat) : Int) = BitVec.ofNat 20 (s.slice.mbValid.toNat + 1) := toU_nat hv
  have e2 : toU 20 ((s.mbi + 1 : Nat) : Int) = BitVec.ofNat 20 (s.mbi + 1) := toU_nat hi
  have hmv := s.writeMvAll_eq v
  rw [State.endMb, State.epilogue, State.endedWith, hm, State.writeQ_writeMvAll]
  generalize (s.writeMvAll v).stores.mvmem = c at hmv ⊢
  have hmbi : ∀ x q c, (s.storesWritten x q c).mbi = s.mbi := fun _ _ _ => rfl
  rw [hmv, State.storesWritten_eq, State.noteDone, hmbi, ← e1, ← e2]
  dsimp only [State.updSlice, State.updEng, State.setFsm]
  rfl

/-! ## The predictor -/

/-- A candidate by the side of the picture it stands on. -/
theorem State.candidate_eq (s : State) (x y : Int) : s.candidate x y =
    if 0 ≤ x ∧ 0 ≤ y ∧ x < 2 * (s.mbW : Int) then mvValue (s.mvAt x.toNat y.toNat) else ⟨0, 0⟩ := by
  rw [State.candidate]
  push_cast
  by_cases h : x < 0 ∨ y < 0 ∨ 2 * (s.mbW : Int) ≤ x
  · rw [if_pos h, if_neg (by omega)]
  · rw [if_neg h, if_pos (by omega)]

/-- The median is what the greatest and the least of three leave. -/
theorem mid_eq (a b c : Int) : mid a b c = a + b + c - max a (max b c) - min a (min b c) := by
  rw [mid]
  omega

theorem topRightOffset_eq (n : Fin 4) : topRightOffset n = ([2, 1, 1, -1] : List Int).getD n.val 0 := by
  fin_cases n <;> rfl

theorem State.blockX_luma (s : State) (n : Fin 4) :
    (s.blockX (lumaBlock n) : Int) = 2 * s.slice.mbX.toNat + (n.val % 2 : Nat) := by
  rw [State.blockX, if_pos (show (lumaBlock n).val < 4 from n.isLt)]
  push_cast
  rfl

theorem State.blockY_luma (s : State) (n : Fin 4) :
    (s.blockY (lumaBlock n) : Int) = 2 * s.slice.mbY.toNat + (n.val / 2 : Nat) := by
  rw [State.blockY, if_pos (show (lumaBlock n).val < 4 from n.isLt)]
  push_cast
  rfl

/-- The masks of the first slice line over the candidates `A`, `B` and `C` of block `n` (R255). -/
def State.maskedMedian (s : State) (n : Fin 4) (A B C : IVec) : IVec :=
  let first := s.slice.mbX = s.slice.resyncMbX
  let before := s.slice.mbX.toNat + 1 = s.slice.resyncMbX.toNat
  if s.slice.firstSliceLine = true ∧ n = 0 ∧ first then ⟨0, 0⟩
  else if s.slice.firstSliceLine = true ∧ n = 0 ∧ before ∧ s.slice.mbX = 0 then C
  else if s.slice.firstSliceLine = true ∧ (n = 0 ∨ n = 1) ∧ before then midVec A ⟨0, 0⟩ C
  else if s.slice.firstSliceLine = true ∧ (n = 0 ∨ n = 1) then A
  else if s.slice.firstSliceLine = true ∧ n = 2 ∧ first then midVec ⟨0, 0⟩ B C
  else midVec A B C

/-- PredMV(n) is the median of its candidates under the masks of the first slice line. -/
theorem State.predMv_eq (s : State) (n : Fin 4) : s.predMv n = s.maskedMedian n
    (s.candidate (s.blockX (lumaBlock n) - 1) (s.blockY (lumaBlock n)))
    (s.candidate (s.blockX (lumaBlock n)) (s.blockY (lumaBlock n) - 1))
    (s.candidate (s.blockX (lumaBlock n) + topRightOffset n) (s.blockY (lumaBlock n) - 1)) := by
  unfold State.predMv State.maskedMedian
  dsimp only
  generalize s.candidate ((s.blockX (lumaBlock n) : Int) - 1) _ = A
  generalize s.candidate (s.blockX (lumaBlock n)) _ = B
  generalize s.candidate ((s.blockX (lumaBlock n) : Int) + topRightOffset n) _ = C
  by_cases hline : s.slice.firstSliceLine = true
  · by_cases hfirst : s.slice.mbX = s.slice.resyncMbX
    · match n with
      | 0 => simp [hline, hfirst]
      | 1 => simp [hline, hfirst]
      | 2 => simp [hline, hfirst]
      | 3 => simp [hline, hfirst]
    · match n with
      | 0 =>
        by_cases hbefore : s.slice.mbX.toNat + 1 = s.slice.resyncMbX.toNat
        · simp [hline, hfirst, hbefore]
        · simp [hline, hfirst, hbefore]
      | 1 => simp [hline, hfirst]
      | 2 => simp [hline, hfirst]
      | 3 => simp [hline, hfirst]
  · simp [hline]

end Sys2Proof.Machine
end

section
/-! MB_P (43_macroblock.md R250 to R256, R261): a skipped macroblock, and a macroblock of one vector with no differential
and no coded block. -/

namespace Sys2Proof.Machine

variable {s b u : State} {e : Raise} {p q r c : Nat} {l : Slice} {m : Mb} {w : IVec} {fc : Nat}

theorem State.startMb_eq (s : State) : s.startMb = s.withMb s.pos s.slice s.cleanMb := rfl

theorem State.isGmc_iff : s.isGmc = true ↔ s.pic.pictType = .s ∧ s.seq.spriteUsage = 2 := by
  rw [State.isGmc, Bool.and_eq_true, beq_iff_eq, beq_iff_eq, spriteGmc]

/-! ## The skip flag and the mode class -/

/-- A skip flag of 1 (R251). -/
theorem ReadsAt.interMcbpc_skipped (h : ReadsAt s p u) (hl : s.lenFits = true) (hbit : s.bitsAre p 1 1 = true) :
    interMcbpc e u.turns u = .ok none (u.atBit (p + 1)) := by
  rw [State.turns, interMcbpc, Parse.bind_ok (h.getFlag_of_bitsAre hl hbit)]
  rfl

/-- A skip flag of 0, then a mode class that is not the stuffing (R251). -/
theorem ReadsAt.interMcbpc_class (h : ReadsAt s p u) (hl : s.lenFits = true) (hbit : s.bitsAre p 1 0 = true)
    (hc : c ≠ 20) (hn : s.readsNumbers [(.interMcbpc, c)] (p + 1) = some q) :
    interMcbpc e u.turns u = .ok (some c) (u.atBit q) := by
  obtain ⟨hin, _⟩ := State.bitsAre_iff.1 hbit
  rw [State.turns, interMcbpc, Parse.bind_ok (h.getFlag_of_bitsAre hl hbit)]
  refine (Parse.bind_ok ((h.atBit (p + 1)).vlcNumber hl hin hn)).trans ?_
  rw [if_neg hc]
  rfl

/-! ## A skipped macroblock -/

/-- The vector of a skipped macroblock: the global one of GMC, or zero (R252). -/
def State.skipVector (s : State) : Mv := if s.isGmc then s.amvVec else Vec.zero 16

/-- The record of a skipped macroblock (R252). -/
def State.skipRecord (s : State) : Mb :=
  { s.cleanMb with
    mvDir := 2, mvFwd := ⟨s.skipVector, ⟨0, 0⟩, ⟨0, 0⟩, ⟨0, 0⟩⟩, mcsel := s.isGmc, skipped := !s.isGmc }

theorem State.skippedMb_withMb (s : State) (p : Nat) :
    (s.withMb p s.slice s.cleanMb).skippedMb = s.withMb p s.slice s.skipRecord := by
  have hg : (s.withMb p s.slice s.cleanMb).isGmc = s.isGmc := rfl
  rw [State.skippedMb, State.skipRecord, State.skipVector]
  dsimp only [State.updMb]
  rw [hg]
  cases s.isGmc <;> rfl

/-- MB_P with a skip flag of 1. -/
theorem execMbP_skipped (hl : s.lenFits = true) (hfit : s.fitsStores = true) (hb : s.pic.pictType ≠ .b)
    (hv : s.slice.mbValid.toNat + 1 < 1048576) (hi : s.mbi + 1 < 1048576) (hbit : s.bitsAre s.pos 1 1 = true) :
    exec .mbP s = .next ((s.withMb (s.pos + 1) s.slice s.skipRecord).endedWith s.skipVector) := by
  have hread : ReadsAt s s.pos (s.withMb s.pos s.slice s.cleanMb) := (ReadsAt.refl s).ofBase _ _ _
  have hrun : mbPP s = .ok () (s.withMb (s.pos + 1) s.slice s.skipRecord).endMb := by
    rw [mbPP, Parse.update_bind, State.startMb_eq, Parse.getState_bind,
      Parse.bind_ok (hread.interMcbpc_skipped hl hbit), ← State.skippedMb_withMb]
    rfl
  refine (inStores_fits hfit).trans (congrArg _ ((runAt_ok hrun).trans ?_))
  exact State.endMb_eq (State.storeMotion_frame hb rfl rfl) hv hi

/-! ## One vector with no differential -/

/-- Two components of code 0 are the prediction (R256, R257). -/
theorem ReadsAt.mvdPair_zero (h : ReadsAt s p u) (hl : s.lenFits = true) (hp : p ≤ s.endPos)
    (hn : s.readsNumbers [(.mv, 0), (.mv, 0)] p = some q) : Machine.mvdPair w fc u = .ok w (u.atBit q) := by
  obtain ⟨x, hx, hy⟩ := State.readsNumbers_cons.1 hn
  rw [Machine.mvdPair, Parse.bind_ok (h.mvdP_zero hl hp hx),
    Parse.bind_ok ((h.atBit x).mvdP_zero hl (State.readsNumber_inside hl hp hx) hy)]
  rfl

/-- The motion of a macroblock of one vector with no differential (R256). -/
theorem ReadsAt.interMotion_zero (h : ReadsAt s p (b.withMb p l m)) (hl : s.lenFits = true) (hp : p ≤ s.endPos)
    (hlace : b.seq.interlaced = false) (hm : m.mcsel = false)
    (hn : s.readsNumbers [(.mv, 0), (.mv, 0)] p = some q) :
    interMotion e false (b.withMb p l m) = .ok () (b.withMb q l { m with
      mvDir := 2, mvType := .mv16x16, mvFwd := m.mvFwd.set 0 ((b.withMb p l m).predMv 0).toMv }) := by
  have hread := h.withMb p l { m with mvDir := dirForward, mvType := .mv16x16 }
  rw [interMotion, Parse.update_bind, Parse.getState_bind, if_neg Bool.false_ne_true,
    show ((b.withMb p l m).setMvDir dirForward).mb.mcsel = m.mcsel from rfl, hm, if_neg Bool.false_ne_true, motionOne,
    Parse.getState_bind, show ((b.withMb p l m).setMvDir dirForward).seq.interlaced = b.seq.interlaced from rfl, hlace,
    if_neg Bool.false_ne_true, motion16, Parse.update_bind, Parse.getState_bind]
  refine (Parse.bind_ok (hread.mvdPair_zero hl hp hn)).trans ?_
  rw [hm]
  rfl

/-- A true inter macroblock outside GMC and interlace, with no coded block and no differential (R253 to R256, R261). -/
theorem ReadsAt.interBody_zero (h : ReadsAt s p (b.withMb p l m)) (hl : s.lenFits = true) (hp : p ≤ s.endPos)
    (hg : b.isGmc = false) (hlace : b.seq.interlaced = false) (hm : m.cbpc = 0)
    (hn : s.readsNumbers [(.cbpy, 15), (.mv, 0), (.mv, 0)] p = some q) :
    interBody e false false (b.withMb p l m) = .ok () (b.withMb q l { m with
      mcsel := false, cbp := 0, mvDir := 2, mvType := .mv16x16
      mvFwd := m.mvFwd.set 0 ((b.withMb p l m).predMv 0).toMv, lastIndex := Six.all (-1) }) := by
  obtain ⟨k, hk, hmv⟩ := State.readsNumbers_cons.1 hn
  have hk' := State.readsNumber_inside hl hp hk
  have hsel : mcselFlag e false (b.withMb p l m) = .ok () (b.withMb p l { m with mcsel := false }) := by
    rw [mcselFlag, Parse.getState_bind, show (b.withMb p l m).isGmc = b.isGmc from rfl, hg]
    rfl
  have hcbp : (b.withMb k l { m with mcsel := false }).setCbp (15 - 15) =
      b.withMb k l { m with mcsel := false, cbp := 0 } := by
    rw [State.setCbp]
    show b.withMb k l { m with mcsel := false, cbp := toU 6 ((4 * (15 - 15) + m.cbpc.toNat : Nat) : Int) } = _
    rw [hm]
    rfl
  have hdct : fieldDct e ((b.withMb k l { m with mcsel := false, cbp := 0 }).seq.interlaced
      && ((b.withMb k l { m with mcsel := false, cbp := 0 }).mb.cbp != 0
        || (b.withMb k l { m with mcsel := false, cbp := 0 }).quirk .xvidIlace)) = pure () := by
    rw [show (b.withMb k l { m with mcsel := false, cbp := 0 }).seq.interlaced = b.seq.interlaced from rfl, hlace,
      Bool.false_and]
    exact whenP_false _
  have hmotion := (h.withMb k l { m with mcsel := false, cbp := 0 }).interMotion_zero (e := e) hl hk' hlace rfl hmv
  rw [interBody, Parse.bind_ok hsel,
    Parse.bind_ok ((h.withMb p l { m with mcsel := false }).vlcNumber hl hp hk), Parse.update_bind]
  show (whenP false (dquantP e) >>= _) ((b.withMb k l { m with mcsel := false }).setCbp (15 - 15)) = _
  rw [hcbp, whenP_false, Parse.pure_bind', Parse.getState_bind, hdct, Parse.pure_bind', Parse.bind_ok hmotion]
  exact interBlocks_uncoded rfl

/-- The record of a macroblock of one vector `v` with no coded block. -/
def State.plainRecord (s : State) (v : Mv) : Mb :=
  { s.cleanMb with mvDir := 2, mvFwd := ⟨v, ⟨0, 0⟩, ⟨0, 0⟩, ⟨0, 0⟩⟩ }

/-- MB_P with a skip flag of 0, mode class 0, no coded block and no differential, outside GMC and interlace. -/
theorem execMbP_plain (hl : s.lenFits = true) (hfit : s.fitsStores = true) (hb : s.pic.pictType ≠ .b)
    (hv : s.slice.mbValid.toNat + 1 < 1048576) (hi : s.mbi + 1 < 1048576) (hg : s.isGmc = false)
    (hlace : s.seq.interlaced = false) (hbit : s.bitsAre s.pos 1 0 = true)
    (hn : s.readsNumbers [(.interMcbpc, 0), (.cbpy, 15), (.mv, 0), (.mv, 0)] (s.pos + 1) = some p) :
    exec .mbP s =
      .next ((s.withMb p s.slice (s.plainRecord (s.predMv 0).toMv)).endedWith (s.predMv 0).toMv) := by
  obtain ⟨hin, _⟩ := State.bitsAre_iff.1 hbit
  obtain ⟨k, hk, hrest⟩ := State.readsNumbers_cons.1 hn
  have hread : ReadsAt s s.pos (s.withMb s.pos s.slice s.cleanMb) := (ReadsAt.refl s).ofBase _ _ _
  have hbody := (hread.withMb k s.slice { s.cleanMb with cbpc := 0, intra := false }).interBody_zero
    (e := exhausted .mbPMcbpc) hl (State.readsNumber_inside hl hin hk) hg hlace rfl hrest
  have hcoded : codedMb (exhausted .mbPMcbpc) 0 (s.withMb k s.slice s.cleanMb) =
      .ok () (s.withMb p s.slice (s.plainRecord (s.predMv 0).toMv)) := hbody
  have hrun : mbPP s = .ok () (s.withMb p s.slice (s.plainRecord (s.predMv 0).toMv)).endMb := by
    rw [mbPP, Parse.update_bind, State.startMb_eq, Parse.getState_bind,
      Parse.bind_ok (hread.interMcbpc_class hl hbit (by decide) hk)]
    exact Parse.bind_ok hcoded
  refine (inStores_fits hfit).trans (congrArg _ ((runAt_ok hrun).trans ?_))
  exact State.endMb_eq (State.storeMotion_frame hb rfl rfl) hv hi

/-- Settles O36: a skipped macroblock, a plain one, and the masks and the median of the predictor. -/
theorem skippedMacroblockMoves : Obligations.SkippedMacroblockMoves := by
  unfold Obligations.SkippedMacroblockMoves
  intro s clean ended gmc cand middle median
  have hgmc : gmc = s.isGmc := by rw [Bool.eq_iff_iff, decide_eq_true_eq, State.isGmc_iff]
  refine ⟨fun hl hfit hpic hv hi => ?_, fun n => ?_⟩
  · have hb : s.pic.pictType ≠ .b := by
      rintro h
      rw [h] at hpic
      obtain h | h := hpic <;> cases h
    refine ⟨fun hbit => ?_, fun p hg hlace hbit hn => ?_⟩
    · intro v
      have hskip : s.skipVector = v := by
        show (if s.isGmc = true then s.amvVec else Vec.zero 16) = if gmc = true then s.amvVec else ⟨0, 0⟩
        rw [hgmc]
        rfl
      rw [execMbP_skipped hl hfit hb hv hi hbit, State.skipRecord, hskip, hgmc]
      rfl
    · exact execMbP_plain hl hfit hb hv hi (hgmc ▸ hg) hlace hbit hn
  · intro bx bY A B C first before
    have hmedian : midVec = median := by
      funext a b c
      exact congrArg₂ IVec.mk (mid_eq _ _ _) (mid_eq _ _ _)
    have hcand : s.candidate = cand := by
      funext x y
      exact s.candidate_eq x y
    rw [State.predMv_eq, State.maskedMedian, hcand, hmedian, s.blockX_luma, s.blockY_luma, topRightOffset_eq]

end Sys2Proof.Machine
end

section
/-! MB_I with no coded block and every DC among the coefficients (43_macroblock.md R240 to R249; 44_residual.md R290,
R294): what the block loop writes, and the whole operation. -/

namespace Sys2Proof.Machine

variable {s b u : State} {e : Raise} {p q : Nat} {l : Slice} {m : Mb} {x : Six (BitVec 7)} {n : Fin 6}

/-! ## What the intra blocks write -/

/-- `b` with the directions, the coefficients and the last indices of its blocks, and the planes of DCMEM and ACMEM
from `st`. -/
def State.withBlocks (b : State) (dirs : Six Bool) (blocks : Six (Cells (BitVec 16))) (x : Six (BitVec 7))
    (st : Stores) : State :=
  { b with
    mb := { b.mb with predDir := dirs, block := blocks, lastIndex := x }
    stores := { b.stores with
      dcLuma := st.dcLuma, dcCb := st.dcCb, dcCr := st.dcCr, acLuma := st.acLuma, acCb := st.acCb, acCr := st.acCr } }

/-- One block of the intra block loop (R249). -/
def intraBlock (n : Fin 6) : Parse Unit := do
  let s ← getState
  blockIntraP n (s.codedBit n)

theorem intraBlocks_eq : intraBlocks = forEach intraBlock sixBlocks := rfl

/-- Inside the block loop of an intra macroblock that began in `b`: the last indices are `x`, and nothing else but the
directions, the coefficients and the planes of DCMEM and ACMEM is written. -/
def InBlocks (b : State) (x : Six (BitVec 7)) (u : State) : Prop := ∃ dirs blocks st, u = b.withBlocks dirs blocks x st

namespace InBlocks

theorem start (b : State) : InBlocks b b.mb.lastIndex b := ⟨_, _, b.stores, rfl⟩

theorem ctrl (h : InBlocks b x u) : u.ctrl = b.ctrl := by
  obtain ⟨_, _, _, rfl⟩ := h
  rfl

theorem eng (h : InBlocks b x u) : u.eng = b.eng := by
  obtain ⟨_, _, _, rfl⟩ := h
  rfl

theorem cbp (h : InBlocks b x u) : u.mb.cbp = b.mb.cbp := by
  obtain ⟨_, _, _, rfl⟩ := h
  rfl

theorem acPred (h : InBlocks b x u) : u.mb.acPred = b.mb.acPred := by
  obtain ⟨_, _, _, rfl⟩ := h
  rfl

theorem setDir (h : InBlocks b x u) (n : Fin 6) (d : Bool) : InBlocks b x (u.setDir n d) := by
  obtain ⟨_, _, st, rfl⟩ := h
  exact ⟨_, _, st, rfl⟩

theorem setCoef (h : InBlocks b x u) (n : Fin 6) (k : Nat) (v : Int) : InBlocks b x (u.setCoef n k v) := by
  obtain ⟨_, _, st, rfl⟩ := h
  exact ⟨_, _, st, rfl⟩

theorem setLastIndex (h : InBlocks b x u) (n : Fin 6) (i : Int) :
    InBlocks b (x.set n (toS 7 i)) (u.setLastIndex n i) := by
  obtain ⟨_, _, st, rfl⟩ := h
  exact ⟨_, _, st, rfl⟩

theorem writeDc (h : InBlocks b x u) (n : Fin 6) (v : BitVec 16) : InBlocks b x (u.writeDc n v) := by
  obtain ⟨dirs, blocks, st, rfl⟩ := h
  refine ⟨dirs, blocks, ((b.withBlocks dirs blocks x st).writeDc n v).stores, ?_⟩
  fin_cases n <;> rfl

theorem writeAc (h : InBlocks b x u) (n : Fin 6) (k : Nat) (v : BitVec 16) : InBlocks b x (u.writeAc n k v) := by
  obtain ⟨dirs, blocks, st, rfl⟩ := h
  refine ⟨dirs, blocks, ((b.withBlocks dirs blocks x st).writeAc n k v).stores, ?_⟩
  fin_cases n <;> rfl

/-- The read side of PRED_AC writes coefficients (R318). -/
theorem addAcAll (h : InBlocks b x u) (n : Fin 6) : InBlocks b x (u.addAcAll n) :=
  List.foldlRecOn _ _ h fun _ ht _ _ => ht.setCoef _ _ _

/-- The write side of PRED_AC writes ACMEM (R320). -/
theorem storeAcAll (h : InBlocks b x u) (n : Fin 6) : InBlocks b x (u.storeAcAll n) :=
  List.foldlRecOn _ _ h fun _ ht _ _ => (ht.writeAc _ _ _).writeAc _ _ _

theorem predAc (h : InBlocks b x u) (n : Fin 6) : InBlocks b x (u.predAc n) := by
  unfold State.predAc
  split
  · exact (h.addAcAll n).storeAcAll n
  · exact h.storeAcAll n

/-- The last index of an uncoded block: 63 under AC prediction, 0 without (R290, R321). -/
theorem endIntra (h : InBlocks b x u) (n : Fin 6) :
    InBlocks b (x.set n (if b.mb.acPred then 63 else 0)) (u.endIntra n 0) := by
  have hi : toS 7 (if u.mb.acPred then 63 else 0) = if b.mb.acPred then 63 else 0 := by
    rw [h.acPred]
    cases b.mb.acPred <;> decide
  rw [← hi]
  exact (h.predAc n).setLastIndex n _

/-- An uncoded block with its DC among the coefficients (R290, R294). -/
theorem intraBlock_uncoded (h : InBlocks b x u) (hs : b.ctrl.strict = false) (hd : b.eng.useIntraDcVlc = false)
    (hc : b.mb.cbp = 0) (n : Fin 6) :
    ∃ v, intraBlock n u = .ok () v ∧ InBlocks b (x.set n (if b.mb.acPred then 63 else 0)) v := by
  have hbit : u.codedBit n = false := by
    rw [State.codedBit, h.cbp, hc]
    exact BitVec.getLsbD_zero
  have h1 : InBlocks b x (u.predDcDir n) := h.setDir n _
  obtain ⟨w, hw⟩ := predDcP_lenient (s := u.predDcDir n) (by rw [h1.ctrl, hs]) n ((u.predDcDir n).coefAt n 0)
  have h2 : InBlocks b x (((u.predDcDir n).predDcDir n).writeDc n w) := (h1.setDir n _).writeDc n w
  refine ⟨_, ?_, (h2.setCoef n 0 ((u.predDcDir n).coefAt n 0 + (u.predDcDir n).dcPredictor n)).endIntra n⟩
  rw [intraBlock, Parse.getState_bind, hbit, blockIntraP, Parse.getState_bind, h.eng, hd,
    if_neg Bool.false_ne_true, intraLate, Parse.update_bind]
  exact Parse.bind_ok hw

/-- The loop over blocks that are not coded. -/
theorem forEach_uncoded (hs : b.ctrl.strict = false) (hd : b.eng.useIntraDcVlc = false) (hc : b.mb.cbp = 0)
    (ns : List (Fin 6)) : ∀ {x u}, InBlocks b x u →
      ∃ v, forEach intraBlock ns u = .ok () v
        ∧ InBlocks b (ns.foldl (fun y n => y.set n (if b.mb.acPred then 63 else 0)) x) v := by
  induction ns with
  | nil => exact fun h => ⟨_, rfl, h⟩
  | cons n ns ih =>
    intro x u h
    obtain ⟨v, hv, h'⟩ := h.intraBlock_uncoded hs hd hc n
    obtain ⟨w, hw, h''⟩ := ih h'
    exact ⟨w, by rw [forEach_cons, Parse.bind_ok hv, hw], h''⟩

end InBlocks

/-- The block loop of an intra macroblock with no coded block (R249). -/
theorem intraBlocks_uncoded (hs : b.ctrl.strict = false) (hd : b.eng.useIntraDcVlc = false) (hc : b.mb.cbp = 0) :
    ∃ v, intraBlocks b = .ok () v ∧ InBlocks b (Six.all (if b.mb.acPred then 63 else 0)) v := by
  rw [intraBlocks_eq]
  exact InBlocks.forEach_uncoded hs hd hc sixBlocks (InBlocks.start b)

/-! ## The whole operation -/

/-- INTRA_MCBPC of a mode class that is not the stuffing (R241). -/
theorem ReadsAt.intraMcbpc_class (h : ReadsAt s p u) (hl : s.lenFits = true) (hp : p ≤ s.endPos) {c : Nat} (hc : c ≠ 8)
    (hn : s.readsNumbers [(.intraMcbpc, c)] p = some q) : intraMcbpc e u.turns u = .ok c (u.atBit q) := by
  rw [State.turns, intraMcbpc, Parse.bind_ok (h.vlcNumber hl hp hn), if_neg hc]
  rfl

/-- `s` with no DC read from a table of its own (R245). -/
def State.lateDc (s : State) : State := { s with eng := { s.eng with useIntraDcVlc := false } }

/-- From the AC flag to the blocks of an intra macroblock with no coded block, every DC among the coefficients (R242 to
R249). -/
theorem ReadsAt.intraBody_uncoded (h : ReadsAt s p (b.withMb p l m)) (hl : s.lenFits = true)
    (hs : b.ctrl.strict = false) (hlace : b.seq.interlaced = false) (ht : b.pic.intraDcThreshold = 0)
    (hm : m.cbpc = 0) (hin : p + 1 ≤ s.endPos) (hn : s.readsNumbers [(.cbpy, 0)] (p + 1) = some q) :
    ∃ v, intraBody e false (b.withMb p l m) = .ok () v
      ∧ InBlocks (b.lateDc.withMb q l { m with acPred := s.bitAt p == 1, cbp := 0 })
        (Six.all (if s.bitAt p == 1 then 63 else 0)) v := by
  have hset : ((b.withMb q l { m with acPred := s.bitAt p == 1 }).setCbp 0).setDcSwitch =
      b.lateDc.withMb q l { m with acPred := s.bitAt p == 1, cbp := 0 } := by
    have hcbp : toU 6 ((4 * 0 + m.cbpc.toNat : Nat) : Int) = 0 := by
      rw [hm]
      rfl
    have hdc : decide (b.pic.qscale.toNat < b.pic.intraDcThreshold.toNat) = false := by
      rw [ht]
      exact decide_eq_false (Nat.not_lt_zero _)
    rw [State.lateDc, ← hcbp, ← hdc]
    rfl
  obtain ⟨v, hv, hblocks⟩ := intraBlocks_uncoded
    (b := b.lateDc.withMb q l { m with acPred := s.bitAt p == 1, cbp := 0 }) hs rfl rfl
  refine ⟨v, ?_, hblocks⟩
  rw [intraBody, Parse.bind_ok (h.getFlag hl hin)]
  refine (Parse.bind_ok ((h.withMb (p + 1) l { m with acPred := s.bitAt p == 1 }).vlcNumber hl hin hn)).trans ?_
  rw [Parse.update_bind, Parse.update_bind]
  show (whenP false (dquantP e) >>= _)
    ((b.withMb q l { m with acPred := s.bitAt p == 1 }).setCbp 0).setDcSwitch = _
  rw [hset, whenP_false, Parse.pure_bind', Parse.getState_bind,
    show (b.lateDc.withMb q l { m with acPred := s.bitAt p == 1, cbp := 0 }).seq.interlaced = b.seq.interlaced from rfl,
    hlace, fieldDct, whenP_false, Parse.pure_bind']
  exact hv

/-- The record of an intra macroblock of mode class 0 before its body. -/
def State.intraStart (s : State) : Mb := { s.cleanMb with cbpc := 0, intra := true }

/-- MB_I of mode class 0 with no coded block: the block loop, then the end with the zero vector. -/
theorem execMbI_uncoded (hl : s.lenFits = true) (hfit : s.fitsStores = true) (hs : s.ctrl.strict = false)
    (hpic : s.pic.pictType = .i) (hlace : s.seq.interlaced = false) (ht : s.pic.intraDcThreshold = 0)
    (hv : s.slice.mbValid.toNat + 1 < 1048576) (hi : s.mbi + 1 < 1048576)
    (hn : s.readsNumbers [(.intraMcbpc, 0)] s.pos = some p) (hin : p + 1 ≤ s.endPos)
    (hy : s.readsNumbers [(.cbpy, 0)] (p + 1) = some q) :
    ∃ u, exec .mbI s = .next (u.endedWith (Vec.zero 16))
      ∧ InBlocks (s.lateDc.withMb q s.slice { s.intraStart with acPred := s.bitAt p == 1, cbp := 0 })
        (Six.all (if s.bitAt p == 1 then 63 else 0)) u := by
  have hread : ReadsAt s s.pos (s.withMb s.pos s.slice s.cleanMb) := (ReadsAt.refl s).ofBase _ _ _
  have hpos : s.pos ≤ s.endPos := by
    have := State.readsNumbers_le hn
    omega
  obtain ⟨u, hu, hblocks⟩ := (hread.withMb p s.slice s.intraStart).intraBody_uncoded (e := exhausted .mbIMcbpc) hl hs
    hlace ht rfl hin hy
  have hrun : mbIP s = .ok () u.endMb := by
    rw [mbIP, Parse.update_bind, State.startMb_eq, Parse.getState_bind,
      Parse.bind_ok (hread.intraMcbpc_class hl hpos (by decide) hn)]
    exact Parse.bind_ok hu
  have hend : u.endMb = u.endedWith (Vec.zero 16) := by
    obtain ⟨_, _, _, rfl⟩ := hblocks
    refine State.endMb_eq (State.storeMotion_intra ?_ rfl) hv hi
    show s.pic.pictType ≠ .b
    rw [hpic]
    nofun
  exact ⟨u, (inStores_fits hfit).trans (congrArg _ ((runAt_ok hrun).trans hend)), hblocks⟩

/-- Settles O35: the end of the macroblock writes its words, and the block loop before it leaves everything else. -/
theorem intraMacroblockCompletes : Obligations.IntraMacroblockCompletes := by
  unfold Obligations.IntraMacroblockCompletes
  intro s p q hl hfit hwf hs hpic hlace ht hv hi hn hin hy ac
  obtain ⟨u, hexec, dirs, blocks, st, rfl⟩ := execMbI_uncoded hl hfit hs hpic hlace ht hv hi hn hin hy
  obtain ⟨_, _, _, _, _, _, hq, hmv, hty, _⟩ := Stores.wf_iff.1 hwf
  refine ⟨_, hexec, rfl, rfl, rfl, rfl, rfl, rfl, rfl, rfl, rfl, rfl, rfl, rfl, rfl, Cells.read_write_same hq, ?_, ?_⟩
  · exact congrArg MbType.intra (Cells.read_write_same hty)
  · exact fun k => mvmem_writeMvAll (u := s) hmv (Vec.zero 16) k

end Sys2Proof.Machine
end

section
/-! RESYNC_PEEK (45_resync.md R334 to R336; 43_macroblock.md R263): the bits at the cursor that tell the end of a slice,
the answers, and the advance. -/

namespace Sys2Proof.Machine

variable {s : State} {p n k : Nat} {r : Boundary}

/-! ## Bits past the end, runs of zeros -/

/-- Past the end of BS every bit reads 0. -/
theorem State.memRead_past (h : s.endPos ≤ p) : s.memRead p n = 0 := by
  induction n with
  | zero => rfl
  | succ n ih => rw [State.memRead, ih, State.bitAt, if_neg (by omega)]

/-- A read over the end of BS is the bits up to it, then zeros. -/
theorem State.memRead_over (h : s.endPos ≤ p + n) (k : Nat) : s.memRead p (n + k) = 2 ^ k * s.memRead p n := by
  rw [State.memRead_add, State.memRead_past h, Nat.add_zero]

theorem State.peek_over (hn : n ≤ 16) (h : s.endPos ≤ s.pos + n) : s.peek 16 = 2 ^ (16 - n) * s.memRead s.pos n := by
  rw [← State.memRead_over h, Nat.add_sub_cancel' hn]
  rfl

/-- Bits that are all 0 begin with bits that are 0. -/
theorem State.memRead_zero_split {m : Nat} (h : s.memRead p (m + n) = 0) :
    s.memRead p m = 0 ∧ s.memRead (p + m) n = 0 := by
  rw [State.memRead_add] at h
  obtain ⟨hm, hn⟩ := Nat.add_eq_zero_iff.1 h
  exact ⟨(Nat.mul_eq_zero.1 hm).resolve_left (Nat.two_pow_pos n).ne', hn⟩

/-- A run of zeros goes on after `n` bits that are 0. -/
theorem State.zeroRun_add (h : s.memRead p n = 0) (k : Nat) : s.zeroRun (n + k) p = s.zeroRun k (p + n) + n := by
  induction n generalizing p with
  | zero => rw [Nat.zero_add]; rfl
  | succ n ih =>
    rw [Nat.add_comm n 1] at h
    obtain ⟨h0, hrest⟩ := State.memRead_zero_split h
    rw [State.memRead_one] at h0
    rw [show n + 1 + k = (n + k) + 1 by omega, State.zeroRun, if_pos h0, ih hrest, show p + 1 + n = p + (n + 1) by omega]
    omega

/-- A run of zeros that a 1 ends. -/
theorem State.zeroRun_of_bitsAre (hn : n < 32) (h : s.bitsAre p (n + 1) 1 = true) : s.zeroRun 32 p = n := by
  obtain ⟨hzeros, hone⟩ := State.bitsAre_split (m := n) (n := 1) h
  have hbit : s.bitAt (p + n) = 1 := by
    rw [← State.memRead_one]
    exact (State.bitsAre_iff.1 hone).2
  rw [show 32 = n + (31 - n + 1) by omega, State.zeroRun_add (State.bitsAre_iff.1 hzeros).2, State.zeroRun,
    if_neg (by omega), Nat.zero_add]

theorem alignUp_next (h : p % 8 = 0) : alignUp (p + 1) = p + 8 := by
  unfold alignUp
  omega

/-! ## The peek -/

/-- Padding is looked for: CTRL.QUIRK does not say that none is written, or the sequence has markers (R335). -/
def State.padded (s : State) : Prop := s.quirk .noPadding = false ∨ s.seq.resyncMarker = true

/-- No stuffing macroblock stands where the next 16 bits are all 0, or 256 or more (R334). -/
theorem State.stuffingHere_false (h : s.peek 16 = 0 ∨ 256 ≤ s.peek 16) : s.stuffingHere = false := by
  unfold State.stuffingHere
  obtain h | h := h
  · rw [h, Nat.zero_div]
    exact Bool.and_false _
  · rw [decide_eq_false (by omega : ¬s.peek 16 ≤ 0xFF), Bool.and_false, Bool.false_and]

theorem resyncPeekP_unpadded (h : ¬s.padded) : resyncPeekP s = .ok .ok s := by
  have h' : (s.quirk .noPadding && !s.seq.resyncMarker) = true := by
    unfold State.padded at h
    simpa using h
  rw [resyncPeekP, Parse.getState_bind, if_pos h']
  rfl

/-- Where no stuffing macroblock stands the peek is its answer. -/
theorem resyncPeekP_padded (h : s.padded) (hs : s.peek 16 = 0 ∨ 256 ≤ s.peek 16) : resyncPeekP s = boundaryAnswer s := by
  have h' : (s.quirk .noPadding && !s.seq.resyncMarker) = false := by
    unfold State.padded at h
    obtain h | h := h <;> simp [h]
  have hskip : skipStuffing s.turns s = .ok () s := by
    rw [State.turns, skipStuffing, Parse.getState_bind, State.stuffingHere_false hs]
    rfl
  rw [resyncPeekP, Parse.getState_bind, h', if_neg Bool.false_ne_true, Parse.bind_ok hskip]

/-- Inside the last byte the stuffing pattern decides. -/
theorem boundaryAnswer_lastByte (h : s.endPos ≤ s.pos + 8) :
    boundaryAnswer s = .ok (if s.lastByteIsStuffing then .sliceEnd else .ok) s := by
  rw [boundaryAnswer, Parse.getState_bind, if_pos h]
  rfl

/-- The stuffing byte at an aligned cursor, and the start of a run of zeros. -/
theorem boundaryAnswer_marker (hres : s.cfg.resync = Config.resync) (ha : s.pos % 8 = 0) (hin : s.pos + 8 < s.endPos)
    (hp : s.peek 16 = 0x7F00) : boundaryAnswer s = markerAnswer s := by
  have hstuff : s.stuffingThenZeros = true := by
    rw [State.stuffingThenZeros, State.stuffingBits, hres, ha, hp]
    decide
  rw [boundaryAnswer, Parse.getState_bind, if_neg (by omega), if_pos hstuff]

/-- A run of zeros of the required length without CTRL.STRICT: in a B picture the type of the next macroblock decides
where the number lies beyond it (R335). -/
theorem markerAnswer_lenient (hs : s.ctrl.strict = false) (hlen : s.prefixLen ≤ s.zeroRun 32 (alignUp (s.pos + 1))) :
    markerAnswer s = .ok (if s.pic.pictType = .b
      ∧ s.mbi + 1 < s.memRead (alignUp (s.pos + 1) + s.zeroRun 32 (alignUp (s.pos + 1)) + 1) s.mbNumBits
      ∧ (s.colocType (s.mbi + 1)).skipped then .ok else .sliceEnd) s := by
  rw [markerAnswer, Parse.getState_bind, if_neg (by omega), hs, if_neg (fun h => Bool.false_ne_true h.1)]
  split <;> rfl

/-! ## The patterns -/

/-- The stuffing pattern in the `n` bits that are left is the one of R331 for the place of the cursor in its byte. -/
theorem stuffing_fills (h1 : 1 ≤ n) (h8 : n ≤ 8) :
    ((2 ^ (16 - n) * (2 ^ (n - 1) - 1) / 256) ||| (2 ^ ((8 - n) % 8) - 1)
      == (Config.resync.stuffing.getD ((8 - n) % 8) 0 * 2 ^ ((8 - n) % 8)) ||| (2 ^ ((8 - n) % 8) - 1)) = true := by
  interval_cases n <;> decide

theorem stuffing_far (h1 : 1 ≤ n) (h8 : n ≤ 8) :
    2 ^ (16 - n) * (2 ^ (n - 1) - 1) = 0 ∨ 256 ≤ 2 ^ (16 - n) * (2 ^ (n - 1) - 1) := by
  interval_cases n <;> decide

/-- Inside the last byte, the stuffing pattern is the end of the slice (R335). -/
theorem resyncPeekP_stuffing (h : s.padded) (hres : s.cfg.resync = Config.resync) (h1 : 1 ≤ s.endPos - s.pos)
    (h8 : s.endPos - s.pos ≤ 8) (hv : s.memRead s.pos (s.endPos - s.pos) = 2 ^ (s.endPos - s.pos - 1) - 1) :
    resyncPeekP s = .ok .sliceEnd s := by
  have hmod : s.pos % 8 = (8 - (s.endPos - s.pos)) % 8 := by
    unfold State.endPos at *
    omega
  have hpeek : s.peek 16 = 2 ^ (16 - (s.endPos - s.pos)) * (2 ^ (s.endPos - s.pos - 1) - 1) := by
    rw [← hv]
    exact State.peek_over (by omega) (by omega)
  have hlast : s.lastByteIsStuffing = true := by
    rw [State.lastByteIsStuffing, State.stuffingBits, hpeek, hmod, hres]
    exact stuffing_fills h1 h8
  rw [resyncPeekP_padded h (by rw [hpeek]; exact stuffing_far h1 h8), boundaryAnswer_lastByte (by omega), hlast]
  rfl

/-- With no bit left the slice does not end (R336). -/
theorem resyncPeekP_atEnd (h : s.padded) (hres : s.cfg.resync = Config.resync) (he : s.pos = s.endPos) :
    resyncPeekP s = .ok .ok s := by
  have hpeek : s.peek 16 = 0 := State.memRead_past (le_of_eq he.symm)
  have hmod : s.pos % 8 = 0 := by
    rw [he, State.endPos, Nat.mul_mod_right]
  have hlast : s.lastByteIsStuffing = false := by
    rw [State.lastByteIsStuffing, State.stuffingBits, hpeek, hmod, hres]
    decide
  rw [resyncPeekP_padded h (.inl hpeek), boundaryAnswer_lastByte (by omega), hlast]
  rfl

/-- At an aligned cursor, the stuffing byte and zeros of the required length lead to the marker's answer. -/
theorem resyncPeekP_marker (h : s.padded) (hres : s.cfg.resync = Config.resync) (ha : s.pos % 8 = 0)
    (hin : s.pos + 8 < s.endPos) (hp : s.peek 16 = 0x7F00) : resyncPeekP s = markerAnswer s := by
  rw [resyncPeekP_padded h (.inr (by rw [hp]; decide)), boundaryAnswer_marker hres ha hin hp]

/-- A marker of an I picture is the end of the slice (R335). -/
theorem resyncPeekP_markerI (h : s.padded) (hres : s.cfg.resync = Config.resync) (hpic : s.pic.pictType = .i)
    (hs : s.ctrl.strict = false) (ha : s.pos % 8 = 0) (hin : s.pos + 24 ≤ s.endPos)
    (hv : s.memRead s.pos 24 = 0x7F0000) : resyncPeekP s = .ok .sliceEnd s := by
  have hbits : s.bitsAre s.pos 24 0x7F0000 = true := State.bitsAre_iff.2 ⟨hin, hv⟩
  have hpeek : s.peek 16 = 0x7F00 := (State.bitsAre_iff.1 (State.bitsAre_split (m := 16) (n := 8) hbits).1).2
  have hzeros : s.memRead (s.pos + 8) 16 = 0 :=
    (State.bitsAre_iff.1 (State.bitsAre_split (m := 8) (n := 16) hbits).2).2
  have hlen : s.prefixLen ≤ s.zeroRun 32 (alignUp (s.pos + 1)) := by
    rw [alignUp_next ha, State.zeroRun_add (n := 16) (k := 16) hzeros, State.prefixLen, hpic, hres]
    exact Nat.le_add_left 16 _
  rw [resyncPeekP_marker h hres ha (by omega) hpeek, markerAnswer_lenient hs hlen,
    if_neg (by rw [hpic]; rintro ⟨hb, _⟩; cases hb)]

/-- The zeros that a marker of a B picture needs, under the default patterns (R333). -/
theorem State.prefixLen_b (hres : s.cfg.resync = Config.resync) (hpic : s.pic.pictType = .b) :
    s.prefixLen = max (max s.pic.fCode.toNat s.pic.bCode.toNat) 2 + 15 := by
  rw [State.prefixLen, hpic, hres]
  rfl

/-- A marker of a B picture whose number lies beyond the next macroblock: the type of that one decides (R335). -/
theorem resyncPeekP_markerB (h : s.padded) (hres : s.cfg.resync = Config.resync) (hpic : s.pic.pictType = .b)
    (hs : s.ctrl.strict = false) (ha : s.pos % 8 = 0) {zeros : Nat} (hz : zeros = s.prefixLen)
    (hbits : s.bitsAre s.pos (9 + zeros) (0x7F * 2 ^ (zeros + 1) + 1) = true)
    (hnum : s.mbi + 1 < s.memRead (s.pos + 9 + zeros) s.mbNumBits) :
    resyncPeekP s = .ok (if (s.colocType (s.mbi + 1)).skipped then .ok else .sliceEnd) s := by
  have hz16 : 17 ≤ zeros ∧ zeros < 32 := by
    have := s.pic.fCode.isLt
    have := s.pic.bCode.isLt
    rw [hz, State.prefixLen_b hres hpic]
    omega
  obtain ⟨hin, _⟩ := State.bitsAre_iff.1 hbits
  rw [show 9 + zeros = 8 + (zeros + 1) by omega] at hbits
  obtain ⟨hbyte, htail⟩ := State.bitsAre_split hbits
  have hone : 1 < 2 ^ (zeros + 1) := Nat.one_lt_two_pow (by omega)
  rw [Nat.add_comm, Nat.add_mul_div_right _ _ (by omega), Nat.div_eq_of_lt hone] at hbyte
  rw [Nat.mul_add_mod_self_right, Nat.mod_eq_of_lt hone] at htail
  have hrun : s.zeroRun 32 (alignUp (s.pos + 1)) = zeros := by
    rw [alignUp_next ha]
    exact State.zeroRun_of_bitsAre hz16.2 htail
  have hpeek : s.peek 16 = 0x7F00 := by
    have hzeros := (State.bitsAre_iff.1 (State.bitsAre_split (m := zeros) (n := 1) htail).1).2
    rw [show zeros = 8 + (zeros - 8) by omega] at hzeros
    rw [State.peek, show 16 = 8 + 8 from rfl, State.memRead_add, (State.bitsAre_iff.1 hbyte).2,
      (State.memRead_zero_split hzeros).1]
    rfl
  rw [resyncPeekP_marker h hres ha (by omega) hpeek, markerAnswer_lenient hs (by rw [hrun, hz]), hrun, alignUp_next ha,
    show s.pos + 8 + zeros + 1 = s.pos + 9 + zeros by omega]
  simp only [hpic, hnum, true_and]

/-! ## The operation -/

/-- SLICE after the advance to the next macroblock (43_macroblock.md R263). -/
def State.nextSlice (s : State) : Slice :=
  let wraps := decide (s.slice.mbX.toNat + 1 = s.mbW)
  let x := if wraps then 0 else s.slice.mbX.toNat + 1
  let y := if wraps then s.slice.mbY.toNat + 1 else s.slice.mbY.toNat
  { s.slice with
    mbX := BitVec.ofNat 10 x, mbY := BitVec.ofNat 10 y
    firstSliceLine := s.slice.firstSliceLine
      && !decide (x = s.slice.resyncMbX.toNat ∧ y = s.slice.resyncMbY.toNat + 1) }

/-- ROWPROG[self] after the advance: the row that it finishes, if any. -/
def State.nextRow (s : State) : Nat :=
  if decide (s.slice.mbX.toNat + 1 = s.mbW) then s.slice.mbY.toNat + 1 else s.stores.rowprog

/-- The advance writes SLICE and ROWPROG[self]. -/
theorem State.advance_eq (hx : s.slice.mbX.toNat + 1 < 1024) (hy : s.slice.mbY.toNat + 1 < 1024) :
    s.advance = { s with slice := s.nextSlice, stores := { s.stores with rowprog := s.nextRow } } := by
  have hrow : ∀ c : Bool, (if c then s.publishRow (s.slice.mbY.toNat + 1) else s) =
      s.publishRow (if c then s.slice.mbY.toNat + 1 else s.stores.rowprog) := by
    intro c
    cases c <;> rfl
  have hfirst : ∀ c : Bool, (if c then false else s.slice.firstSliceLine) = (s.slice.firstSliceLine && !c) := by
    intro c
    cases c
    · exact (Bool.and_true _).symm
    · exact (Bool.and_false _).symm
  have hX : ∀ c : Bool, toU 10 ((if c then 0 else s.slice.mbX.toNat + 1 : Nat) : Int) =
      BitVec.ofNat 10 (if c then 0 else s.slice.mbX.toNat + 1) := fun c => toU_nat (by split <;> omega)
  have hY : ∀ c : Bool, toU 10 ((if c then s.slice.mbY.toNat + 1 else s.slice.mbY.toNat : Nat) : Int) =
      BitVec.ofNat 10 (if c then s.slice.mbY.toNat + 1 else s.slice.mbY.toNat) := fun c => toU_nat (by split <;> omega)
  unfold State.advance State.nextSlice State.nextRow
  simp only [← hfirst, ← hX, ← hY, hrow]
  rfl

/-- The state after RESYNC_PEEK answers `r`: the record, the advance and the result (43_macroblock.md R263). -/
def State.answered (s : State) (r : Boundary) : State :=
  { s with
    fsm := .resyncCheck
    status := { s.status with result := boundaryResult r }
    slice := s.nextSlice
    stores := { s.stores with rowprog := s.nextRow }
    port := s.port ++ [.decoded s.slice.mbX s.slice.mbY s.mb]
    eng := { s.eng with phase := .decide r } }

theorem State.emitMb_advance_answer (hx : s.slice.mbX.toNat + 1 < 1024) (hy : s.slice.mbY.toNat + 1 < 1024)
    (r : Boundary) : s.emitMb.advance.answer r = s.answered r := by
  rw [State.advance_eq (s := s.emitMb) hx hy]
  rfl

/-- RESYNC_PEEK by the answer of its peek, which consumes no bit. -/
theorem execResyncPeek_of (hx : s.slice.mbX.toNat + 1 < 1024) (hy : s.slice.mbY.toNat + 1 < 1024)
    (h : resyncPeekP s = .ok r s) : exec .resyncPeek s = .next (s.answered r) := by
  have hrun : peekStep s = .ok () (s.emitMb.advance.answer r) := by
    rw [peekStep, Parse.bind_ok h]
    rfl
  exact congrArg Host.Outcome.next ((runAt_ok hrun).trans (State.emitMb_advance_answer hx hy r))

/-- Settles O47: each clause is the answer of the peek in its case, and the advance is one for all. -/
theorem peekTellsTheSliceEnd : Obligations.PeekTellsTheSliceEnd := by
  unfold Obligations.PeekTellsTheSliceEnd
  intro s _ hres hx hy wraps x y answered rest padded
  have hexec {r : Boundary} (h : resyncPeekP s = .ok r s) : exec .resyncPeek s = .next (s.answered r) :=
    execResyncPeek_of hx hy h
  refine ⟨fun hp => hexec (resyncPeekP_unpadded hp), fun hp h1 h8 hv => hexec (resyncPeekP_stuffing hp hres h1 h8 hv),
    fun hp he => hexec (resyncPeekP_atEnd hp hres he),
    fun hp hpic hs ha hin hv => hexec (resyncPeekP_markerI hp hres hpic hs ha hin hv), ?_, ?_⟩
  · intro zeros num hp hpic hs ha hbits hnum
    rw [hexec (resyncPeekP_markerB hp hres hpic hs ha (State.prefixLen_b hres hpic).symm hbits hnum)]
    cases (s.colocType (s.mbi + 1)).skipped <;> rfl
  · exact fun hi hrow => State.colocType_published (State.published_iff.2 ⟨hi, hrow⟩)

end Sys2Proof.Machine
end

section
/-! Coefficients run by themselves (44_residual.md R297, R300, R301): what an INVALID_DATA of a block operation leaves,
the sign bit, and the raw escape between its markers. -/

namespace Sys2Proof.Machine

variable {s t u : State} {e : Raise} {p : Nat} {tag : Tag} {c : Coef} {m : Parse Coef} {last : Bool} {run level : Nat}
  {l : Int}

/-! ## The ends of a block operation -/

/-- What an INVALID_DATA in a block operation leaves: the recovery next, the tag in STATUS, MB, the stores and the
cursor as the raise found them (60_exceptions.md R371). -/
theorem State.takeRaise_invalidBlock (u : State) (tag : Tag) :
    (u.takeRaise .macroblock (invalid tag)).fsm = .resyncCheck
      ∧ (u.takeRaise .macroblock (invalid tag)).status.result = .invalidData
      ∧ (u.takeRaise .macroblock (invalid tag)).status.tag = tag
      ∧ (u.takeRaise .macroblock (invalid tag)).mb = u.mb
      ∧ (u.takeRaise .macroblock (invalid tag)).stores = u.stores
      ∧ (u.takeRaise .macroblock (invalid tag)).bitpos = u.bitpos := ⟨rfl, rfl, rfl, rfl, rfl, rfl⟩

/-- A coefficient operation run by itself hands its coefficient over (log 6). -/
theorem runFor_coef (h : m s = .ok c t) :
    runFor .macroblock (coefValues m) s = { t with eng := { t.eng with ret := c.values } } :=
  runFor_ok (Parse.bind_ok h)

theorem runFor_coef_invalid (h : m s = .error (invalid tag) t) :
    runFor .macroblock (coefValues m) s = t.takeRaise .macroblock (invalid tag) :=
  runFor_error (Parse.bind_error h)

/-! ## Signs -/

/-- The sign of the bit at `p` (R301). -/
theorem signedLevel_bit (s : State) (p level : Nat) :
    signedLevel level (s.bitAt p == 1) = if s.bitAt p = 1 then -(level : Int) else level := by
  simp only [signedLevel, beq_iff_eq]

/-- A flag read as a number is its bit. -/
theorem flag_bit (s : State) (p : Nat) : (if (s.bitAt p == 1) = true then (1 : Int) else 0) = s.bitAt p := by
  have := State.bitAt_lt_two (s := s) (p := p)
  simp only [beq_iff_eq]
  split <;> omega

/-- Twelve bits as a signed number (R300). -/
theorem signed_twelve (v : Nat) : signed 12 v = if v < 2048 then (v : Int) else v - 4096 := by
  rw [signed]
  norm_num
  exact if_congr (by omega) rfl rfl

/-- The trailing sign bit (R297, R301). -/
theorem ReadsAt.withSign (h : ReadsAt s p u) (hl : s.lenFits = true) (hin : p + 1 ≤ s.endPos) :
    withSign last run level u =
      .ok ⟨last, run, if s.bitAt p = 1 then -(level : Int) else level⟩ (u.atBit (p + 1)) := by
  rw [← signedLevel_bit, Machine.withSign, Parse.bind_ok (h.getFlag hl hin)]
  rfl

/-! ## The raw escape -/

theorem ReadsAt.getSigned {n : Nat} (h : ReadsAt s p u) (hl : s.lenFits = true) (hn : p + n ≤ s.endPos) :
    getSigned e n u = .ok (signed n (s.memRead p n)) (u.atBit (p + n)) := by
  rw [Machine.getSigned, Parse.bind_ok (h.getBits hl hn)]
  rfl

/-- `s` after a marker bit `b` that is let through (30_encoding.md R103). -/
def State.passMarker (s : State) (b : Nat) : State := if b = 1 then s else s.log .marker

theorem ReadsAt.passMarker (h : ReadsAt s p u) (b : Nat) : ReadsAt s p (u.passMarker b) := by
  unfold State.passMarker
  split
  · exact h
  · exact h.log .marker

theorem State.passMarker_ctrl (s : State) (b : Nat) : (s.passMarker b).ctrl = s.ctrl := by
  unfold State.passMarker
  split <;> rfl

theorem State.bitsAre_bit (hin : p + 1 ≤ s.endPos) {v : Nat} (h : s.bitAt p = v) : s.bitsAre p 1 v = true :=
  State.bitsAre_iff.2 ⟨hin, State.memRead_one.trans h⟩

theorem State.bitAt_eq_zero (h : s.bitAt p ≠ 1) : s.bitAt p = 0 := by
  have := State.bitAt_lt_two (s := s) (p := p)
  omega

/-- A marker bit that is 1, or that nothing requires to be. -/
theorem ReadsAt.marker_passed (h : ReadsAt s p u) (hl : s.lenFits = true) (hin : p + 1 ≤ s.endPos)
    (hs : u.ctrl.strict = true → s.bitAt p = 1) :
    Machine.marker e u = .ok () ((u.atBit (p + 1)).passMarker (s.bitAt p)) := by
  by_cases hb : s.bitAt p = 1
  · rw [State.passMarker, if_pos hb]
    exact h.marker hl (State.bitsAre_bit hin hb)
  · rw [State.passMarker, if_neg hb]
    exact h.marker_tolerated hl (State.bitsAre_bit hin (State.bitAt_eq_zero hb)) (Bool.eq_false_iff.2 fun hu => hb (hs hu))

/-- The level of a raw escape under IS_3IV1 has no markers (R300). -/
theorem ReadsAt.esc3Level_plain (h : ReadsAt s p u) (hl : s.lenFits = true) (hq : u.quirk .is3iv1 = true)
    (hin : p + 12 ≤ s.endPos) : esc3Level u = .ok (signed 12 (s.memRead p 12)) (u.atBit (p + 12)) := by
  rw [esc3Level, Parse.getState_bind, if_pos hq, h.getSigned hl hin]

/-- The level of a raw escape between its markers (R300). -/
theorem esc3Level_marked (hq : u.quirk .is3iv1 = false) : esc3Level u = (do
    marker (exhausted .blockEsc3)
    let l ← getSigned blockEnd 12
    marker (exhausted .blockEsc3)
    pure l : Parse Int) u := by
  rw [esc3Level, Parse.getState_bind, hq]
  rfl

/-- The level of a raw escape whose markers are let through (R300). -/
theorem ReadsAt.esc3Level_passed (h : ReadsAt s p u) (hl : s.lenFits = true) (hq : u.quirk .is3iv1 = false)
    (hin : p + 14 ≤ s.endPos) (h1 : u.ctrl.strict = true → s.bitAt p = 1)
    (h2 : u.ctrl.strict = true → s.bitAt (p + 13) = 1) :
    esc3Level u = .ok (signed 12 (s.memRead (p + 1) 12))
      (((((u.atBit (p + 1)).passMarker (s.bitAt p))).atBit (p + 13)).atBit (p + 14)
        |>.passMarker (s.bitAt (p + 13))) := by
  have hfirst := (h.atBit (p + 1)).passMarker (s.bitAt p)
  have hctrl := State.passMarker_ctrl (u.atBit (p + 1)) (s.bitAt p)
  rw [esc3Level_marked hq, Parse.bind_ok (h.marker_passed hl (by omega) h1), Parse.bind_ok (hfirst.getSigned hl (by omega)),
    Parse.bind_ok ((hfirst.atBit (p + 13)).marker_passed hl (by omega) fun hs => h2 ?_)]
  · rfl
  · rw [← hs]
    exact (congrArg Ctrl.strict hctrl).symm

/-- A marker of a raw escape that is 0 under CTRL.STRICT (R300). -/
theorem ReadsAt.esc3Level_refused (h : ReadsAt s p u) (hl : s.lenFits = true) (hq : u.quirk .is3iv1 = false)
    (hin : p + 14 ≤ s.endPos) (hs : u.ctrl.strict = true) (hb : s.bitAt p = 0 ∨ s.bitAt (p + 13) = 0) :
    ∃ v, esc3Level u = .error (invalid .blockEsc3) v := by
  rw [esc3Level_marked hq]
  by_cases h1 : s.bitAt p = 1
  · have h2 : s.bitAt (p + 13) = 0 := hb.resolve_left fun h0 => by omega
    have hset := h.marker (e := exhausted .blockEsc3) hl (State.bitsAre_bit (by omega) h1)
    have hend := ((h.atBit (p + 13)).marker_refused (e := exhausted .blockEsc3) hl (State.bitsAre_bit (by omega) h2) hs)
    rw [Parse.bind_ok hset, Parse.bind_ok ((h.atBit (p + 1)).getSigned hl (by omega))]
    exact ⟨_, Parse.bind_error hend⟩
  · have h0 := h.marker_refused (e := exhausted .blockEsc3) hl (State.bitsAre_bit (by omega) (State.bitAt_eq_zero h1)) hs
    exact ⟨_, Parse.bind_error h0⟩

/-- COEF_ESC3 is its last flag, its run and its level (R300). -/
theorem ReadsAt.coefEsc3P_eq (h : ReadsAt s p u) (hl : s.lenFits = true) (hin : p + 7 ≤ s.endPos) :
    coefEsc3P u = (esc3Level >>= fun l => pure ⟨s.bitAt p == 1, s.memRead (p + 1) 6, l⟩) (u.atBit (p + 7)) := by
  rw [coefEsc3P, Parse.bind_ok (h.getFlag hl (by omega)), Parse.bind_ok ((h.atBit (p + 1)).getBits hl (by omega))]
  rfl

/-- The values of a raw coefficient whose level is 12 bits (R300). -/
theorem values_raw (s : State) (p q : Nat) :
    Coef.values ⟨s.bitAt p == 1, s.memRead (p + 1) 6, signed 12 (s.memRead q 12)⟩ = [(s.bitAt p : Int),
      s.memRead (p + 1) 6, if s.memRead q 12 < 2048 then (s.memRead q 12 : Int) else s.memRead q 12 - 4096] := by
  rw [Coef.values, flag_bit, signed_twelve]

/-- Two markers let through leave the log as it was, or one bit set. -/
theorem State.passMarker_passMarker (s : State) (b b' q q' : Nat) :
    (((s.passMarker b).atBit q).atBit q').passMarker b' = { s.atBit q' with status := { s.status with
      log := if b = 1 ∧ b' = 1 then s.status.log else s.status.log ||| 1 } } := by
  have hmask : LogFlag.marker.mask = 1 := by decide
  unfold State.passMarker
  by_cases hb : b = 1 <;> by_cases hb' : b' = 1 <;>
    simp [hb, hb', State.atBit, State.log, State.updStatus, hmask, BitVec.or_assoc]

/-- Settles O40: each form of the bits is read at its position, and a 0 marker is passed or refused. -/
theorem directAndRawCoefficients : Obligations.DirectAndRawCoefficients := by
  unfold Obligations.DirectAndRawCoefficients
  intro s hl p asInt signed12
  have h := ReadsAt.refl s
  have h7 := h.atBit (s.pos + 7)
  refine ⟨fun last run level _ hin => ?_, fun hq hin => ?_, fun hq hin h1 h2 => ?_, fun hq hin hs hb => ?_⟩
  · exact congrArg Host.Outcome.next (runFor_coef (h.withSign hl hin))
  · have hlevel : coefEsc3P s = _ := (h.coefEsc3P_eq hl (by omega)).trans
      (Parse.bind_ok (h7.esc3Level_plain hl hq (by omega)))
    refine congrArg Host.Outcome.next ((runFor_coef hlevel).trans ?_)
    rw [values_raw]
    rfl
  · have hlevel : coefEsc3P s = _ := (h.coefEsc3P_eq hl (by omega)).trans
      (Parse.bind_ok (h7.esc3Level_passed hl hq (by omega) h1 h2))
    refine congrArg Host.Outcome.next ((runFor_coef hlevel).trans ?_)
    rw [values_raw, State.passMarker_passMarker]
    rfl
  · obtain ⟨v, hv⟩ := h7.esc3Level_refused hl hq (by omega) hs hb
    have hraise : coefEsc3P s = .error (invalid .blockEsc3) v :=
      (h.coefEsc3P_eq hl (by omega)).trans (Parse.bind_error hv)
    obtain ⟨hfsm, hresult, htag, _⟩ := v.takeRaise_invalidBlock .blockEsc3
    exact ⟨_, congrArg Host.Outcome.next (runFor_coef_invalid hraise), hfsm, hresult, htag⟩

end Sys2Proof.Machine
end

section
/-! The first and the second escape (44_residual.md R298, R299, R304): the greatest level and run of a table's rows, the
escapes from a cursor inside BS, and a cursor that its register cannot hold. -/

namespace Sys2Proof.Machine

variable {s t u : State} {e : Raise} {p : Nat} {tb : RlTable} {row : VlcRow} {last : Bool} {run level : Nat}
  {rows : List VlcRow} {pick : Sym → Option Nat}

/-! ## The greatest of a table -/

/-- The greater of `m` and what `pick` takes of the row's symbol. -/
def keepGreatest (pick : Sym → Option Nat) (m : Nat) (r : VlcRow) : Nat := ((pick r.sym).map (max m)).getD m

theorem le_keepGreatest (m : Nat) (r : VlcRow) : m ≤ keepGreatest pick m r := by
  unfold keepGreatest
  cases pick r.sym with
  | none => exact le_rfl
  | some v => exact le_max_left m v

theorem le_foldl_keepGreatest (rows : List VlcRow) (m : Nat) : m ≤ rows.foldl (keepGreatest pick) m := by
  induction rows generalizing m with
  | nil => exact le_rfl
  | cons r rows ih => exact (le_keepGreatest m r).trans (ih _)

/-- What a row gives is at most the greatest. -/
theorem le_greatest {m v : Nat} {r : VlcRow} (hr : r ∈ rows) (hv : pick r.sym = some v) :
    v ≤ rows.foldl (keepGreatest pick) m := by
  induction rows generalizing m with
  | nil => cases hr
  | cons q rows ih =>
    obtain rfl | hr := List.mem_cons.1 hr
    · refine le_trans ?_ (le_foldl_keepGreatest rows _)
      rw [keepGreatest, hv]
      exact le_max_right m v
    · exact ih hr

/-- The greatest is the start, or what some row gives. -/
theorem greatest_attained (rows : List VlcRow) (m : Nat) :
    rows.foldl (keepGreatest pick) m = m ∨ ∃ r ∈ rows, pick r.sym = some (rows.foldl (keepGreatest pick) m) := by
  induction rows generalizing m with
  | nil => exact .inl rfl
  | cons q rows ih =>
    rw [List.foldl_cons]
    obtain h | ⟨r, hr, h⟩ := ih (keepGreatest pick m q)
    · rw [h]
      unfold keepGreatest
      cases hq : pick q.sym with
      | none => exact .inl rfl
      | some v =>
        refine (max_choice m v).imp id fun hv => ⟨q, List.mem_cons_self, ?_⟩
        exact hq.trans (congrArg some hv.symm)
    · exact .inr ⟨r, List.mem_cons_of_mem q hr, h⟩

/-- Where a row gives anything, some row gives the greatest. -/
theorem greatest_mem {v : Nat} {r : VlcRow} (hr : r ∈ rows) (hv : pick r.sym = some v) :
    ∃ q ∈ rows, pick q.sym = some (rows.foldl (keepGreatest pick) 0) := by
  obtain h0 | h := greatest_attained (pick := pick) rows 0
  · have hle : v ≤ rows.foldl (keepGreatest pick) 0 := le_greatest hr hv
    exact ⟨r, hr, by rw [hv, h0]; congr 1; omega⟩
  · exact h

/-- The level of an entry with this last flag and run. -/
def entryLevel (last : Bool) (run : Nat) : Sym → Option Nat
  | .rl l rn lv => if l = last ∧ rn = run then some lv else none
  | .num _ => none
  | .escape => none
  | .btype _ => none

/-- The run of an entry with this last flag and level. -/
def entryRun (last : Bool) (level : Nat) : Sym → Option Nat
  | .rl l rn lv => if l = last ∧ lv = level then some rn else none
  | .num _ => none
  | .escape => none
  | .btype _ => none

theorem entryLevel_eq_some {y : Sym} {v : Nat} : entryLevel last run y = some v ↔ y = .rl last run v := by
  cases y with
  | rl l rn lv =>
    simp only [entryLevel, Option.ite_none_right_eq_some, Option.some.injEq, Sym.rl.injEq, and_assoc]
  | num _ => exact ⟨nofun, nofun⟩
  | escape => exact ⟨nofun, nofun⟩
  | btype _ => exact ⟨nofun, nofun⟩

theorem entryRun_eq_some {y : Sym} {v : Nat} : entryRun last level y = some v ↔ y = .rl last v level := by
  cases y with
  | rl l rn lv =>
    simp only [entryRun, Option.ite_none_right_eq_some, Option.some.injEq, Sym.rl.injEq, and_assoc]
    exact and_congr_right fun _ => and_comm
  | num _ => exact ⟨nofun, nofun⟩
  | escape => exact ⟨nofun, nofun⟩
  | btype _ => exact ⟨nofun, nofun⟩

theorem maxLevel_eq (rows : List VlcRow) (last : Bool) (run : Nat) :
    maxLevel rows last run = rows.foldl (keepGreatest (entryLevel last run)) 0 := by
  unfold maxLevel
  congr 1
  funext m r
  obtain ⟨_, _, sym⟩ := r
  cases sym with
  | rl l rn lv =>
    simp only [entryOf, keepGreatest, entryLevel]
    split_ifs <;> rfl
  | num _ => rfl
  | escape => rfl
  | btype _ => rfl

theorem maxRun_eq (rows : List VlcRow) (last : Bool) (level : Nat) :
    maxRun rows last level = rows.foldl (keepGreatest (entryRun last level)) 0 := by
  unfold maxRun
  congr 1
  funext m r
  obtain ⟨_, _, sym⟩ := r
  cases sym with
  | rl l rn lv =>
    simp only [entryOf, keepGreatest, entryRun]
    split_ifs <;> rfl
  | num _ => rfl
  | escape => rfl
  | btype _ => rfl

/-- MaxLevel is the greatest level of the table's entries with the last flag and the run of an entry (R304). -/
theorem maxLevel_greatest (hr : row ∈ rows) (hs : row.sym = .rl last run level) :
    (∃ r ∈ rows, r.sym = .rl last run (maxLevel rows last run))
      ∧ ∀ r ∈ rows, ∀ v, r.sym = .rl last run v → v ≤ maxLevel rows last run := by
  rw [maxLevel_eq]
  obtain ⟨q, hq, hv⟩ := greatest_mem hr (entryLevel_eq_some.2 hs)
  exact ⟨⟨q, hq, entryLevel_eq_some.1 hv⟩, fun r hr v hv => le_greatest hr (entryLevel_eq_some.2 hv)⟩

/-- MaxRun is the greatest run of the table's entries with the last flag and the level of an entry (R304). -/
theorem maxRun_greatest (hr : row ∈ rows) (hs : row.sym = .rl last run level) :
    (∃ r ∈ rows, r.sym = .rl last (maxRun rows last level) level)
      ∧ ∀ r ∈ rows, ∀ v, r.sym = .rl last v level → v ≤ maxRun rows last level := by
  rw [maxRun_eq]
  obtain ⟨q, hq, hv⟩ := greatest_mem hr (entryRun_eq_some.2 hs)
  exact ⟨⟨q, hq, entryRun_eq_some.1 hv⟩, fun r hr v hv => le_greatest hr (entryRun_eq_some.2 hv)⟩

/-! ## The escapes from a cursor inside BS -/

theorem State.readsRow_mem {tb : VlcTable} (h : s.readsRow tb p row = true) : row ∈ s.cfg.table tb :=
  List.mem_of_find?_eq_some (eq_of_beq h)

/-- An entry and its sign bit: the level is raised by the table's greatest (R298; the first clause of O41). -/
theorem execCoefEsc1_entry (hl : s.lenFits = true) (hr : s.readsRow (vlcOf tb) s.pos row = true)
    (hs : row.sym = .rl last run level) (hin : s.pos + row.len + 1 ≤ s.endPos) :
    exec (.coefEsc1 tb) s = .next { s.atBit (s.pos + row.len + 1) with eng := { s.eng with
      ret := Coef.values ⟨last, run, if s.bitAt (s.pos + row.len) = 1
        then -((level + maxLevel (s.cfg.table (vlcOf tb)) last run : Nat) : Int)
        else (level + maxLevel (s.cfg.table (vlcOf tb)) last run : Nat)⟩ } } := by
  have h := ReadsAt.refl s
  refine congrArg Host.Outcome.next (runFor_coef (t := s.atBit (s.pos + row.len + 1)) ?_)
  rw [coefEsc1P, Parse.getState_bind, Parse.bind_ok (h.vlc hl (by omega) hr), hs]
  exact (h.atBit _).withSign hl hin

/-- An entry and its sign bit: the run is raised by the table's greatest, and 1 (R299; the first clause of O41). -/
theorem execCoefEsc2_entry (hl : s.lenFits = true) (hr : s.readsRow (vlcOf tb) s.pos row = true)
    (hs : row.sym = .rl last run level) (hin : s.pos + row.len + 1 ≤ s.endPos) :
    exec (.coefEsc2 tb) s = .next { s.atBit (s.pos + row.len + 1) with eng := { s.eng with
      ret := Coef.values ⟨last, run + maxRun (s.cfg.table (vlcOf tb)) last level + 1,
        if s.bitAt (s.pos + row.len) = 1 then -(level : Int) else level⟩ } } := by
  have h := ReadsAt.refl s
  refine congrArg Host.Outcome.next (runFor_coef (t := s.atBit (s.pos + row.len + 1)) ?_)
  rw [coefEsc2P, Parse.getState_bind, Parse.bind_ok (h.vlc hl (by omega) hr), hs]
  exact (h.atBit _).withSign hl hin

/-- No code word stands at the cursor, and none is cut off there: INVALID, which consumes nothing. -/
theorem vlc_invalid {tb : VlcTable} (h : s.readsInvalid tb = true) : vlc e tb s = .ok none s := by
  have hrow : ∀ row ∈ s.cfg.table tb, s.matchesRow row = false ∧ s.runsOutIn row = false := by
    intro row hmem
    simpa only [Bool.and_eq_true, Bool.not_eq_true'] using List.all_eq_true.1 h row hmem
  refine vlc_none (List.find?_eq_none.2 fun row hmem => ?_) (List.any_eq_false.2 fun row hmem => ?_)
  · exact Bool.eq_false_iff.1 (hrow row hmem).1
  · exact Bool.eq_false_iff.1 (hrow row hmem).2

/-- A symbol that is no entry: both escapes end INVALID_DATA (R298, R299; the last two clauses of O41). -/
theorem execCoefEsc_invalid {y : Option Sym} (h : vlc blockEnd (vlcOf tb) s = .ok y t) (hy : entryOf y = none) :
    exec (.coefEsc1 tb) s = .next (t.takeRaise .macroblock (invalid .blockRl))
      ∧ exec (.coefEsc2 tb) s = .next (t.takeRaise .macroblock (invalid .blockRl)) := by
  have h1 : coefEsc1P tb s = .error (invalid .blockRl) t := by
    rw [coefEsc1P, Parse.getState_bind, Parse.bind_ok h, hy]
    rfl
  have h2 : coefEsc2P tb s = .error (invalid .blockRl) t := by
    rw [coefEsc2P, Parse.getState_bind, Parse.bind_ok h, hy]
    rfl
  exact ⟨congrArg Host.Outcome.next (runFor_coef_invalid h1), congrArg Host.Outcome.next (runFor_coef_invalid h2)⟩

/-- The escape symbol at a cursor inside BS is INVALID_DATA (the second clause of O41). -/
theorem execCoefEsc_escape (hl : s.lenFits = true) (hp : s.pos ≤ s.endPos)
    (hr : s.readsRow (vlcOf tb) s.pos row = true) (hs : row.sym = .escape) :
    exec (.coefEsc1 tb) s = .next ((s.atBit (s.pos + row.len)).takeRaise .macroblock (invalid .blockRl))
      ∧ exec (.coefEsc2 tb) s = .next ((s.atBit (s.pos + row.len)).takeRaise .macroblock (invalid .blockRl)) :=
  execCoefEsc_invalid ((ReadsAt.refl s).vlc hl hp hr) (by rw [hs]; rfl)

/-- No code word at the cursor is INVALID_DATA (the third clause of O41). -/
theorem execCoefEsc_noCode (h : s.readsInvalid (vlcOf tb) = true) :
    exec (.coefEsc1 tb) s = .next (s.takeRaise .macroblock (invalid .blockRl))
      ∧ exec (.coefEsc2 tb) s = .next (s.takeRaise .macroblock (invalid .blockRl)) :=
  execCoefEsc_invalid (vlc_invalid h) rfl

/-! ## A cursor that cannot hold its position -/

/-- Codes of no bits, for the escape and for a DC size of 0, under CFG.CURSOR_BITS = 0: what the premises of O41 and O43
do not exclude. -/
def noCursorBlockCfg : Cfg :=
  { noCursorCfg with vlc := { noCursorCfg.vlc with rlIntra := [⟨0, 0, .escape⟩], dcLum := [⟨0, 0, .num 0⟩] } }

/-- BITPOS beyond the empty BS, at a bit that its register cannot hold, in a block with its DC first. -/
def pastNoCursorBlock : State :=
  { pastNoCursor with cfg := noCursorBlockCfg, eng := { pastNoCursor.eng with useIntraDcVlc := true } }

/-- Looked for through the cursor, the escape stands at bit 1: the write of 1 leaves the cursor at bit 0. -/
theorem pastNoCursorBlock_readsEscape :
    pastNoCursorBlock.readsRow (vlcOf .intra) pastNoCursorBlock.pos ⟨0, 0, .escape⟩ = true := by
  rw [State.readsRow, State.setPos_of_noCursor rfl]
  decide

/-- COEF_ESC1, which reads at bit 1 itself, finds BS exhausted. -/
theorem pastNoCursorBlock_esc1_exhausted :
    ∃ t, exec (.coefEsc1 .intra) pastNoCursorBlock = .next t ∧ t.fsm = .error :=
  ⟨_, rfl, rfl⟩

/-- Refutes O41: its second clause does not say that the cursor stands inside BS. Under CFG.CURSOR_BITS = 0 the cursor
stands at bit 1 of an empty BS, and the escape symbol is found only by a write of the cursor that does not fit. Where the
cursor stands inside BS every clause holds: `execCoefEsc1_entry` and `execCoefEsc2_entry` with `maxLevel_greatest` and
`maxRun_greatest`, `execCoefEsc_escape`, `execCoefEsc_noCode`. -/
theorem not_escapesWidenLevelAndRun : ¬ Obligations.EscapesWidenLevelAndRun := by
  unfold Obligations.EscapesWidenLevelAndRun
  intro h
  obtain ⟨_, hescape, _⟩ := h pastNoCursorBlock .intra (by decide)
  obtain ⟨⟨u, hsays, hfsm, _⟩, _⟩ := hescape ⟨0, 0, .escape⟩ pastNoCursorBlock_readsEscape rfl
  obtain ⟨t, hexec, herr⟩ := pastNoCursorBlock_esc1_exhausted
  obtain rfl : t = u := Host.Outcome.next.inj (hexec.symm.trans hsays)
  rw [herr] at hfsm
  cases hfsm

end Sys2Proof.Machine
end

section
/-! BLOCK_INTER run by itself (44_residual.md R291, R296, R302, R303, R305): the turns of the coefficient loop, the escape
of the reversible tables, and the block they leave. -/

namespace Sys2Proof.Machine

variable {s t u : State} {e : Raise} {p run level : Nat} {tb : RlTable} {row : VlcRow} {l i : Int} {n : Fin 6}
  {scan : List Nat} {mode : DeqMode} {fuel : Nat} {last : Bool} {r : Raise}

/-! ## The turns of the loop -/

/-- The value of a coefficient that is not raw (R305). -/
theorem valueOf_notRaw (c : Coef) (u : State) :
    valueOf mode ⟨c, false⟩ u = .ok (deq mode u.pic.qscale.toNat c.level) u := rfl

theorem coefLoop_raise (h : nextCoef tb u = .error r t) : coefLoop n tb scan mode (fuel + 1) i u = .error r t := by
  rw [coefLoop, Parse.bind_error h]

/-- A last coefficient inside the block is stored, and ends the loop at its position (R302). -/
theorem coefLoop_stop (h : nextCoef tb u = .ok ⟨⟨true, run, l⟩, false⟩ t) (h0 : 0 ≤ i + run + 1)
    (h63 : i + run + 1 ≤ 63) :
    coefLoop n tb scan mode (fuel + 1) i u =
      .ok (i + run + 1) (t.setCoef n (permAt scan (i + run + 1).toNat) (deq mode t.pic.qscale.toNat l)) := by
  have hj : i + run + 1 + (if (true : Bool) = true then 192 else 0) = i + run + 1 + 192 := rfl
  rw [coefLoop, Parse.bind_ok h]
  dsimp only
  rw [Parse.bind_ok (valueOf_notRaw _ _), hj, if_pos (by omega), if_neg (by omega), add_sub_cancel_right,
    Parse.update_bind]
  rfl

/-- A last coefficient beyond position 63 is refused (R302). -/
theorem coefLoop_beyond (h : nextCoef tb u = .ok ⟨⟨true, run, l⟩, false⟩ t) (h63 : 63 < i + run + 1) :
    coefLoop n tb scan mode (fuel + 1) i u = .error (invalid .blockPosition) t := by
  have hj : i + run + 1 + (if (true : Bool) = true then 192 else 0) = i + run + 1 + 192 := rfl
  rw [coefLoop, Parse.bind_ok h]
  dsimp only
  rw [Parse.bind_ok (valueOf_notRaw _ _), hj, if_pos (by omega), if_pos (by omega)]
  rfl

/-- A coefficient that is not the last is stored, and the loop goes on from its position (R302). -/
theorem coefLoop_goOn (h : nextCoef tb u = .ok ⟨⟨false, run, l⟩, false⟩ t) (h62 : i + run + 1 ≤ 62) :
    coefLoop n tb scan mode (fuel + 1) i u = coefLoop n tb scan mode fuel (i + run + 1)
      (t.setCoef n (permAt scan (i + run + 1).toNat) (deq mode t.pic.qscale.toNat l)) := by
  have hj : i + run + 1 + (if (false : Bool) = true then 192 else 0) = i + run + 1 := add_zero _
  rw [coefLoop, Parse.bind_ok h]
  dsimp only
  rw [Parse.bind_ok (valueOf_notRaw _ _), hj, if_neg (by omega), Parse.update_bind]

/-- No code word at the cursor (R296). -/
theorem nextCoef_invalid (h : s.readsInvalid (vlcOf tb) = true) : nextCoef tb s = .error (invalid .blockRl) s := by
  rw [nextCoef, Parse.bind_ok (vlc_invalid h)]
  rfl

theorem ReadsAt.setCoef (h : ReadsAt s p u) (n : Fin 6) (k : Nat) (v : Int) : ReadsAt s p (u.setCoef n k v) :=
  ⟨h.bs, h.len, h.cfg, h.pos⟩

/-! ## The escape of the reversible tables -/

theorem ReadsAt.rvlcMarker_set (h : ReadsAt s p u) (hl : s.lenFits = true) (hin : p + 1 ≤ s.endPos)
    (hb : s.bitAt p = 1) : rvlcMarker u = .ok () (u.atBit (p + 1)) := by
  rw [rvlcMarker, Parse.bind_ok (h.getFlag hl hin), hb]
  rfl

theorem ReadsAt.rvlcMarker_clear (h : ReadsAt s p u) (hl : s.lenFits = true) (hin : p + 1 ≤ s.endPos)
    (hb : s.bitAt p ≠ 1) : rvlcMarker u = .error (invalid .blockRvlcEsc) (u.atBit (p + 1)) := by
  rw [rvlcMarker, Parse.bind_ok (h.getFlag hl hin), State.bitAt_eq_zero hb]
  rfl

/-- The escape of the reversible tables stands at bit `p` in its form (R303). -/
def State.rvlcFormed (s : State) (p : Nat) : Prop := s.bitAt p = 1 ∧ s.bitAt (p + 8) = 1 ∧ s.memRead (p + 20) 5 = 16

/-- What a reversible escape is after its first marker, flag and run (R303). -/
def rvlcRest (last : Bool) (run : Nat) : Parse Coef := do
  rvlcMarker
  let level ← getBits blockEnd 11
  let tail ← getBits blockEnd 5
  if tail ≠ 16 then raise (invalid .blockRvlcEsc) else withSign last run level

theorem ReadsAt.coefRvlcP_eq (h : ReadsAt s p u) (hl : s.lenFits = true) (hin : p + 26 ≤ s.endPos)
    (hb : s.bitAt p = 1) : coefRvlcP u = rvlcRest (s.bitAt (p + 1) == 1) (s.memRead (p + 2) 6) (u.atBit (p + 8)) := by
  have hflag : Machine.getFlag blockEnd (u.atBit (p + 1)) = .ok (s.bitAt (p + 1) == 1) (u.atBit (p + 2)) :=
    (h.atBit (p + 1)).getFlag hl (by omega)
  have hrun : Machine.getBits blockEnd 6 (u.atBit (p + 2)) = .ok (s.memRead (p + 2) 6) (u.atBit (p + 8)) :=
    (h.atBit (p + 2)).getBits hl (by omega)
  rw [coefRvlcP, Parse.bind_ok (h.rvlcMarker_set hl (by omega) hb), Parse.bind_ok hflag, Parse.bind_ok hrun]
  rfl

theorem ReadsAt.rvlcRest_eq (h : ReadsAt s p u) (hl : s.lenFits = true) (hin : p + 18 ≤ s.endPos)
    (hb : s.bitAt p = 1) : rvlcRest last run u = (if s.memRead (p + 12) 5 ≠ 16 then raise (invalid .blockRvlcEsc)
      else Machine.withSign last run (s.memRead (p + 1) 11) : Parse Coef) (u.atBit (p + 17)) := by
  have hlevel : Machine.getBits blockEnd 11 (u.atBit (p + 1)) = .ok (s.memRead (p + 1) 11) (u.atBit (p + 12)) :=
    (h.atBit (p + 1)).getBits hl (by omega)
  have htail : Machine.getBits blockEnd 5 (u.atBit (p + 12)) = .ok (s.memRead (p + 12) 5) (u.atBit (p + 17)) :=
    (h.atBit (p + 12)).getBits hl (by omega)
  rw [rvlcRest, Parse.bind_ok (h.rvlcMarker_set hl (by omega) hb), Parse.bind_ok hlevel, Parse.bind_ok htail]

/-- A reversible escape in its form: a raw run and level, and a sign bit (R303). -/
theorem ReadsAt.coefRvlcP_formed (h : ReadsAt s p u) (hl : s.lenFits = true) (hin : p + 26 ≤ s.endPos)
    (hf : s.rvlcFormed p) :
    coefRvlcP u = .ok ⟨s.bitAt (p + 1) == 1, s.memRead (p + 2) 6, if s.bitAt (p + 25) = 1
      then -(s.memRead (p + 9) 11 : Int) else s.memRead (p + 9) 11⟩ (u.atBit (p + 26)) := by
  obtain ⟨hfirst, hsecond, htail⟩ := hf
  rw [h.coefRvlcP_eq hl hin hfirst, (h.atBit (p + 8)).rvlcRest_eq hl (by omega) hsecond]
  exact (congrFun (if_neg (not_not_intro htail)) _).trans ((h.atBit (p + 25)).withSign hl hin)

/-- A reversible escape with a marker 0 or a wrong tail is refused, and only the cursor has moved (R303). -/
theorem ReadsAt.coefRvlcP_malformed (h : ReadsAt s p u) (hl : s.lenFits = true) (hin : p + 26 ≤ s.endPos)
    (hf : ¬s.rvlcFormed p) : ∃ q, coefRvlcP u = .error (invalid .blockRvlcEsc) (u.atBit q) := by
  by_cases hfirst : s.bitAt p = 1
  · rw [h.coefRvlcP_eq hl hin hfirst]
    by_cases hsecond : s.bitAt (p + 8) = 1
    · have htail : s.memRead (p + 20) 5 ≠ 16 := fun htail => hf ⟨hfirst, hsecond, htail⟩
      rw [(h.atBit (p + 8)).rvlcRest_eq hl (by omega) hsecond]
      exact ⟨_, congrFun (if_pos htail) _⟩
    · exact ⟨_, Parse.bind_error ((h.atBit (p + 8)).rvlcMarker_clear hl (by omega) hsecond)⟩
  · exact ⟨_, Parse.bind_error (h.rvlcMarker_clear hl (by omega) hfirst)⟩

/-- The escape symbol of a reversible table leads to its escape (R296, R303). -/
theorem ReadsAt.nextCoef_rvlcEscape (h : ReadsAt s p u) (hl : s.lenFits = true) (hp : p ≤ s.endPos)
    (hr : s.readsRow .rlRvlcInter p row = true) (hs : row.sym = .escape) :
    nextCoef .rvlcInter u = tableCoef coefRvlcP (u.atBit (p + row.len)) := by
  rw [nextCoef, Parse.bind_ok (h.vlc (tb := vlcOf .rvlcInter) hl hp hr), hs]
  rfl

/-! ## The block -/

/-- The run-level table of an inter block (R291, R303). -/
def State.interTable (s : State) : RlTable := if s.useRvlc then .rvlcInter else .inter

theorem State.vlcOf_interTable (s : State) :
    vlcOf s.interTable = if s.seq.rvlc && s.pic.partitionedFrame then .rlRvlcInter else .rlInter := by
  unfold State.interTable State.useRvlc
  split <;> rfl

theorem blockInterP_eq (s : State) (n : Fin 6) : blockInterP n s =
    (coefLoop n s.interTable s.interScan s.interMode 65 (-1) >>= fun i =>
      update (fun u => u.setLastIndex n i)) s := rfl

/-- A block whose loop raises ends INVALID_DATA with the tag of the raise. -/
theorem execBlockInter_raise {tag : Tag}
    (h : coefLoop n s.interTable s.interScan s.interMode 65 (-1) s = .error (invalid tag) t) :
    exec (.blockInter n) s = .next (t.takeRaise .macroblock (invalid tag)) :=
  congrArg Host.Outcome.next (runAt_error ((blockInterP_eq s n).trans (Parse.bind_error h)))

/-- `s` with the one coefficient of block `n` stored at scan position `run`, and the cursor at bit `q`. -/
def State.oneCoef (s : State) (n : Fin 6) (q run : Nat) (l : Int) : State :=
  ((s.atBit q).setCoef n (permAt s.interScan run) (deq s.interMode s.pic.qscale.toNat l)).setLastIndex n run

/-- A block whose first coefficient is its last (R291, R302). -/
theorem execBlockInter_one (h : nextCoef s.interTable s = .ok ⟨⟨true, run, l⟩, false⟩ (s.atBit p)) (hrun : run ≤ 63) :
    exec (.blockInter n) s = .next (s.oneCoef n p run l) := by
  have hpos : (-1 : Int) + run + 1 = run := by omega
  have hloop : coefLoop n s.interTable s.interScan s.interMode 65 (-1) s = _ :=
    coefLoop_stop (n := n) (scan := s.interScan) (mode := s.interMode) (fuel := 64) h (by omega) (by omega)
  rw [hpos, Int.toNat_natCast] at hloop
  exact congrArg Host.Outcome.next (runAt_ok ((blockInterP_eq s n).trans (Parse.bind_ok hloop)))

/-- Dequantisation in an inter block (R305). -/
theorem State.deq_interMode_eq (s : State) (k : Nat) (l : Int) :
    deq s.interMode k l = if s.seq.mpegQuant then l
      else if 0 < l then l * (2 * k) + (if (k : Int) % 2 = 1 then (k : Int) else k - 1)
      else l * (2 * k) - (if (k : Int) % 2 = 1 then (k : Int) else k - 1) := by
  have hodd : k % 2 = 1 ↔ (k : Int) % 2 = 1 := by omega
  rw [State.interMode]
  cases s.seq.mpegQuant with
  | true => rfl
  | false =>
    show deq .scaled k l = _
    rw [deq, if_neg Bool.false_ne_true]
    simp only [hodd]

/-- The fields of a block of one coefficient. -/
theorem State.oneCoef_eq (s : State) (n : Fin 6) (q : Nat) (hrun : run ≤ 63) (l : Int) :
    s.oneCoef n q run l = { s.atBit q with mb := { s.mb with
      block := s.mb.block.set n (Cells.write 0 (s.interScan.getD run 0) (toS 16 (deq s.interMode s.pic.qscale.toNat l))
        (s.mb.block.get n))
      lastIndex := s.mb.lastIndex.set n (BitVec.ofNat 7 run) } } := by
  rw [← toS7_position hrun]
  rfl

/-- Two entries whose runs lead beyond position 63 (R302). -/
theorem coefLoop_twoBeyond {row' : VlcRow} {run' level' : Nat} (hl : s.lenFits = true)
    (hr : s.readsRow (vlcOf tb) s.pos row = true) (hs : row.sym = .rl false run level) (hrun : run ≤ 62)
    (hr' : s.readsRow (vlcOf tb) (s.pos + row.len + 1) row' = true) (hs' : row'.sym = .rl true run' level')
    (hover : 63 < run + run' + 1) (hin : s.pos + row.len + 1 + row'.len + 1 ≤ s.endPos) :
    ∃ v, coefLoop n tb scan mode (fuel + 2) (-1) s = .error (invalid .blockPosition) v := by
  have hfirst := (ReadsAt.refl s).nextCoef_entry hl (by omega) hr hs (by omega)
  have hread := ((ReadsAt.refl s).atBit (s.pos + row.len + 1)).setCoef n (permAt scan (-1 + (run : Int) + 1).toNat)
    (deq mode s.pic.qscale.toNat (signedLevel level (s.bitAt (s.pos + row.len) == 1)))
  have hsecond := hread.nextCoef_entry hl (by omega) hr' hs' hin
  rw [coefLoop_goOn hfirst (by omega)]
  exact ⟨_, coefLoop_beyond hsecond (by omega)⟩

/-- Settles O42: the loop's turn in each case, by an entry of the table or by the reversible escape. -/
theorem blockInterStoresDequantised : Obligations.BlockInterStoresDequantised := by
  unfold Obligations.BlockInterStoresDequantised
  intro n s hl rvlc tb q scan odd deq signed single
  have htb : vlcOf s.interTable = tb := s.vlcOf_interTable
  have hsingle (stop run : Nat) (l : Int) (hrun : run ≤ 63) : s.oneCoef n stop run l = single stop run l := by
    rw [State.oneCoef_eq s n stop hrun, State.deq_interMode_eq]
    rfl
  have h := ReadsAt.refl s
  rw [← htb]
  refine ⟨fun row run level hr hs hrun _ hin => ?_, fun row row' run run' level level' hr hs hrun hr' hs' hover hin => ?_,
    fun hinv => ?_, ?_⟩
  · have hcoef := h.nextCoef_entry hl (by omega) hr hs hin
    rw [signedLevel_bit] at hcoef
    rw [execBlockInter_one hcoef hrun, hsingle _ _ _ hrun]
  · obtain ⟨v, hv⟩ := coefLoop_twoBeyond (n := n) (scan := s.interScan) (mode := s.interMode) (fuel := 63) hl hr hs hrun
      hr' hs' hover hin
    obtain ⟨hfsm, hresult, htag, _⟩ := v.takeRaise_invalidBlock .blockPosition
    exact ⟨_, execBlockInter_raise hv, hfsm, hresult, htag⟩
  · obtain ⟨hfsm, hresult, htag, hmb, _, hpos⟩ := s.takeRaise_invalidBlock .blockRl
    exact ⟨_, execBlockInter_raise (coefLoop_raise (nextCoef_invalid hinv)), hfsm, hresult, htag, hmb, hpos⟩
  · intro row hrvlc hr hs p formed hin
    have htable : s.interTable = .rvlcInter := if_pos hrvlc
    have hnext := h.nextCoef_rvlcEscape hl (by omega) hr hs
    have hp := h.atBit p
    rw [← htable] at hnext
    refine ⟨fun hf hlast => ?_, fun hf => ?_⟩
    · have hcoef := hp.coefRvlcP_formed hl hin hf
      rw [hlast] at hcoef
      have hrun : s.memRead (p + 2) 6 ≤ 63 := Nat.le_of_lt_succ State.memRead_lt
      rw [execBlockInter_one (hnext.trans (Parse.bind_ok hcoef)) hrun, hsingle _ _ _ hrun]
    · obtain ⟨stop, hstop⟩ := hp.coefRvlcP_malformed hl hin hf
      obtain ⟨hfsm, hresult, htag, hmb, _⟩ := ((s.atBit p).atBit stop).takeRaise_invalidBlock .blockRvlcEsc
      exact ⟨_, execBlockInter_raise (coefLoop_raise (hnext.trans (Parse.bind_error hstop))), hfsm, hresult, htag, hmb⟩

end Sys2Proof.Machine
end

section
/-! PRED_DC run by itself (44_residual.md R310 to R315): the direction, the scaler, the word stored and the range check,
and the sentinel at the start of a slice. -/

namespace Sys2Proof.Machine

variable {s t u : State} {n : Fin 6} {diff : Int} {q : Nat}

/-! ## Direction, scaler and word -/

theorem Six.get_set_same {α : Type} (x : Six α) (n : Fin 6) (a : α) : (x.set n a).get n = a := by
  fin_cases n <;> rfl

theorem dcTop_eq (tie : Bool) (d : DcNeighbours) : dcTop tie d = decide ((d.a - d.b).natAbs < (d.b - d.c).natAbs
    ∨ (tie = true ∧ (d.a - d.b).natAbs = (d.b - d.c).natAbs)) := by
  rw [dcTop, Bool.decide_or, Bool.decide_and, Bool.decide_eq_true, beq_eq_decide]

/-- Equal neighbours are a tie (R312). -/
theorem dcTop_const (tie : Bool) (w : Int) : dcTop tie ⟨w, w, w⟩ = tie := by
  cases tie <;> simp [dcTop]

theorem dcScale_pos (q : Nat) (chroma : Bool) : 0 < dcScale q chroma := by
  unfold dcScale
  split_ifs <;> omega

/-- A scaler is at least 1 (R313; log 4, log 10). -/
theorem State.scaleOf_pos (s : State) (n : Fin 6) : 0 < s.scaleOf n := by
  rw [State.scaleOf]
  split
  · decide
  · rw [State.dcScaleAt]
    split
    · exact dcScale_pos _ _
    · exact Nat.succ_pos _

/-- The default scaler of a quantiser of 1 to 31 (R313). -/
theorem State.scaleOf_standard (h : s.cfg.dcScale = .standard) (h1 : 1 ≤ s.pic.qscale.toNat)
    (h31 : s.pic.qscale.toNat ≤ 31) (n : Fin 6) :
    s.scaleOf n = if s.quirk .is3iv1 = true ∨ s.pic.qscale.toNat ≤ 4 then 8
      else if n.val < 4 then (if s.pic.qscale.toNat ≤ 8 then 2 * s.pic.qscale.toNat
        else if s.pic.qscale.toNat ≤ 24 then s.pic.qscale.toNat + 8 else 2 * s.pic.qscale.toNat - 16)
      else (if s.pic.qscale.toNat ≤ 24 then (s.pic.qscale.toNat + 13) / 2 else s.pic.qscale.toNat - 6) := by
  have hinside : ¬(s.pic.qscale.toNat = 0 ∨ 31 < s.pic.qscale.toNat) := by omega
  have hchroma : decide (4 ≤ n.val) = true ↔ ¬n.val < 4 := by rw [decide_eq_true_eq, not_lt]
  rw [State.scaleOf, State.dcScaleAt, h]
  dsimp only
  rw [dcScale, if_neg hinside]
  simp only [hchroma, ite_not]
  cases s.quirk .is3iv1 with
  | true => rfl
  | false => simp only [Bool.false_eq_true, false_or, if_false]

/-- A DC level is a quotient by a scaler that is not 0 (R310). -/
theorem levelOf_eq (w : Int) {scale : Nat} (h : 0 < scale) :
    levelOf w scale = Int.tdiv (w + (scale / 2 : Nat)) scale := by
  rw [levelOf, divT, if_neg (by omega)]

theorem State.dcPredictor_eq (s : State) (n : Fin 6) : s.dcPredictor n =
    Int.tdiv ((if dcTop s.cfg.dcTieTop (s.dcNeighbours n) then (s.dcNeighbours n).c else (s.dcNeighbours n).a)
      + (s.scaleOf n / 2 : Nat)) (s.scaleOf n) := levelOf_eq _ (s.scaleOf_pos n)

/-- The clipped word (R314). -/
theorem State.dcWord_eq (s : State) (w : Int) :
    s.dcWord w = if s.quirk .dcClip then max 0 w else min 2047 (max 0 w) := by
  rw [State.dcWord]
  cases s.quirk .dcClip <;> simp <;> split_ifs <;> omega

/-! ## The operation -/

/-- The level is inside the range that CTRL.STRICT asks for, or nothing asks (R315). -/
def State.dcInRange (s : State) (level : Int) (scale : Nat) : Prop :=
  s.ctrl.strict = false ∨ (0 ≤ level ∧ level ≤ 2048 + (scale : Int))

theorem dcRange_inside {level : Int} {scale : Nat} (h : s.dcInRange level scale) : dcRange level scale s = .ok () s := by
  have hnot : ¬(s.ctrl.strict = true ∧ (level < 0 ∨ 2048 + (scale : Int) < level)) := by
    rintro ⟨hs, hout⟩
    obtain hf | ⟨h0, h1⟩ := h
    · exact Bool.false_ne_true (hf.symm.trans hs)
    · omega
  rw [dcRange, Parse.getState_bind, if_neg hnot]
  rfl

theorem dcRange_outside {level : Int} {scale : Nat} (h : ¬s.dcInRange level scale) :
    dcRange level scale s = .error (invalid .blockDcRange) s := by
  have hout : s.ctrl.strict = true ∧ (level < 0 ∨ 2048 + (scale : Int) < level) := by
    unfold State.dcInRange at h
    rw [not_or, not_and_or, Bool.not_eq_false] at h
    exact ⟨h.1, by omega⟩
  rw [dcRange, Parse.getState_bind, if_pos hout]
  rfl

/-- PRED_DC of a level inside the range: the direction, then the word (R310, R314). -/
theorem predDcP_inside (h : s.dcInRange (diff + s.dcPredictor n) (s.scaleOf n)) :
    predDcP n diff s = .ok (diff + s.dcPredictor n) ((s.setDir n (dcTop s.cfg.dcTieTop (s.dcNeighbours n))).writeDc n
      (toS 16 (s.dcWord ((diff + s.dcPredictor n) * s.scaleOf n)))) := by
  have hrange : dcRange (diff + s.dcPredictor n) (s.scaleOf n) (s.predDcDir n) = _ := dcRange_inside h
  rw [predDcP, Parse.getState_bind, Parse.update_bind, Parse.bind_ok hrange]
  rfl

theorem predDcP_outside (h : ¬s.dcInRange (diff + s.dcPredictor n) (s.scaleOf n)) :
    predDcP n diff s = .error (invalid .blockDcRange) (s.predDcDir n) := by
  have hrange : dcRange (diff + s.dcPredictor n) (s.scaleOf n) (s.predDcDir n) = _ := dcRange_outside h
  rw [predDcP, Parse.getState_bind, Parse.update_bind, Parse.bind_error hrange]

/-- PRED_DC run by itself hands its level over (log 6). -/
theorem execPredDc_inside (hfit : s.fitsStores = true) (h : s.dcInRange (diff + s.dcPredictor n) (s.scaleOf n)) :
    exec (.predDc n diff) s = .next { s with
      mb := { s.mb with predDir := s.mb.predDir.set n (dcTop s.cfg.dcTieTop (s.dcNeighbours n)) }
      stores := s.stores.setDcPlane n (Cells.write dcUnlisted (s.blockPos n)
        (toS 16 (s.dcWord ((diff + s.dcPredictor n) * s.scaleOf n))) (s.stores.dcPlane n))
      eng := { s.eng with ret := [diff + s.dcPredictor n] } } :=
  (inStores_fits hfit).trans (congrArg Host.Outcome.next (runFor_ok (t := (s.setDir n _).writeDc n _)
    (Parse.bind_ok (predDcP_inside h))))

theorem execPredDc_outside (hfit : s.fitsStores = true) (h : ¬s.dcInRange (diff + s.dcPredictor n) (s.scaleOf n)) :
    exec (.predDc n diff) s = .next ((s.predDcDir n).takeRaise .macroblock (invalid .blockDcRange)) :=
  (inStores_fits hfit).trans (congrArg Host.Outcome.next (runFor_error (Parse.bind_error (predDcP_outside h))))

/-- Settles O44: the terms of the statement are the direction, the scaler, the level and the word of the operation. -/
theorem predDcPredictsAndStores : Obligations.PredDcPredictsAndStores := by
  unfold Obligations.PredDcPredictsAndStores
  intro n diff s hfit hstd h1 h31 d ab bc top q scale level w inside
  have htop : dcTop s.cfg.dcTieTop (s.dcNeighbours n) = top := dcTop_eq _ _
  have hscale : s.scaleOf n = scale := s.scaleOf_standard hstd h1 h31 n
  have hlevel : diff + s.dcPredictor n = level := by rw [State.dcPredictor_eq, htop, hscale]
  have hword : s.dcWord (level * scale) = w := s.dcWord_eq _
  have hrange : s.dcInRange (diff + s.dcPredictor n) (s.scaleOf n) ↔ inside := by
    rw [hlevel, hscale]
    rfl
  refine ⟨fun hin => ?_, fun hout => ?_⟩
  · rw [execPredDc_inside hfit (hrange.2 hin), hlevel, hscale, hword, htop]
    rfl
  · obtain ⟨hfsm, hresult, htag, _, hstores, _⟩ := (s.predDcDir n).takeRaise_invalidBlock .blockDcRange
    exact ⟨_, execPredDc_outside hfit (hout ∘ hrange.1), hfsm, hresult, htag, hstores⟩

/-! ## The start of a slice -/

/-- In the first macroblock of a slice on its first line, a block with no neighbour in its macroblock reads the sentinel
for all three (R311). -/
theorem State.dcNeighbours_sliceStart (hn : n = 0 ∨ n = 4 ∨ n = 5) (hx : s.slice.mbX = s.slice.resyncMbX)
    (hfirst : s.slice.firstSliceLine = true) : s.dcNeighbours n = ⟨1024, 1024, 1024⟩ := by
  rw [State.dcNeighbours, State.maskNeighbours, hfirst, hx]
  obtain rfl | rfl | rfl := hn <;> simp

/-- In the macroblock below the first one of a slice such a block reads it for the top-left neighbour (R311). -/
theorem State.dcNeighbours_belowStart (hn : n = 0 ∨ n = 4 ∨ n = 5) (hx : s.slice.mbX = s.slice.resyncMbX)
    (hy : s.slice.mbY.toNat = s.slice.resyncMbY.toNat + 1) : (s.dcNeighbours n).b = 1024 := by
  rw [State.dcNeighbours, State.maskNeighbours, hx]
  obtain rfl | rfl | rfl := hn <;> simp [hy]

/-- Settles O45: the sentinel of all three neighbours is a tie, whose predictor is the sentinel's. -/
theorem sentinelAtSliceStart : Obligations.SentinelAtSliceStart := by
  unfold Obligations.SentinelAtSliceStart
  intro n diff s hfit hs hn hx
  refine ⟨fun hfirst => ?_, State.dcNeighbours_belowStart hn hx⟩
  have hd := State.dcNeighbours_sliceStart hn hx hfirst
  have htop : dcTop s.cfg.dcTieTop (s.dcNeighbours n) = s.cfg.dcTieTop := by rw [hd, dcTop_const]
  have hlevel : s.dcPredictor n = Int.tdiv (1024 + (s.scaleOf n / 2 : Nat)) (s.scaleOf n) := by
    rw [State.dcPredictor_eq, hd, ite_self]
  refine ⟨by rw [hd], by rw [hd], by rw [hd], _, execPredDc_inside hfit (.inl hs), by rw [← hlevel], ?_⟩
  exact (Six.get_set_same _ n _).trans htop

end Sys2Proof.Machine
end

section
/-! BLOCK_INTRA of an uncoded block run by itself (44_residual.md R290, R292, R294, R310, R314, R320, R326): the DC
differential, the block with its DC late, early and in a partition, and a cursor that its register cannot hold. -/

namespace Sys2Proof.Machine

variable {s t u : State} {n : Fin 6} {p q size : Nat} {diff : Int}

/-! ## The differential -/

/-- The differential of `size` bits that stands at bit `p`, in the standard and in the IS_3IV1 format (R292). -/
def State.dcDiffAt (s : State) (p size : Nat) : Int :=
  let v : Int := s.memRead p size
  let m : Int := s.memRead (p + 1) (size - 1) + 2 ^ (size - 1)
  if s.quirk .is3iv1 then
    (if size = 1 then 2 * (s.bitAt p : Int) - 1 else if s.bitAt p = 1 then m else -m)
  else if 2 ^ size ≤ 2 * v then v else v - (2 ^ size - 1)

theorem unfold_eq (k v : Nat) : unfold k v = if (2 : Int) ^ k ≤ 2 * (v : Int) then (v : Int) else v - (2 ^ k - 1) := by
  rw [unfold]
  exact if_congr (by norm_cast) rfl rfl

/-- A differential in the IS_3IV1 format (R292). -/
theorem ReadsAt.dcDiff3iv1 (h : ReadsAt s p u) (hl : s.lenFits = true) (h1 : 1 ≤ size) (hin : p + size ≤ s.endPos) :
    dcDiff3iv1 size u = .ok (if size = 1 then 2 * (s.bitAt p : Int) - 1 else if s.bitAt p = 1
      then (s.memRead (p + 1) (size - 1) : Int) + 2 ^ (size - 1)
      else -((s.memRead (p + 1) (size - 1) : Int) + 2 ^ (size - 1))) (u.atBit (p + size)) := by
  rw [Machine.dcDiff3iv1, Parse.bind_ok (h.getBits hl (by omega)), State.memRead_one]
  by_cases hone : size = 1
  · subst hone
    rfl
  · have hend : p + 1 + (size - 1) = p + size := by omega
    have hrest := (h.atBit (p + 1)).getBits (e := blockEnd) (n := size - 1) hl (by omega)
    rw [hend] at hrest
    rw [if_neg hone, if_neg hone]
    refine (Parse.bind_ok hrest).trans ?_
    push_cast
    rfl

/-- The bits of a differential (R292). -/
theorem State.dcDiffBits_eq (hl : s.lenFits = true) (h1 : 1 ≤ size) (hin : p + size ≤ s.endPos) :
    dcDiffBits size (s.atBit p) = .ok (s.dcDiffAt p size) (s.atBit (p + size)) := by
  have h := (ReadsAt.refl s).atBit p
  have hq : (s.atBit p).quirk .is3iv1 = s.quirk .is3iv1 := rfl
  rw [dcDiffBits, Parse.getState_bind, hq, State.dcDiffAt]
  cases s.quirk .is3iv1 with
  | true => exact h.dcDiff3iv1 hl h1 hin
  | false => exact (h.getFolded hl hin).trans (congrArg (EStateM.Result.ok · _) (unfold_eq _ _))

/-- DC_DIFF of 1 to 8 bits reads no marker (R292, R293). -/
theorem State.dcDiffP_sized (hl : s.lenFits = true) (h1 : 1 ≤ size) (h8 : size ≤ 8)
    (hn : s.readsNumbers [(if n.val < 4 then .dcLum else .dcChrom, size)] s.pos = some p) (hin : p + size ≤ s.endPos) :
    dcDiffP n s = .ok (s.dcDiffAt p size) (s.atBit (p + size)) := by
  have hp : s.pos ≤ s.endPos := by
    have := State.readsNumbers_le hn
    omega
  have hmarker : decide (8 < size) = false := decide_eq_false (by omega)
  rw [dcDiffP, Parse.bind_ok ((ReadsAt.refl s).vlcNumber hl hp hn), if_neg (by omega), if_neg (by omega), dcDiffSized,
    Parse.bind_ok (State.dcDiffBits_eq hl h1 hin), hmarker]
  rfl

/-! ## The block -/

/-- Block `n` of `s` with its DC level predicted and stored, its row and column in ACMEM, and no other coefficient
(R310, R314, R320). -/
def State.predictedBlock (s : State) (n : Fin 6) (level : Int) : State :=
  ((((s.setDir n (dcTop s.cfg.dcTieTop (s.dcNeighbours n))).writeDc n
    (toS 16 (s.dcWord (level * s.scaleOf n)))).setCoef n 0 level).storeAcAll n).setLastIndex n 0

/-- The end of an intra block without AC prediction (R290, R320). -/
theorem State.endIntra_plain (h : u.mb.acPred = false) (n : Fin 6) (i : Int) :
    u.endIntra n i = (u.storeAcAll n).setLastIndex n i := by
  rw [State.endIntra, State.predAc, h]
  rfl

theorem State.setDir_setDir (s : State) (n : Fin 6) (d d' : Bool) : (s.setDir n d).setDir n d' = s.setDir n d' := by
  fin_cases n <;> rfl

/-- An uncoded block with its DC among the coefficients (R290, R294). -/
theorem blockIntraP_late (hs : s.ctrl.strict = false) (hac : s.mb.acPred = false) (hd : s.eng.useIntraDcVlc = false) :
    blockIntraP n false s = .ok () (s.predictedBlock n (s.coefAt n 0 + s.dcPredictor n)) := by
  have hpred := predDcP_inside (s := s.predDcDir n) (n := n) (diff := s.coefAt n 0) (.inl hs)
  have hdir : (s.predDcDir n).setDir n (dcTop s.cfg.dcTieTop (s.dcNeighbours n)) =
      s.setDir n (dcTop s.cfg.dcTieTop (s.dcNeighbours n)) := State.setDir_setDir s n _ _
  replace hpred : predDcP n (s.coefAt n 0) (s.predDcDir n) = .ok (s.coefAt n 0 + s.dcPredictor n)
      (((s.predDcDir n).setDir n (dcTop s.cfg.dcTieTop (s.dcNeighbours n))).writeDc n
        (toS 16 (s.dcWord ((s.coefAt n 0 + s.dcPredictor n) * s.scaleOf n)))) := hpred
  rw [hdir] at hpred
  have hcoefs : intraCoefs n false (-1) (s.predDcDir n) = .ok (-1) (s.predDcDir n) := rfl
  have hcoef : (s.predDcDir n).coefAt n 0 = s.coefAt n 0 := rfl
  rw [blockIntraP, Parse.getState_bind, hd, if_neg Bool.false_ne_true, intraLate, Parse.update_bind,
    Parse.bind_ok hcoefs, Parse.getState_bind, hcoef, Parse.bind_ok hpred, update_apply, if_pos rfl]
  exact congrArg (EStateM.Result.ok ()) (State.endIntra_plain (u := ((s.setDir n _).writeDc n _).setCoef n 0 _) hac n 0)

/-- An uncoded block with its DC first is its early DC and the end (R290). -/
theorem blockIntraP_early (hac : t.mb.acPred = false) (hd : s.eng.useIntraDcVlc = true) (h : earlyDc n s = .ok () t) :
    blockIntraP n false s = .ok () ((t.storeAcAll n).setLastIndex n 0) := by
  rw [blockIntraP, Parse.getState_bind, hd, if_pos rfl, intraEarly, Parse.bind_ok h, ← State.endIntra_plain hac]
  rfl

/-- An uncoded block with its DC first, its differential read from the stream (R290, R292). -/
theorem blockIntraP_read (hs : s.ctrl.strict = false) (hac : s.mb.acPred = false) (hd : s.eng.useIntraDcVlc = true)
    (hpart : s.pic.partitionedFrame = false) (h : dcDiffP n s = .ok diff (s.atBit p)) :
    blockIntraP n false s = .ok () ((s.atBit p).predictedBlock n (diff + s.dcPredictor n)) := by
  refine blockIntraP_early hac hd ?_
  rw [earlyDc, Parse.getState_bind, hpart, if_neg Bool.false_ne_true, Parse.bind_ok h]
  exact Parse.bind_ok (predDcP_inside (.inl hs))

/-- An uncoded block of a partitioned frame takes the level and the direction of the first pass (R326). -/
theorem blockIntraP_partitioned (hac : s.mb.acPred = false) (hd : s.eng.useIntraDcVlc = true)
    (hpart : s.pic.partitionedFrame = true) :
    blockIntraP n false s = .ok () (((s.partitionedDc n).storeAcAll n).setLastIndex n 0) := by
  refine blockIntraP_early hac hd ?_
  rw [earlyDc, Parse.getState_bind, hpart, if_pos rfl, update_apply]

theorem execBlockIntra_of {coded : Bool} (hfit : s.fitsStores = true) (h : blockIntraP n coded s = .ok () t) :
    exec (.blockIntra n coded) s = .next t :=
  (inStores_fits hfit).trans (congrArg Host.Outcome.next (runAt_ok h))

/-- The second clause of O43 under the premise it leaves out, that the cursor stands inside BS (10_state.md R21). -/
theorem execBlockIntra_sizeZero (hl : s.lenFits = true) (hfit : s.fitsStores = true) (hs : s.ctrl.strict = false)
    (hac : s.mb.acPred = false) (hd : s.eng.useIntraDcVlc = true) (hpart : s.pic.partitionedFrame = false)
    (hp : s.pos ≤ s.endPos) (hn : s.readsNumbers [(if n.val < 4 then .dcLum else .dcChrom, 0)] s.pos = some p) :
    exec (.blockIntra n false) s = .next ((s.atBit p).predictedBlock n (s.dcPredictor n)) := by
  have hrun := blockIntraP_read hs hac hd hpart ((ReadsAt.refl s).dcDiffP_zero hl hp hn)
  rw [zero_add] at hrun
  exact execBlockIntra_of hfit hrun

/-- The third clause of O43. -/
theorem execBlockIntra_sized (hl : s.lenFits = true) (hfit : s.fitsStores = true) (hs : s.ctrl.strict = false)
    (hac : s.mb.acPred = false) (hd : s.eng.useIntraDcVlc = true) (hpart : s.pic.partitionedFrame = false)
    (h1 : 1 ≤ size) (h8 : size ≤ 8)
    (hn : s.readsNumbers [(if n.val < 4 then .dcLum else .dcChrom, size)] s.pos = some p) (hin : p + size ≤ s.endPos) :
    exec (.blockIntra n false) s =
      .next ((s.atBit (p + size)).predictedBlock n (s.dcDiffAt p size + s.dcPredictor n)) :=
  execBlockIntra_of hfit (blockIntraP_read hs hac hd hpart (State.dcDiffP_sized hl h1 h8 hn hin))

/-- The fourth clause of O43. -/
theorem execBlockIntra_partitioned (hfit : s.fitsStores = true) (hac : s.mb.acPred = false)
    (hd : s.eng.useIntraDcVlc = true) (hpart : s.pic.partitionedFrame = true) :
    exec (.blockIntra n false) s = .next ((((s.setCoef n 0
      (Int.tdiv (s.dcAt n (s.blockX n) (s.blockY n) + (s.scaleOf n / 2 : Nat)) (s.scaleOf n))).setDir n
        (s.partHere.dir.get n)).storeAcAll n).setLastIndex n 0) := by
  rw [execBlockIntra_of hfit (blockIntraP_partitioned hac hd hpart), State.partitionedDc, levelOf_eq _ (s.scaleOf_pos n)]

/-! ## A cursor that cannot hold its position -/

/-- Looked for through the cursor, a DC size of 0 stands at bit 1: the write of 1 leaves the cursor at bit 0. -/
theorem pastNoCursorBlock_readsSize :
    pastNoCursorBlock.readsNumbers [(.dcLum, 0)] pastNoCursorBlock.pos = some 1 := by
  rw [State.readsNumbers_one]
  refine ⟨⟨0, 0, .num 0⟩, ?_, rfl, rfl⟩
  rw [State.readsRow, State.setPos_of_noCursor rfl]
  decide

/-- BLOCK_INTRA, which reads at bit 1 itself, finds BS exhausted. -/
theorem pastNoCursorBlock_block_exhausted :
    ∃ t, exec (.blockIntra 0 false) pastNoCursorBlock = .next t ∧ t.fsm = .error :=
  ⟨_, rfl, rfl⟩

/-- The write side of PRED_AC leaves FSM alone. -/
theorem State.storeAcAll_fsm (u : State) (n : Fin 6) : (u.storeAcAll n).fsm = u.fsm :=
  List.foldlRecOn (motive := fun t : State => t.fsm = u.fsm) oneToSeven _ rfl fun _ ht _ _ => ht

theorem State.predictedBlock_fsm (s : State) (n : Fin 6) (level : Int) : (s.predictedBlock n level).fsm = s.fsm := by
  rw [State.predictedBlock, State.setLastIndex_fsm, State.storeAcAll_fsm]
  rfl

/-- What the second clause of O43 says of a state. -/
theorem sizeZero_of_statement (h : Obligations.UncodedIntraBlockIsPredicted) (hl : s.lenFits = true)
    (hfit : s.fitsStores = true) (hac : s.mb.acPred = false) (hs : s.ctrl.strict = false)
    (hd : s.eng.useIntraDcVlc = true) (hpart : s.pic.partitionedFrame = false)
    (hn : s.readsNumbers [(if n.val < 4 then .dcLum else .dcChrom, 0)] s.pos = some p) :
    exec (.blockIntra n false) s = .next ((s.atBit p).predictedBlock n (s.dcPredictor n)) := by
  obtain ⟨_, hzero, _⟩ := h n s hl hfit hac hs
  exact hzero p hd hpart hn

/-- Refutes O43: its second clause does not say that the cursor stands inside BS. Under CFG.CURSOR_BITS = 0 the cursor
stands at bit 1 of an empty BS, and a DC size of 0 is found only by a write of the cursor that does not fit. Where the
cursor stands inside BS all four clauses hold: `blockIntraP_late` with `execBlockIntra_of`, `execBlockIntra_sizeZero`,
`execBlockIntra_sized`, `execBlockIntra_partitioned`. -/
theorem not_uncodedIntraBlockIsPredicted : ¬ Obligations.UncodedIntraBlockIsPredicted := by
  intro h
  have hsays := sizeZero_of_statement (n := 0) h (by decide) (by decide) rfl rfl rfl rfl pastNoCursorBlock_readsSize
  obtain ⟨t, hexec, herr⟩ := pastNoCursorBlock_block_exhausted
  rw [hexec] at hsays
  have hfsm : t.fsm = .mb := (congrArg State.fsm (Host.Outcome.next.inj hsays)).trans (State.predictedBlock_fsm _ _ _)
  rw [herr] at hfsm
  cases hfsm

end Sys2Proof.Machine
end

section
/-! PRED_AC run by itself (44_residual.md R318 to R320; 20_memory.md R82): both sides as runs of writes at addresses of
their own, the coefficients of one block and the words of one position of ACMEM. -/

namespace Sys2Proof.Machine

variable {s t u : State} {n : Fin 6} {m b : Cells (BitVec 16)} {ks : List Nat} {addr : Nat → Nat}
  {val : Nat → BitVec 16 → BitVec 16} {a k : Nat}

/-! ## Runs of writes -/

/-- The memory with the word at `addr k` rewritten by `val k`, for each `k` of the list in turn. -/
def rewriteEach (addr : Nat → Nat) (val : Nat → BitVec 16 → BitVec 16) (ks : List Nat) (m : Cells (BitVec 16)) :
    Cells (BitVec 16) :=
  ks.foldl (fun m k => Cells.write 0 (addr k) (val k (Cells.read 0 m (addr k))) m) m

theorem rewriteEach_cons (k : Nat) (ks : List Nat) (m : Cells (BitVec 16)) : rewriteEach addr val (k :: ks) m =
    rewriteEach addr val ks (Cells.write 0 (addr k) (val k (Cells.read 0 m (addr k))) m) := rfl

/-- An address that no `k` of the list has reads as before. -/
theorem read_rewriteEach_other (hm : Cells.wf 0 m = true) (ha : ∀ k ∈ ks, a ≠ addr k) :
    Cells.read 0 (rewriteEach addr val ks m) a = Cells.read 0 m a := by
  induction ks generalizing m with
  | nil => rfl
  | cons k ks ih =>
    rw [rewriteEach_cons, ih (Cells.wf_write hm) fun j hj => ha j (List.mem_cons_of_mem k hj),
      Cells.read_write_other hm (ha k List.mem_cons_self)]

/-- Where no two of the list have one address, each word is rewritten once. -/
theorem read_rewriteEach (hm : Cells.wf 0 m = true) (hks : (ks.map addr).Nodup) (hk : k ∈ ks) :
    Cells.read 0 (rewriteEach addr val ks m) (addr k) = val k (Cells.read 0 m (addr k)) := by
  induction ks generalizing m with
  | nil => cases hk
  | cons j ks ih =>
    obtain ⟨hj, hks⟩ := List.nodup_cons.1 hks
    rw [rewriteEach_cons]
    obtain rfl | hk := List.mem_cons.1 hk
    · have hfree : ∀ i ∈ ks, addr k ≠ addr i := fun i hi he => hj (List.mem_map.2 ⟨i, hi, he.symm⟩)
      rw [read_rewriteEach_other (Cells.wf_write hm) hfree, Cells.read_write_same hm]
    · have hne : addr k ≠ addr j := fun he => hj (List.mem_map.2 ⟨k, hk, he⟩)
      rw [ih (Cells.wf_write hm) hks hk, Cells.read_write_other hm hne]

theorem mem_oneToSeven : k ∈ oneToSeven ↔ 1 ≤ k ∧ k ≤ 7 := by
  simp only [oneToSeven, List.mem_cons, List.not_mem_nil, or_false]
  omega

/-! ## One block, one plane -/

theorem Six.set_get {α : Type} (x : Six α) (n : Fin 6) : x.set n (x.get n) = x := by
  fin_cases n <;> rfl

theorem Six.set_set {α : Type} (x : Six α) (n : Fin 6) (a b : α) : (x.set n a).set n b = x.set n b := by
  fin_cases n <;> rfl

theorem Mb.wf_block {x : Mb} (h : x.wf = true) (n : Fin 6) : Cells.wf 0 (x.block.get n) = true := by
  obtain ⟨h0, h1, h2, h3, h4, h5⟩ := Mb.wf_iff.1 h
  fin_cases n <;> assumption

theorem Stores.setAcPlane_setAcPlane (x : Stores) (n : Fin 6) (m m' : Cells (BitVec 16)) :
    (x.setAcPlane n m).setAcPlane n m' = x.setAcPlane n m' := by
  fin_cases n <;> rfl

theorem Stores.setAcPlane_acPlane (x : Stores) (n : Fin 6) : x.setAcPlane n (x.acPlane n) = x := by
  fin_cases n <;> rfl

/-- A signed register written with its own value. -/
theorem toS16_toInt (v : BitVec 16) : toS 16 v.toInt = v := by
  have hlo := BitVec.le_toInt v
  have hhi := BitVec.toInt_lt (x := v)
  rw [toS_ofInt (by norm_num at *; omega) (by norm_num at *; omega), BitVec.ofInt_toInt]

/-- `s` with the coefficients of block `n` replaced. -/
def State.withBlock (s : State) (n : Fin 6) (b : Cells (BitVec 16)) : State :=
  { s with mb := { s.mb with block := s.mb.block.set n b } }

theorem State.withBlock_self (s : State) (n : Fin 6) : s.withBlock n (s.mb.block.get n) = s := by
  rw [State.withBlock, Six.set_get]

theorem State.withBlock_block (s : State) (n : Fin 6) (b : Cells (BitVec 16)) :
    (s.withBlock n b).mb.block.get n = b := Six.get_set_same _ n b

theorem State.coefAt_withBlock (s : State) (n : Fin 6) (b : Cells (BitVec 16)) (a : Nat) :
    (s.withBlock n b).coefAt n a = (Cells.read 0 b a).toInt := by
  rw [State.coefAt, State.withBlock_block]

theorem State.setCoef_withBlock (s : State) (n : Fin 6) (b : Cells (BitVec 16)) (a : Nat) (v : Int) :
    (s.withBlock n b).setCoef n a v = s.withBlock n (Cells.write 0 a (toS 16 v) b) := by
  have hset : (s.withBlock n b).setCoef n a v =
      (s.withBlock n b).withBlock n (Cells.write 0 a (toS 16 v) ((s.withBlock n b).mb.block.get n)) := rfl
  rw [hset, State.withBlock_block]
  simp only [State.withBlock, Six.set_set]

/-- `s` with the plane of ACMEM of block `n` replaced. -/
def State.withAcPlane (s : State) (n : Fin 6) (m : Cells (BitVec 16)) : State :=
  { s with stores := s.stores.setAcPlane n m }

theorem State.withAcPlane_self (s : State) (n : Fin 6) : s.withAcPlane n (s.stores.acPlane n) = s := by
  rw [State.withAcPlane, Stores.setAcPlane_acPlane]

theorem State.writeAc_withAcPlane (s : State) (n : Fin 6) (m : Cells (BitVec 16)) (k : Nat) (v : BitVec 16) :
    (s.withAcPlane n m).writeAc n k v = s.withAcPlane n (Cells.write 0 (16 * s.blockPos n + k) v m) := by
  have hset : (s.withAcPlane n m).writeAc n k v = (s.withAcPlane n m).withAcPlane n
      (Cells.write 0 (16 * s.blockPos n + k) v ((s.stores.setAcPlane n m).acPlane n)) := rfl
  rw [hset, Stores.acPlane_setAcPlane_same]
  simp only [State.withAcPlane, Stores.setAcPlane_setAcPlane]

/-! ## The two sides -/

/-- The read side rewrites the coefficients of its block at the targets of its direction (R318). -/
theorem State.foldl_addAc (s : State) (n : Fin 6) (top : Bool) (ks : List Nat) (b : Cells (BitVec 16)) :
    ks.foldl (fun t k => t.addAc n top k) (s.withBlock n b) =
      s.withBlock n (rewriteEach (s.acTarget top) (fun k w => toS 16 (w.toInt + s.acPrediction n top k)) ks b) := by
  induction ks generalizing b with
  | nil => rfl
  | cons k ks ih =>
    have hadd : (s.withBlock n b).addAc n top k = (s.withBlock n b).setCoef n (s.acTarget top k)
        ((s.withBlock n b).coefAt n (s.acTarget top k) + s.acPrediction n top k) := rfl
    rw [List.foldl_cons, hadd, State.setCoef_withBlock, State.coefAt_withBlock, ih, rewriteEach_cons]

/-- Word `j` of the block's own position: of the first column for 1 to 7, of the first row for 9 to 15 (R320). -/
def State.acWord (s : State) (n : Fin 6) (j : Nat) : BitVec 16 :=
  toS 16 (s.coefAt n (s.acPos (if j < 8 then 8 * j else j - 8)))

/-- The words that the write side writes, in its order (R320). -/
def acWords (ks : List Nat) : List Nat := ks.flatMap fun k => [k, 8 + k]

/-- The write side rewrites the words of its block's position (R320). -/
theorem State.foldl_storeAc (s : State) (n : Fin 6) (ks : List Nat) (h : ∀ k ∈ ks, k < 8) (m : Cells (BitVec 16)) :
    ks.foldl (fun t k => t.storeAc n k) (s.withAcPlane n m) =
      s.withAcPlane n (rewriteEach (16 * s.blockPos n + ·) (fun j _ => s.acWord n j) (acWords ks) m) := by
  induction ks generalizing m with
  | nil => rfl
  | cons k ks ih =>
    have hk : k < 8 := h k List.mem_cons_self
    have hcolumn : s.acWord n k = toS 16 (s.coefAt n (s.acPos (8 * k))) := by rw [State.acWord, if_pos hk]
    have hrow : s.acWord n (8 + k) = toS 16 (s.coefAt n (s.acPos k)) := by
      rw [State.acWord, if_neg (by omega), Nat.add_sub_cancel_left]
    have hstore : (s.withAcPlane n m).storeAc n k =
        ((s.withAcPlane n m).writeAc n k (s.acWord n k)).writeAc n (8 + k) (s.acWord n (8 + k)) := by
      rw [hcolumn, hrow]
      rfl
    rw [List.foldl_cons, hstore, State.writeAc_withAcPlane, State.writeAc_withAcPlane,
      ih fun j hj => h j (List.mem_cons_of_mem k hj)]
    rfl

/-- The block that PRED_AC leaves (R318). -/
def State.acBlock (s : State) (n : Fin 6) : Cells (BitVec 16) :=
  if s.mb.acPred then rewriteEach (s.acTarget (s.mb.predDir.get n))
    (fun k w => toS 16 (w.toInt + s.acPrediction n (s.mb.predDir.get n) k)) oneToSeven (s.mb.block.get n)
  else s.mb.block.get n

/-- The plane of ACMEM that the write side of PRED_AC leaves (R320). -/
def State.acStored (s : State) (n : Fin 6) : Cells (BitVec 16) :=
  rewriteEach (16 * s.blockPos n + ·) (fun j _ => s.acWord n j) (acWords oneToSeven) (s.stores.acPlane n)

theorem State.storeAcAll_eq (s : State) (n : Fin 6) : s.storeAcAll n = s.withAcPlane n (s.acStored n) := by
  have h := s.foldl_storeAc n oneToSeven (by decide) (s.stores.acPlane n)
  rwa [State.withAcPlane_self] at h

/-- PRED_AC as its two sides (R318 to R320). -/
theorem State.predAc_eq (s : State) (n : Fin 6) :
    s.predAc n = (s.withBlock n (s.acBlock n)).withAcPlane n ((s.withBlock n (s.acBlock n)).acStored n) := by
  rw [← State.storeAcAll_eq, State.predAc, State.acBlock]
  cases s.mb.acPred with
  | true =>
    have h := s.foldl_addAc n (s.mb.predDir.get n) oneToSeven (s.mb.block.get n)
    rw [State.withBlock_self] at h
    rw [if_pos rfl, if_pos rfl, ← h]
    rfl
  | false => rw [if_neg Bool.false_ne_true, if_neg Bool.false_ne_true, State.withBlock_self]

theorem State.predAc_block (s : State) (n : Fin 6) : (s.predAc n).mb.block.get n = s.acBlock n := by
  rw [State.predAc_eq]
  exact s.withBlock_block n _

theorem State.predAc_acPlane (s : State) (n : Fin 6) :
    (s.predAc n).stores.acPlane n = (s.withBlock n (s.acBlock n)).acStored n := by
  rw [State.predAc_eq]
  exact Stores.acPlane_setAcPlane_same _ n _

theorem State.predAc_coefAt (s : State) (n : Fin 6) (a : Nat) :
    (s.predAc n).coefAt n a = (Cells.read 0 (s.acBlock n) a).toInt := by
  rw [State.coefAt, State.predAc_block]

/-- PRED_AC writes its block and its plane of ACMEM alone. -/
theorem State.predAc_frame (s : State) (n : Fin 6) : s.predAc n = { s with
    mb := { s.mb with block := s.mb.block.set n ((s.predAc n).mb.block.get n) }
    stores := s.stores.setAcPlane n ((s.predAc n).stores.acPlane n) } := by
  rw [State.predAc_block, State.predAc_acPlane]
  exact s.predAc_eq n

/-- A word of the block's own position after PRED_AC. -/
theorem State.predAc_acAt (s : State) (n : Fin 6) (j : Nat) : (s.predAc n).acAt n (s.blockX n) (s.blockY n) j =
    (Cells.read 0 ((s.withBlock n (s.acBlock n)).acStored n) (16 * s.blockPos n + j)).toInt := by
  have hwidth : (s.predAc n).planeW n = s.planeW n := by
    rw [State.predAc_eq]
    rfl
  rw [State.acAt, State.predAc_acPlane, hwidth]
  rfl

/-! ## The identity permutation -/

/-- Position `k` of the direction: in the first row for top, in the first column for left (R318). -/
def acPlace (top : Bool) (k : Nat) : Nat := if top then k else 8 * k

theorem State.acPos_identity (h : s.cfg.idctPerm = List.range 64) (hk : k < 64) : s.acPos k = k := by
  rw [State.acPos, h, permAt, List.getD_eq_getElem _ _ (by rwa [List.length_range]), List.getElem_range]

theorem State.acTarget_identity (h : s.cfg.idctPerm = List.range 64) (top : Bool) (hk : k ∈ oneToSeven) :
    s.acTarget top k = acPlace top k := by
  obtain ⟨_, h7⟩ := mem_oneToSeven.1 hk
  cases top with
  | true => exact State.acPos_identity h (by omega)
  | false => exact State.acPos_identity h (by omega)

/-- The coefficients after the read side (R318). -/
theorem State.acBlock_target (h : s.cfg.idctPerm = List.range 64) (hwf : s.mb.wf = true) (hk : k ∈ oneToSeven)
    {v : Int} (hv : v = s.coefAt n (acPlace (s.mb.predDir.get n) k)
      + (if s.mb.acPred then s.acPrediction n (s.mb.predDir.get n) k else 0))
    (hfit : -32768 ≤ v ∧ v ≤ 32767) :
    (Cells.read 0 (s.acBlock n) (acPlace (s.mb.predDir.get n) k)).toInt = v := by
  generalize htop : s.mb.predDir.get n = top at hv
  have hnodup : (oneToSeven.map (s.acTarget top)).Nodup := by
    rw [List.map_congr_left fun j hj => State.acTarget_identity h top hj]
    cases top <;> decide
  rw [State.acBlock, htop]
  cases hac : s.mb.acPred with
  | true =>
    rw [hac, if_pos rfl] at hv
    rw [if_pos rfl, ← State.acTarget_identity h top hk, read_rewriteEach (Mb.wf_block hwf n) hnodup hk,
      State.acTarget_identity h top hk]
    rw [State.coefAt] at hv
    rw [← hv, toInt_toS (by norm_num; omega) (by norm_num; omega)]
  | false =>
    rw [hac, if_neg Bool.false_ne_true, add_zero] at hv
    rw [if_neg Bool.false_ne_true, hv, State.coefAt]

theorem State.acBlock_other (h : s.cfg.idctPerm = List.range 64) (hwf : s.mb.wf = true)
    (ha : ∀ k ∈ oneToSeven, a ≠ acPlace (s.mb.predDir.get n) k) :
    Cells.read 0 (s.acBlock n) a = Cells.read 0 (s.mb.block.get n) a := by
  rw [State.acBlock]
  cases s.mb.acPred with
  | true =>
    rw [if_pos rfl]
    exact read_rewriteEach_other (Mb.wf_block hwf n) fun k hk => by
      rw [State.acTarget_identity h _ hk]
      exact ha k hk
  | false => rw [if_neg Bool.false_ne_true]

theorem acWords_addresses_nodup (i : Nat) : ((acWords oneToSeven).map (16 * i + ·)).Nodup :=
  List.Nodup.map (fun _ _ => Nat.add_left_cancel) (by decide)

theorem mem_acWords {j : Nat} : j ∈ acWords oneToSeven ↔ ∃ k, (1 ≤ k ∧ k ≤ 7) ∧ (j = k ∨ j = 8 + k) := by
  simp only [acWords, List.mem_flatMap, mem_oneToSeven, List.mem_cons, List.not_mem_nil, or_false]

/-- A word of the block's own position after the write side (R320). -/
theorem State.acStored_word (hwf : s.stores.wf = true) {j : Nat} (hj : j ∈ acWords oneToSeven) :
    Cells.read 0 (s.acStored n) (16 * s.blockPos n + j) = s.acWord n j :=
  read_rewriteEach (Stores.wf_acPlane hwf n) (acWords_addresses_nodup _) hj

theorem State.acStored_other (hwf : s.stores.wf = true)
    (ha : ∀ j ∈ acWords oneToSeven, a ≠ 16 * s.blockPos n + j) :
    Cells.read 0 (s.acStored n) a = Cells.read 0 (s.stores.acPlane n) a :=
  read_rewriteEach_other (Stores.wf_acPlane hwf n) ha

/-- A stored word is the coefficient of its place (R320). -/
theorem State.acWord_toInt (h : s.cfg.idctPerm = List.range 64) (hk : k ∈ oneToSeven) :
    (s.acWord n k).toInt = s.coefAt n (8 * k) ∧ (s.acWord n (8 + k)).toInt = s.coefAt n k := by
  obtain ⟨_, h7⟩ := mem_oneToSeven.1 hk
  rw [State.acWord, State.acWord, if_pos (by omega), if_neg (by omega), Nat.add_sub_cancel_left,
    State.acPos_identity h (by omega), State.acPos_identity h (by omega), State.coefAt, State.coefAt, toS16_toInt,
    toS16_toInt]
  exact ⟨rfl, rfl⟩

/-! ## The prediction -/

/-- When the neighbour of the direction used the same quantiser (R318). -/
theorem State.sameQuant_eq (s : State) (n : Fin 6) (top : Bool) : s.sameQuant n top = decide (if top
    then s.slice.mbY = 0 ∨ n = 2 ∨ n = 3 ∨ Cells.read 0 s.stores.qmem (s.acMacroblock top) = s.pic.qscale
    else s.slice.mbX = 0 ∨ n = 1 ∨ n = 3 ∨ Cells.read 0 s.stores.qmem (s.acMacroblock top) = s.pic.qscale) := by
  rw [Bool.eq_iff_iff, decide_eq_true_iff, State.sameQuant]
  cases top <;> simp [State.qAt, Fin.ext_iff, BitVec.toNat_inj, or_assoc]

/-- The words that PRED_AC adds (R318, R319). -/
theorem State.acPrediction_eq (s : State) (n : Fin 6) (top : Bool) (k : Nat) : s.acPrediction n top k =
    if s.sameQuant n top then s.acNeighbour n top k else roundedDiv
      (s.acNeighbour n top k * (Cells.read 0 s.stores.qmem (s.acMacroblock top)).toNat) s.pic.qscale.toNat := rfl

/-- Settles O46: the state that PRED_AC leaves is its two runs of writes, each read back at the addresses it has. -/
theorem predAcAddsAndStores : Obligations.PredAcAddsAndStores := by
  unfold Obligations.PredAcAddsAndStores
  intro n s hfit hst hmb hperm top nb same word added target sum hsum
  have hexec : exec (.predAc n) s = .next (s.predAc n) :=
    (inStores_fits hfit).trans (congrArg Host.Outcome.next (runAt_ok (update_apply _ s)))
  have hsame : s.sameQuant n top = same := s.sameQuant_eq n top
  have hadded (k : Nat) : s.acPrediction n top k = added k := by
    rw [State.acPrediction_eq, hsame]
    rfl
  refine ⟨_, hexec, s.predAc_frame n, fun k h1 h7 => ?_, fun a ha => ?_, fun k h1 h7 => ?_, fun a ha => ?_⟩
  · rw [State.predAc_coefAt]
    refine State.acBlock_target hperm hmb (mem_oneToSeven.2 ⟨h1, h7⟩) ?_ (hsum k h1 h7)
    rw [show s.acPrediction n (s.mb.predDir.get n) k = added k from hadded k]
    rfl
  · have hother : ∀ k ∈ oneToSeven, a ≠ acPlace top k := fun k hk =>
      ha k (mem_oneToSeven.1 hk).1 (mem_oneToSeven.1 hk).2
    rw [State.predAc_coefAt, State.acBlock_other hperm hmb hother, State.coefAt]
  · have hword {j : Nat} (hj : j = k ∨ j = 8 + k) : Cells.read 0 ((s.withBlock n (s.acBlock n)).acStored n)
        (16 * s.blockPos n + j) = (s.withBlock n (s.acBlock n)).acWord n j :=
      State.acStored_word (s := s.withBlock n (s.acBlock n)) hst (mem_acWords.2 ⟨k, ⟨h1, h7⟩, hj⟩)
    obtain ⟨hcolumn, hrow⟩ := State.acWord_toInt (s := s.withBlock n (s.acBlock n)) (n := n) hperm
      (mem_oneToSeven.2 ⟨h1, h7⟩)
    rw [State.predAc_acAt, State.predAc_acAt, hword (.inl rfl), hword (.inr rfl), hcolumn, hrow,
      State.coefAt_withBlock, State.coefAt_withBlock, State.predAc_coefAt, State.predAc_coefAt]
    exact ⟨rfl, rfl⟩
  · rw [State.predAc_acPlane]
    refine State.acStored_other (s := s.withBlock n (s.acBlock n)) hst fun j hj => ?_
    obtain ⟨k, ⟨h1, h7⟩, rfl | rfl⟩ := mem_acWords.1 hj
    · exact (ha _ h1 h7).1
    · exact fun he => (ha k h1 h7).2 (he.trans (Nat.add_assoc _ 8 k).symm)

end Sys2Proof.Machine
end

section
/-! The steps of RESYNC_CHECK that run no operation (45_resync.md R349 to R351): the end of the picture, the tests on a
macroblock's answer, the start of the recovery, and the turns of its search. -/

namespace Sys2Proof.Machine

variable {s : State} {r : Boundary}

/-! ## The picture is accounted for, or it is not -/

theorem State.pictureDone_iff : s.pictureDone = true ↔ s.slice.nextMbi.toNat = s.mbTotal := beq_iff_eq

theorem engineMove_decide (hf : s.fsm = .resyncCheck) (hp : s.eng.phase = .decide r) :
    engineMove s = some (s.decideBoundary r) := by simp only [engineMove, hf, hp]

theorem engineMove_recover (hf : s.fsm = .resyncCheck) (hp : s.eng.phase = .recover) :
    engineMove s = some s.startRecovery := by simp only [engineMove, hf, hp]

theorem State.decideBoundary_done (h : s.slice.nextMbi.toNat = s.mbTotal) : s.decideBoundary r = s.endPicture :=
  if_pos (State.pictureDone_iff.2 h)

theorem State.startRecovery_done (h : s.slice.nextMbi.toNat = s.mbTotal) : s.startRecovery = s.endPicture :=
  if_pos (State.pictureDone_iff.2 h)

/-- The tests of R349 in a picture that goes on. -/
theorem State.decideBoundary_goesOn (h : s.slice.nextMbi.toNat ≠ s.mbTotal) : s.decideBoundary r = match r with
    | .ok => s.setFsm .mb
    | .sliceEnd => runAt .packet toHeader s
    | .sliceNoend => s.setPhase .recover :=
  (if_neg fun hd => h (State.pictureDone_iff.1 hd)).trans (by cases r <;> rfl)

/-! ## The cursor -/

theorem State.alignUp_inside {p : Nat} (h : p ≤ s.endPos) : alignUp p ≤ s.endPos := alignUp_le h

/-- The stuffing bit is skipped and the cursor goes to the next byte (R349). -/
theorem toHeader_ok (hl : s.lenFits = true) (hin : s.pos + 1 ≤ s.endPos) :
    toHeader s = .ok () ((s.atBit (alignUp (s.pos + 1))).setPhase .header) := by
  have halign : (s.atBit (s.pos + 1)).align = s.atBit (alignUp (s.pos + 1)) :=
    ((ReadsAt.refl s).atBit (s.pos + 1)).setPos hl (State.alignUp_inside hin)
  rw [toHeader, Parse.bind_ok (skipBits_ok hin), State.setPos_eq_atBit hl hin, update_apply, halign]

/-- The recovery goes back to the byte at or after the last slice start (R350). -/
theorem State.startRecovery_goesOn (h : s.slice.nextMbi.toNat ≠ s.mbTotal) (hl : s.lenFits = true)
    (hlast : s.slice.lastResyncPos.toNat ≤ s.endPos) :
    s.startRecovery = (s.atBit (alignUp s.slice.lastResyncPos.toNat)).setPhase .search := by
  rw [State.startRecovery, if_neg fun hd => h (State.pictureDone_iff.1 hd),
    State.setPos_eq_atBit hl (State.alignUp_inside hlast)]

/-! ## The search -/

theorem State.left_gt_iff : 27 < s.left ↔ s.pos + 27 < s.endPos := by
  unfold State.left
  omega

/-- Where no sixteen zeros stand the search moves on a byte (R350). -/
theorem State.searchTurn_moves (hl : s.lenFits = true) (hin : s.pos + 27 < s.endPos) (h : s.memRead s.pos 16 ≠ 0) :
    s.searchTurn = some (s.atBit (s.pos + 8)) := by
  rw [State.searchTurn, if_pos (State.left_gt_iff.2 hin), State.peek, if_neg h, State.setPos_eq_atBit hl (by omega)]

/-- Where sixteen zeros stand a packet header is tried (R350). -/
theorem State.searchTurn_tries (hin : s.pos + 27 < s.endPos) (h : s.memRead s.pos 16 = 0) : s.searchTurn = none := by
  rw [State.searchTurn, if_pos (State.left_gt_iff.2 hin), State.peek, if_pos h]

theorem fetch_packet (hf : s.fsm = .resyncCheck) (hp : s.eng.phase = .search) : fetch s = (.packet, []) := by
  simp only [fetch, hf, hp, reduceCtorEq, if_false]

/-- A fatal failure of the resync unit publishes every row and loses no macroblock of its own (60_exceptions.md R371). -/
theorem State.failFatally_resync (s : State) (tag : Tag) : s.failFatally .resync tag = { s with
    fsm := .error
    status := { s.status with picValid := false }
    stores := { s.stores with rowprog := s.mbH } } := by
  rw [State.failFatally, State.noteLost, State.lostAt]
  simp only [List.append_nil]
  rfl

/-- With 27 bits or fewer the search ends the picture (R350). -/
theorem State.searchTurn_fails (hl : s.lenFits = true) (hp : s.pos ≤ s.endPos) (h : s.endPos ≤ s.pos + 27) :
    s.searchTurn = some { s with
      fsm := .error
      status := ⟨.fatalNoResync, .resyncSearch, BitVec.ofNat 32 s.pos, false, s.status.log⟩
      stores := { s.stores with rowprog := s.mbH } } := by
  have herr : toU 32 (s.bitpos : Int) = BitVec.ofNat 32 s.pos := toU_nat (lt_of_le_of_lt hp (State.lenFits_iff.1 hl).2)
  have htake : s.takeRaise .resync ⟨.fatalNoResync, .resyncSearch⟩ =
      (s.recordRaise ⟨.fatalNoResync, .resyncSearch⟩).failFatally .resync .resyncSearch := rfl
  rw [State.searchTurn, if_neg (by rw [State.left_gt_iff]; omega), htake, State.failFatally_resync, State.recordRaise,
    herr]
  rfl

/-- Settles O54: each phase of RESYNC_CHECK has one move, and the search leaves its one operation to the packet header. -/
theorem recoverySearchesFromTheSliceStart : Obligations.RecoverySearchesFromTheSliceStart := by
  unfold Obligations.RecoverySearchesFromTheSliceStart
  intro s hf hl hp hlast finished phase
  have decides {r : Boundary} (h : s.eng.phase = .decide r) : step s = .next (s.decideBoundary r) :=
    step_of_engineMove (engineMove_decide hf h)
  have recovers (h : s.eng.phase = .recover) : step s = .next s.startRecovery :=
    step_of_engineMove (engineMove_recover hf h)
  have searches (h : s.eng.phase = .search) {t : State} (ht : s.searchTurn = some t) : step s = .next t :=
    step_of_engineMove ((engineMove_search hf h).trans ht)
  refine ⟨?_, fun hgo h => ?_, fun hgo h hin => ?_, fun hgo h => ?_, fun hgo h => ?_, fun h hin hbits => ?_,
    fun h hin hbits => ?_, fun h hend => searches h (State.searchTurn_fails hl hp hend)⟩
  · rintro hdone (h | ⟨r, h⟩)
    · rw [recovers h, State.startRecovery_done hdone]
      rfl
    · rw [decides h, State.decideBoundary_done hdone]
      rfl
  · rw [decides h, State.decideBoundary_goesOn hgo]
    rfl
  · rw [decides h, State.decideBoundary_goesOn hgo]
    exact congrArg Host.Outcome.next (runAt_ok (toHeader_ok hl hin))
  · rw [decides h, State.decideBoundary_goesOn hgo]
    rfl
  · rw [recovers h, State.startRecovery_goesOn hgo hl hlast]
    rfl
  · exact searches h (State.searchTurn_moves hl hin hbits)
  · refine step_of_decoded ((engineMove_search hf h).trans (State.searchTurn_tries hin hbits)) ?_
    rw [fetch_packet hf h]
    rfl

end Sys2Proof.Machine
end

section
/-! SLICE_START (45_resync.md R339): the registers of the slice, and the words of ACMEM around the start of a packet. -/

namespace Sys2Proof.Machine

variable {s : State} {m : Cells (BitVec 16)} {start : Int} {count a : Nat}

/-- The block position of word `a` is one of the `count` from `start` up. -/
def acCleared (start : Int) (count a : Nat) : Prop := start ≤ (a / 16 : Nat) ∧ ((a / 16 : Nat) : Int) < start + count

/-- The words of the block positions from `start` up, those below 0 left out, are the cleared run of addresses. -/
theorem acCleared_iff : acCleared start count a ↔ 16 * (max 0 start).toNat ≤ a
    ∧ a < 16 * (max 0 start).toNat + 16 * (start + count - max 0 start).toNat := by
  unfold acCleared
  omega

theorem read_clearAc_inside (hm : Cells.wf 0 m = true) (h : acCleared start count a) :
    Cells.read 0 (clearAc start count m) a = 0 := by
  rw [clearAc, Cells.read_clear _ hm, if_pos (acCleared_iff.1 h)]

theorem read_clearAc_outside (hm : Cells.wf 0 m = true) (h : ¬acCleared start count a) :
    Cells.read 0 (clearAc start count m) a = Cells.read 0 m a := by
  rw [clearAc, Cells.read_clear _ hm, if_neg fun h' => h (acCleared_iff.2 h')]

theorem State.fromPacket_iff : s.fromPacket = true ↔ ¬(s.slice.mbX = 0 ∧ s.slice.mbY = 0) := by
  simp only [State.fromPacket, Bool.not_eq_true', ← Bool.not_eq_true, Bool.and_eq_true, beq_iff_eq]

theorem engineMove_sliceStart (hf : s.fsm = .sliceStart) : engineMove s = some s.sliceStart := by
  simp only [engineMove, hf]

/-- The stores that SLICE_START leaves. -/
theorem State.sliceStart_stores (s : State) :
    s.sliceStart.stores = if s.fromPacket then s.clearAround.stores else s.stores := by
  unfold State.sliceStart
  cases s.fromPacket <;> rfl

/-- SLICE_START writes FSM, the registers of the slice and ACMEM. -/
theorem State.sliceStart_frame (s : State) : s.sliceStart = { s with
    fsm := if s.pic.partitionedFrame then .partA else .mb
    slice := { s.slice with
      resyncMbX := s.slice.mbX, resyncMbY := s.slice.mbY, firstSliceLine := true, lastResyncPos := toU 32 s.pos
      mbValid := 0, lastMvFwd := LastMv.zero, lastMvBwd := LastMv.zero }
    stores := { s.stores with
      acLuma := s.sliceStart.stores.acLuma, acCb := s.sliceStart.stores.acCb, acCr := s.sliceStart.stores.acCr } } := by
  unfold State.sliceStart
  cases s.fromPacket <;> rfl

/-- Settles O53: the move of SLICE_START, and the three runs of addresses that it clears after a packet header. -/
theorem sliceStartMarksTheSlice : Obligations.SliceStartMarksTheSlice := by
  unfold Obligations.SliceStartMarksTheSlice
  intro s hf hwf fromPacket x y w cleared
  obtain ⟨_, _, _, hluma, hcb, hcr, _⟩ := Stores.wf_iff.1 hwf
  refine ⟨_, step_of_engineMove (engineMove_sliceStart hf), s.sliceStart_frame, fun h => ?_, fun h a => ?_⟩
  · rw [State.sliceStart_stores, if_neg fun h' => h (State.fromPacket_iff.1 h')]
  · rw [State.sliceStart_stores, if_pos (State.fromPacket_iff.2 h)]
    have hlumaRun : cleared ((2 * y - 1) * (2 * w) + 2 * x - 1) (2 * w + 1) a ↔
        acCleared ((2 * y - 1) * (2 * w) + 2 * x - 1) (2 * s.mbW + 1) a := by
      unfold acCleared
      push_cast
      exact Iff.rfl
    have hchromaRun : cleared ((y - 1) * w + x - 1) (w + 1) a ↔ acCleared ((y - 1) * w + x - 1) (s.mbW + 1) a := by
      unfold acCleared
      push_cast
      exact Iff.rfl
    dsimp only
    rw [hlumaRun, hchromaRun]
    exact ⟨read_clearAc_inside hluma, read_clearAc_outside hluma,
      fun hc => ⟨read_clearAc_inside hcb hc, read_clearAc_inside hcr hc⟩,
      fun hc => ⟨read_clearAc_outside hcb hc, read_clearAc_outside hcr hc⟩⟩

end Sys2Proof.Machine
end

section
/-! VIDEO_PACKET_HEADER (45_resync.md R337, R350): a header that is accepted, field by field, and one that is refused at a
marker or in the recovery search. -/

namespace Sys2Proof.Machine

variable {s u : State} {p n k num : Nat} {tag : Tag}

/-! ## The lead -/

/-- The unary run of the lead: the zeros, and the one that ends them (R337). -/
theorem ReadsAt.packetPrefix (h : ReadsAt s p u) (hl : s.lenFits = true) {fuel : Nat} (hn : n < fuel)
    (hb : s.bitsAre p (n + 1) 1 = true) : packetPrefix fuel k u = .ok (k + n) (u.atBit (p + n + 1)) := by
  induction n generalizing p u k fuel with
  | zero =>
    obtain ⟨f, rfl⟩ : ∃ f, fuel = f + 1 := ⟨fuel - 1, by omega⟩
    rw [Machine.packetPrefix, Parse.bind_ok (h.getFlag_of_bitsAre hl hb)]
    rfl
  | succ n ih =>
    obtain ⟨f, rfl⟩ : ∃ f, fuel = f + 1 := ⟨fuel - 1, by omega⟩
    rw [Nat.add_comm (n + 1) 1] at hb
    obtain ⟨hzero, hrest⟩ := State.bitsAre_split hb
    have hone : 1 < 2 ^ (n + 1) := Nat.one_lt_two_pow (Nat.succ_ne_zero n)
    rw [Nat.div_eq_of_lt hone] at hzero
    rw [Nat.mod_eq_of_lt hone] at hrest
    have hgo := ih (k := k + 1) (h.atBit (p + 1)) (Nat.lt_of_succ_lt_succ hn) hrest
    rw [Machine.packetPrefix, Parse.bind_ok (h.getFlag_of_bitsAre hl hzero)]
    refine hgo.trans ?_
    rw [State.atBit_atBit, show k + 1 + n = k + (n + 1) by omega, show p + 1 + n + 1 = p + (n + 1) + 1 by omega]

theorem State.left_lt_iff : s.left < 20 ↔ s.endPos < s.pos + 20 := by
  unfold State.left
  omega

/-- Fewer than 20 bits are no packet header (R337). -/
theorem packetLead_short (h : s.endPos < s.pos + 20) : packetLead s = .error (invalid .vpSpace) s := by
  rw [packetLead, Parse.getState_bind, if_pos (State.left_lt_iff.2 h)]
  rfl

/-- The zeros of the lead are counted, and their number is the required one or not (R337). -/
theorem packetLead_counts (hl : s.lenFits = true) (hin : s.pos + 20 ≤ s.endPos) (hn : n < 32)
    (hb : s.bitsAre s.pos (n + 1) 1 = true) : packetLead s =
      if n = s.prefixLen then .ok () (s.atBit (s.pos + n + 1))
      else .error (invalid .vpPrefix) (s.atBit (s.pos + n + 1)) := by
  have hrun : packetPrefix 32 0 s = .ok n (s.atBit (s.pos + n + 1)) := by
    rw [(ReadsAt.refl s).packetPrefix hl hn hb, Nat.zero_add]
  rw [packetLead, Parse.getState_bind, if_neg (by rw [State.left_lt_iff]; omega), Parse.bind_ok hrun]
  split <;> rfl

/-- The zeros that a marker needs, under the default patterns (R333). -/
theorem State.prefixLen_default (h : s.cfg.resync = Config.resync) : s.prefixLen = match s.pic.pictType with
    | .i => 16
    | .b => max (max s.pic.fCode.toNat s.pic.bCode.toNat) 2 + 15
    | .p => s.pic.fCode.toNat + 15
    | .s => s.pic.fCode.toNat + 15 := by
  rw [State.prefixLen, h]
  cases s.pic.pictType <;> rfl

/-! ## The number and the quantiser -/

/-- A macroblock number inside the picture and not behind the next macroblock (R337). -/
theorem ReadsAt.packetNumber (h : ReadsAt s p u) (hl : s.lenFits = true) (hin : p + u.mbNumBits ≤ s.endPos)
    (hnum : s.memRead p u.mbNumBits = num) (hpos : 1 ≤ num) (htotal : num < u.mbTotal)
    (hnext : u.slice.nextMbi.toNat ≤ num) : packetNumber u = .ok num (u.atBit (p + u.mbNumBits)) := by
  have hread := h.getBits (e := packetEnd) hl hin
  rw [hnum] at hread
  rw [Machine.packetNumber, Parse.getState_bind, Parse.bind_ok hread, if_neg (by omega), if_neg (by omega)]
  rfl

/-- `s` with the quantisers of a packet that reads `q`: 0 leaves them (R337). -/
def State.withPacketQuant (s : State) (q : Nat) : State :=
  { s with pic := if q = 0 then s.pic else { s.pic with qscale := BitVec.ofNat 9 q, chromaQscale := BitVec.ofNat 9 q } }

/-- The quantiser of a packet (R337). -/
theorem ReadsAt.packetQuant (h : ReadsAt s p u) (hl : s.lenFits = true) (h9 : u.seq.quantPrecision.toNat ≤ 9)
    (hin : p + u.seq.quantPrecision.toNat ≤ s.endPos) : packetQuant u =
      .ok () ((u.atBit (p + u.seq.quantPrecision.toNat)).withPacketQuant (s.memRead p u.seq.quantPrecision.toNat)) := by
  rw [Machine.packetQuant, Parse.getState_bind, Parse.bind_ok (h.getBits hl hin)]
  have hlt : s.memRead p u.seq.quantPrecision.toNat < 2 ^ 9 :=
    lt_of_lt_of_le State.memRead_lt (Nat.pow_le_pow_right (by decide) h9)
  generalize s.memRead p u.seq.quantPrecision.toNat = q at hlt ⊢
  have hreg : toU 9 (q : Int) = BitVec.ofNat 9 q := toU_nat hlt
  obtain rfl | hq := Nat.eq_zero_or_pos q
  · rfl
  · rw [show (q != 0) = true from bne_iff_ne.2 (by omega), whenP_true, update_apply, hreg, State.withPacketQuant,
      if_neg (by omega)]
    rfl

/-! ## The header -/

/-- `s` with the current macroblock at index `num` (20_memory.md R80). -/
def State.atMacroblock (s : State) (num : Nat) : State :=
  { s with slice := { s.slice with
      mbX := BitVec.ofNat 10 (num % s.mbW), mbY := BitVec.ofNat 10 (num / s.mbW) } }

/-- A macroblock of the picture has coordinates that fit their registers (20_memory.md R80). -/
theorem State.updSlice_atMacroblock (h : num < s.mbTotal) : s.updSlice (fun l =>
    { l with mbX := toU 10 (num % s.mbW : Nat), mbY := toU 10 (num / s.mbW : Nat) }) = s.atMacroblock num := by
  have hwidth := s.seq.width.isLt
  have hheight := s.seq.height.isLt
  have hw : 0 < s.mbW := Nat.pos_of_mul_pos_right (Nat.zero_lt_of_lt h)
  have hx : num % s.mbW < 2 ^ 10 := lt_of_lt_of_le (Nat.mod_lt _ hw) (by unfold State.mbW; omega)
  have hy : num / s.mbW < 2 ^ 10 :=
    lt_of_lt_of_le (Nat.div_lt_of_lt_mul h) (by unfold State.mbH; omega)
  simp only [State.updSlice, State.atMacroblock, toU_nat hx, toU_nat hy]

/-- A header without an extension in a rectangular layer: the state after its last bit (R337). -/
theorem packetHeaderP_accepted (hl : s.lenFits = true) (hshape : s.seq.shape = shapeRect)
    (hnewpred : s.seq.newPred = false) (h9 : s.seq.quantPrecision.toNat ≤ 9) {a b c q : Nat}
    (hlead : packetLead s = .ok () (s.atBit a)) (hb : a + s.mbNumBits = b) (hc : b + s.seq.quantPrecision.toNat = c)
    (hnum : s.memRead a s.mbNumBits = num) (hq : s.memRead b s.seq.quantPrecision.toNat = q)
    (hpos : 1 ≤ num) (htotal : num < s.mbTotal) (hnext : s.slice.nextMbi.toNat ≤ num) (hext : s.bitsAre c 1 0 = true) :
    packetHeaderP s = .ok num (((s.atBit (c + 1)).withPacketQuant q).atMacroblock num) := by
  obtain ⟨hin, _⟩ := State.bitsAre_iff.1 hext
  subst b c q
  have hnumber : packetNumber (s.atBit a) = .ok num (s.atBit (a + s.mbNumBits)) :=
    ((ReadsAt.refl s).atBit a).packetNumber hl (show a + s.mbNumBits ≤ _ by omega) hnum hpos htotal hnext
  generalize a + s.mbNumBits = b at *
  generalize hc : b + s.seq.quantPrecision.toNat = c at *
  generalize hq : s.memRead b s.seq.quantPrecision.toNat = q
  have hquant : packetQuant (s.atBit b) = .ok () ((s.atBit c).withPacketQuant q) := by
    rw [← hc, ← hq]
    exact ((ReadsAt.refl s).atBit b).packetQuant hl h9 (show b + s.seq.quantPrecision.toNat ≤ _ by omega)
  have hlate : getFlag packetEnd ((s.atBit c).withPacketQuant q) =
      .ok (0 == 1) ((s.atBit (c + 1)).withPacketQuant q) :=
    (show ReadsAt s c ((s.atBit c).withPacketQuant q) from ⟨rfl, rfl, rfl, rfl⟩).getFlag_of_bitsAre hl hext
  have hrect : ((s.atBit a).seq.shape == shapeRect) = true := beq_iff_eq.2 hshape
  have hrect' : ((s.atBit a).seq.shape != shapeRect) = false := bne_eq_false_iff_eq.2 hshape
  have hcoordinates := State.updSlice_atMacroblock (s := (s.atBit (c + 1)).withPacketQuant q) htotal
  rw [packetHeaderP, Parse.bind_ok hlead, Parse.getState_bind, hrect, hrect', packetExtFlag,
    if_neg Bool.false_ne_true, Parse.pure_bind', Parse.bind_ok hnumber, Parse.bind_ok hquant, packetExtFlag, if_pos rfl,
    Parse.bind_ok hlate, show (false || (0 == 1 : Bool)) = false from rfl, whenP_false, Parse.pure_bind',
    show (s.atBit a).seq.newPred = false from hnewpred, whenP_false, Parse.pure_bind', Parse.update_bind, hcoordinates]
  rfl

/-- An accepted header at its place and in the search (R337, R350). -/
theorem State.runPacket_accepted {t : State} (h : packetHeaderP s = .ok num t) :
    s.runPacket = t.acceptPacket (decide (s.eng.phase = .search)) num := by
  rw [State.runPacket, h]

/-- A header refused at a marker gives its bits back (R337). -/
theorem State.runPacket_refused {t : State} (h : packetHeaderP s = .error (invalid tag) t) (hp : s.eng.phase ≠ .search) :
    s.runPacket = (t.takeRaise .packet (invalid tag)).setPos s.pos := by
  rw [State.runPacket, h]
  exact if_neg fun hc => hp (of_decide_eq_true hc.1)

/-- A header refused in the search is caught, and the search goes on a byte later (R350; log 17). -/
theorem State.runPacket_caught {t : State} (h : packetHeaderP s = .error (invalid tag) t) (hp : s.eng.phase = .search) :
    s.runPacket = t.setPos (s.pos + 8) := by
  rw [State.runPacket, h]
  exact if_pos ⟨decide_eq_true hp, rfl⟩

/-- Accepting a header (R350): the macroblocks passed over count in the search alone. -/
theorem State.acceptPacket_eq {c : Prop} [Decidable c] {passed : Nat}
    (hp : passed = if c then num - s.slice.nextMbi.toNat else 0)
    (hfits : s.slice.mbErr.toNat + passed < 1048576) : s.acceptPacket (decide c) num = { s with
      fsm := .sliceStart
      status := { s.status with result := .ok }
      slice := { s.slice with mbErr := BitVec.ofNat 20 (s.slice.mbErr.toNat + passed) }
      eng := { s.eng with phase := .peek } } := by
  by_cases hc : c
  · rw [if_pos hc] at hp
    have hreg : toU 20 ((s.slice.mbErr.toNat + passed : Nat) : Int) = _ := toU_nat hfits
    rw [decide_eq_true hc, ← hreg, hp, State.acceptPacket, if_pos rfl]
    dsimp only [State.updSlice, State.post, State.updStatus, State.setFsm, State.updEng]
  · rw [if_neg hc] at hp
    rw [decide_eq_false hc, hp, Nat.add_zero, BitVec.ofNat_toNat, BitVec.setWidth_eq, State.acceptPacket,
      if_neg Bool.false_ne_true]
    dsimp only [State.post, State.updStatus, State.setFsm, State.updEng]

/-- Settles O48: the header's fields one after the other, then the acceptance. -/
theorem packetHeaderAccepted : Obligations.PacketHeaderAccepted := by
  unfold Obligations.PacketHeaderAccepted
  intro s hl hres hshape hnewpred hpic h9 p b n num q passed hlead hext hin hpos htotal hnext hfits
  have hprefix : s.prefixLen = 16 := by rw [State.prefixLen_default hres, hpic]
  have hstart : packetLead s = .ok () (s.atBit (p + 17)) := by
    rw [packetLead_counts hl hin (n := 16) (by decide) hlead, if_pos hprefix.symm]
  have hparse : packetHeaderP s = .ok num (((s.atBit (p + 17 + b + n + 1)).withPacketQuant q).atMacroblock num) :=
    packetHeaderP_accepted hl hshape hnewpred h9 hstart rfl rfl rfl rfl hpos htotal hnext hext
  have hend : p + 17 + b + n + 1 = p + 18 + b + n := by omega
  rw [hend] at hparse
  exact congrArg Host.Outcome.next
    ((State.runPacket_accepted hparse).trans (State.acceptPacket_eq (passed := passed) rfl hfits))

/-! ## Refused headers -/

/-- What the recoverable failure of a packet header at its place leaves: the recovery next, and no macroblock lost
(60_exceptions.md R371, R373). -/
theorem State.takeRaise_packet (u : State) (tag : Tag) : u.takeRaise .packet (invalid tag) = { u with
    fsm := .resyncCheck
    status := { u.status with result := .invalidData, tag := tag, errpos := toU 32 u.bitpos }
    eng := { u.eng with phase := .recover } } := by
  have htake : u.takeRaise .packet (invalid tag) = { u with
      fsm := .resyncCheck
      status := { u.status with result := .invalidData, tag := tag, errpos := toU 32 u.bitpos }
      slice := { u.slice with
        mbErr := toU 20 (u.slice.mbErr.toNat : Int), nextMbi := toU 20 (u.slice.nextMbi.toNat : Int) }
      eng := { u.eng with phase := .recover, failed := u.eng.failed ++ [] } } := rfl
  rw [htake, toU_toNat, toU_toNat, List.append_nil]

/-- A header that is refused before its number leaves the cursor alone written (R337). -/
theorem packetHeaderP_refused (hl : s.lenFits = true) (h : s.endPos < s.pos + 20 ∨ s.pos + 20 ≤ s.endPos ∧ n < 32
      ∧ n ≠ s.prefixLen ∧ s.bitsAre s.pos (n + 1) 1 = true) :
    ∃ q, packetHeaderP s = .error (invalid (if s.endPos < s.pos + 20 then .vpSpace else .vpPrefix)) (s.atBit q) := by
  obtain h | ⟨hin, hn, hne, hb⟩ := h
  · rw [if_pos h]
    exact ⟨s.pos, Parse.bind_error (packetLead_short h)⟩
  · rw [if_neg (by omega)]
    exact ⟨_, Parse.bind_error ((packetLead_counts hl hin hn hb).trans (if_neg hne))⟩

/-- Settles O49: the lead refuses with only the cursor moved; the marker's place takes the raise and gives the bits back,
the search catches it. -/
theorem packetHeaderRefused : Obligations.PacketHeaderRefused := by
  unfold Obligations.PacketHeaderRefused
  intro s zeros hl hres hbyte want short wrong
  have hwant : s.prefixLen = want := State.prefixLen_default hres
  have refused (h : short ∨ wrong) := packetHeaderP_refused (n := zeros) hl (hwant ▸ h)
  refine ⟨fun hphase h => ?_, fun hphase h => ?_⟩
  · obtain ⟨q, hq⟩ := refused h
    have hback : (s.setPos s.pos).bitpos = s.bitpos := State.pos_setPos (State.lt_cursor hl (by omega))
    refine ⟨_, congrArg Host.Outcome.next (State.runPacket_refused hq hphase), ?_⟩
    rw [State.takeRaise_packet]
    exact ⟨hback, rfl, rfl, rfl, rfl, rfl, rfl, rfl, rfl, rfl⟩
  · obtain ⟨q, hq⟩ := refused h
    exact congrArg Host.Outcome.next
      ((State.runPacket_caught hq hphase).trans (((ReadsAt.refl s).atBit q).setPos hl hbyte))

end Sys2Proof.Machine
end

section
/-! The second pass over a slice of one record (45_resync.md R346, R347): what its steps write, the record they complete,
and the return to the slice start. -/

namespace Sys2Proof.Machine

variable {s : State} {p q y : Nat} {x : Stores} {f g : PartRec → PartRec}

/-! ## The first record of PARTMEM -/

/-- The stores with the first record rewritten by `f`. -/
def Stores.putRecord (x : Stores) (f : PartRec → PartRec) : Stores :=
  { x with partmem := Cells.write PartRec.zero 0 (f (Cells.read PartRec.zero x.partmem 0)) x.partmem }

theorem Stores.wf_putRecord (h : Cells.wf PartRec.zero x.partmem = true) :
    Cells.wf PartRec.zero (x.putRecord f).partmem = true := Cells.wf_write h

theorem Stores.read_putRecord (h : Cells.wf PartRec.zero x.partmem = true) :
    Cells.read PartRec.zero (x.putRecord f).partmem 0 = f (Cells.read PartRec.zero x.partmem 0) :=
  Cells.read_write_same h

theorem Stores.read_putRecord_other (h : Cells.wf PartRec.zero x.partmem = true) {j : Nat} (hj : j ≠ 0) :
    Cells.read PartRec.zero (x.putRecord f).partmem j = Cells.read PartRec.zero x.partmem j :=
  Cells.read_write_other h hj

theorem Stores.read_putRecord_twice (h : Cells.wf PartRec.zero x.partmem = true) :
    Cells.read PartRec.zero ((x.putRecord f).putRecord g).partmem 0 = g (f (Cells.read PartRec.zero x.partmem 0)) := by
  rw [Stores.read_putRecord (Stores.wf_putRecord h), Stores.read_putRecord h]

theorem Stores.read_putRecord_twice_other (h : Cells.wf PartRec.zero x.partmem = true) {j : Nat} (hj : j ≠ 0) :
    Cells.read PartRec.zero ((x.putRecord f).putRecord g).partmem j = Cells.read PartRec.zero x.partmem j := by
  rw [Stores.read_putRecord_other (Stores.wf_putRecord h) hj, Stores.read_putRecord_other h hj]

/-! ## A state inside the pass -/

/-- `s` inside the second pass, at the first macroblock of its slice: the cursor at bit `p`, the stores `x`. -/
def State.inSecondPass (s : State) (p : Nat) (x : Stores) : State :=
  { s with bitpos := p, slice := s.toSliceStart.slice, stores := x }

theorem State.toSliceStart_inSecondPass (s : State) : s.toSliceStart = s.inSecondPass s.pos s.stores := rfl

theorem ReadsAt.inSecondPass (s : State) (p : Nat) (x : Stores) : ReadsAt s p (s.inSecondPass p x) := ⟨rfl, rfl, rfl, rfl⟩

theorem State.inSecondPass_partIndex (s : State) (p : Nat) (x : Stores) : (s.inSecondPass p x).partIndex = 0 :=
  Nat.sub_self s.resyncMbi

theorem State.inSecondPass_partHere (s : State) (p : Nat) (x : Stores) :
    (s.inSecondPass p x).partHere = Cells.read PartRec.zero x.partmem 0 :=
  congrArg (s.inSecondPass p x).partAt (s.inSecondPass_partIndex p x)

/-- The record of the first macroblock is the first of PARTMEM. -/
theorem State.inSecondPass_updPart (s : State) (p : Nat) (x : Stores) (f : PartRec → PartRec) :
    (s.inSecondPass p x).updPart f = s.inSecondPass p (x.putRecord f) := by
  rw [State.updPart, State.inSecondPass_partIndex, State.inSecondPass_partHere]
  rfl

/-- The quantiser goes into the record and into QMEM (R347). -/
theorem State.inSecondPass_recordQuant (s : State) (p : Nat) (x : Stores) : (s.inSecondPass p x).recordQuant =
    s.inSecondPass p (Stores.putRecord { x with qmem := Cells.write 0 s.resyncMbi s.pic.qscale x.qmem }
      fun r => { r with qscale := s.pic.qscale }) := by
  rw [State.recordQuant, State.inSecondPass_updPart]
  rfl

/-! ## The pass as a whole -/

/-- `s` after the second pass, with the cursor at bit `p` and the stores `x`. -/
def State.afterSecondPass (s : State) (p : Nat) (x : Stores) : State :=
  { s.inSecondPass p x with fsm := .mb, status := { s.status with result := .ok } }

/-- PARTITION_B over one record: the walk goes on by one macroblock and comes back to the slice start. -/
theorem partitionB_one {step : Parse Unit} (hleft : s.slice.mbNumLeft = 1)
    (hstep : step s.toSliceStart = .ok () (s.inSecondPass p x)) :
    partitionB step s = .ok () (s.afterSecondPass p x) := by
  have hloop : partBLoop step s.toSliceStart.slice.mbNumLeft.toNat s.toSliceStart =
      .ok () (s.inSecondPass p x).nextInSlice := by
    rw [show s.toSliceStart.slice.mbNumLeft = 1 from hleft, show (1 : BitVec 20).toNat = 0 + 1 from rfl, partBLoop,
      Parse.bind_ok hstep]
    rfl
  rw [partitionB, Parse.update_bind, Parse.getState_bind, Parse.bind_ok hloop]
  rfl

/-! ## The steps -/

/-- The AC-prediction flag and the pattern of an intra record (R346). -/
theorem partBStepI_reads (hl : s.lenFits = true) (hin : s.pos + 1 ≤ s.endPos)
    (hn : s.readsNumbers [(.cbpy, y)] (s.pos + 1) = some q) : partBStepI s.toSliceStart = .ok () (s.inSecondPass q
      ((s.stores.putRecord fun r => { r with acPred := s.bitAt s.pos == 1 }).putRecord
        fun r => { r with cbp := BitVec.ofNat 6 (4 * y + r.cbpc.toNat) })) := by
  have hflag : getFlag partBEnd s.toSliceStart =
      .ok (s.bitAt s.pos == 1) (s.inSecondPass (s.pos + 1) s.stores) :=
    (ReadsAt.inSecondPass s s.pos s.stores).getFlag hl hin
  have hac : partAcPred s.toSliceStart = .ok () (s.inSecondPass (s.pos + 1)
      (s.stores.putRecord fun r => { r with acPred := s.bitAt s.pos == 1 })) := by
    rw [partAcPred, Parse.bind_ok hflag, putPart, update_apply, State.inSecondPass_updPart]
  have hcbp (r : PartRec) : toU 6 ((4 * y + r.cbpc.toNat : Nat) : Int) = BitVec.ofNat 6 (4 * y + r.cbpc.toNat) := by
    have hy : y ≤ 15 := State.readsNumber_le_greatest hn
    have hc := r.cbpc.isLt
    exact toU_nat (by omega)
  have hpattern : partCbpy (s.inSecondPass (s.pos + 1) (s.stores.putRecord fun r => { r with acPred := s.bitAt s.pos == 1 })) =
      .ok y (s.inSecondPass q (s.stores.putRecord fun r => { r with acPred := s.bitAt s.pos == 1 })) :=
    (ReadsAt.inSecondPass s _ _).vlcNumber hl hin hn
  rw [partBStepI, Parse.bind_ok hac, Parse.bind_ok hpattern, update_apply, State.partCbp, State.inSecondPass_updPart]
  simp only [hcbp]

/-- A skipped record of a P or S partition (R347). -/
theorem partBStepP_skipped (hintra : (s.partAt 0).intra = false) (hskip : (s.partAt 0).skipped = true) :
    partBStepP s.toSliceStart = .ok () (s.inSecondPass s.pos ((Stores.putRecord
      { s.stores with qmem := Cells.write 0 s.resyncMbi s.pic.qscale s.stores.qmem }
      fun r => { r with qscale := s.pic.qscale }).putRecord fun r => { r with cbp := 0 })) := by
  have hhere : s.toSliceStart.partHere = s.partAt 0 := s.inSecondPass_partHere s.pos s.stores
  rw [partBStepP, Parse.getState_bind, hhere, hintra, hskip, if_neg Bool.false_ne_true, if_pos rfl, update_apply,
    State.toSliceStart_inSecondPass, State.inSecondPass_recordQuant, State.inSecondPass_updPart]

/-- Settles O51: the one step of each pass completes the record, and the pass comes back to the slice start. -/
theorem secondPassCompletesRecords : Obligations.SecondPassCompletesRecords := by
  unfold Obligations.SecondPassCompletesRecords
  intro s hl hfit hleft rec0 ended
  have hpart (hwf : s.stores.wf = true) : Cells.wf PartRec.zero s.stores.partmem = true := by
    obtain ⟨_, _, _, _, _, _, _, _, _, part⟩ := Stores.wf_iff.1 hwf
    exact part
  refine ⟨fun y p hin hn => ?_, fun hintra hskip hwf => ?_⟩
  · intro a b hwf
    have hrun := partitionB_one hleft (partBStepI_reads hl hin hn)
    exact ⟨_, (inStores_fits hfit).trans (congrArg _ (runAt_ok hrun)), Stores.read_putRecord_twice (hpart hwf), rfl,
      fun j hj => Stores.read_putRecord_twice_other (hpart hwf) hj⟩
  · let x : Stores := { s.stores with qmem := Cells.write 0 s.resyncMbi s.pic.qscale s.stores.qmem }
    have hx : Cells.wf PartRec.zero x.partmem = true := hpart hwf
    have hrun := partitionB_one hleft (partBStepP_skipped hintra hskip)
    exact ⟨_, (inStores_fits hfit).trans (congrArg _ (runAt_ok hrun)), Stores.read_putRecord_twice hx, rfl,
      fun j hj => Stores.read_putRecord_twice_other hx hj⟩

end Sys2Proof.Machine
end

section
/-! MB_PARTITIONED of a skipped record (45_resync.md R348, R349; 43_macroblock.md R252, R262, R263): the working record it
loads, and what the end of the macroblock leaves of the state. -/

namespace Sys2Proof.Machine

variable {s u : State}

/-! ## The end of a macroblock, as a state -/

/-- `u` is `s` with MVMEM replaced. -/
def State.SameButMvmem (s u : State) : Prop := ∃ c, u = s.withMvmem c

theorem State.SameButMvmem.refl (s : State) : s.SameButMvmem s := ⟨s.stores.mvmem, rfl⟩

theorem State.SameButMvmem.writeMv (h : s.SameButMvmem u) (n : Fin 4) (v : Mv) : s.SameButMvmem (u.writeMv n v) := by
  obtain ⟨c, rfl⟩ := h
  exact ⟨Cells.write (Vec.zero 16) (s.blockPos (lumaBlock n)) v c, rfl⟩

/-- The motion store write is a write of MVMEM alone (R262). -/
theorem State.sameButMvmem_storeMotion (s : State) : s.SameButMvmem s.storeMotion := by
  have h := State.SameButMvmem.refl s
  unfold State.storeMotion
  split
  · exact h
  · split
    · exact ⟨_, s.writeMvAll_eq _⟩
    · split
      · exact ⟨_, s.writeMvAll_eq _⟩
      · exact h
      · exact (((h.writeMv 0 _).writeMv 1 _).writeMv 2 _).writeMv 3 _

/-- What the epilogue leaves of the registers that the end of a macroblock hands on (R263). -/
structure State.Epilogued (s v : State) : Prop where
  pos : v.bitpos = s.bitpos
  mb : v.mb = s.mb
  pic : v.pic = s.pic
  port : v.port = s.port
  status : v.status = s.status
  slice : v.slice = { s.slice with
    mbValid := BitVec.ofNat 20 (s.slice.mbValid.toNat + 1), nextMbi := BitVec.ofNat 20 (s.mbi + 1) }

theorem State.epilogued (hv : s.slice.mbValid.toNat + 1 < 1048576) (hi : s.mbi + 1 < 1048576) :
    s.Epilogued s.epilogue := by
  obtain ⟨c, hc⟩ := (s.writeQ s.mb.qscale).sameButMvmem_storeMotion
  have hvalid : toU 20 ((s.slice.mbValid.toNat + 1 : Nat) : Int) = BitVec.ofNat 20 (s.slice.mbValid.toNat + 1) := toU_nat hv
  have hnext : toU 20 ((s.mbi + 1 : Nat) : Int) = BitVec.ofNat 20 (s.mbi + 1) := toU_nat hi
  rw [State.epilogue, hc]
  dsimp only [State.noteDone, State.writeMbType, State.withMvmem, State.writeQ, State.updStores, State.updEng,
    State.updSlice]
  exact ⟨rfl, rfl, rfl, rfl, rfl, by rw [hvalid, hnext]⟩

/-- The advance writes ROWPROG[self], the coordinates and the mark of the first line (R263). -/
theorem State.advance_writes (s : State) : ∃ row x y, ∃ first : Slice → Bool, s.advance =
    (s.publishRow row).updSlice fun l => { l with mbX := x, mbY := y, firstSliceLine := first l } := by
  unfold State.advance
  dsimp only
  split
  · exact ⟨_, _, _, _, rfl⟩
  · exact ⟨s.stores.rowprog, _, _, _, rfl⟩

/-- What the end of a macroblock with the answer `r` leaves of `u`: its record, its counts, and the answer. -/
structure State.EndsAs (u : State) (r : Boundary) (t : State) : Prop where
  pos : t.bitpos = u.bitpos
  fsm : t.fsm = .resyncCheck
  mb : t.mb = u.mb
  pic : t.pic = u.pic
  left : t.slice.mbNumLeft = u.slice.mbNumLeft
  next : t.slice.nextMbi = BitVec.ofNat 20 (u.mbi + 1)
  valid : t.slice.mbValid = BitVec.ofNat 20 (u.slice.mbValid.toNat + 1)
  port : t.port = u.port ++ [.decoded u.slice.mbX u.slice.mbY u.mb]
  status : t.status = { u.status with result := boundaryResult r }
  phase : t.eng.phase = .decide r
  picture : sameButPicture u t
  slots : ownSlotsOnly u t

/-- The words of the macroblocks do not change with ROWPROG[self]. -/
theorem ownSlotsOnly.ofRow {v t : State} {n : Nat} (h : ownSlotsOnly s v)
    (e : t.stores = { v.stores with rowprog := n }) : ownSlotsOnly s t := by
  unfold ownSlotsOnly at *
  rw [e]
  exact h

/-- The end of a macroblock whose peek has answered (R263, R348). -/
theorem State.endsAs_answered (hwf : u.stores.wf = true) (hv : u.slice.mbValid.toNat + 1 < 1048576)
    (hi : u.mbi + 1 < 1048576) (r : Boundary) : u.EndsAs r (u.epilogue.emitMb.advance.answer r) := by
  have hown : OwnFrame u u.epilogue := (OwnFrame.macroblockBlind u).epilogue (OwnFrame.refl hwf)
  obtain ⟨hpos, hmb, hpic, hport, hstatus, hslice⟩ := State.epilogued hv hi
  obtain ⟨row, x, y, first, ha⟩ := u.epilogue.emitMb.advance_writes
  rw [ha]
  generalize u.epilogue = v at *
  exact
    { pos := by simp [State.answer, State.emitMb, hpos]
      fsm := rfl
      mb := by simp [State.answer, State.emitMb, hmb]
      pic := by simp [State.answer, State.emitMb, hpic]
      left := by simp [State.answer, State.emitMb, hslice]
      next := by simp [State.answer, State.emitMb, hslice]
      valid := by simp [State.answer, State.emitMb, hslice]
      port := by simp [State.answer, State.emitMb, State.emit, hport, hmb, hslice]
      status := by simp [State.answer, State.emitMb, State.post, hstatus]
      phase := rfl
      picture := by simpa [sameButPicture, State.answer, State.emitMb] using hown.picture
      slots := hown.slots.ofRow (n := row) (by simp [State.answer, State.emitMb, State.publishRow]) }

/-! ## The replay of a skipped record -/

/-- MB of a skipped macroblock from its record (R348). -/
def State.replayedMb (s : State) : Mb :=
  let r := s.partHere
  { Mb.reset with
    qscale := r.qscale, intra := r.intra, skipped := !s.isGmc, mcsel := s.isGmc, mvType := r.mvType
    acPred := r.acPred, cbp := r.cbp, mvDir := dirForward
    mvFwd := ⟨s.mvOfBlock 0, s.mvOfBlock 1, s.mvOfBlock 2, s.mvOfBlock 3⟩, lastIndex := Six.all (-1) }

/-- The state in which the macroblock of a skipped record ends: the record loaded, one macroblock fewer left (R348). -/
def State.replaySkipped (s : State) : State :=
  { s with
    pic := { s.pic with qscale := s.partHere.qscale }
    slice := { s.slice with mbNumLeft := BitVec.ofNat 20 (s.slice.mbNumLeft.toNat - 1) }
    mb := s.replayedMb
    eng := { s.eng with useIntraDcVlc := decide (s.pic.qscale.toNat < s.pic.intraDcThreshold.toNat) } }

/-- The loaded record of a skipped macroblock, counted off (R348). -/
theorem State.loadPart_skipped (s : State) : (s.startMb.loadPart.partSkipped.updSlice fun l =>
    { l with mbNumLeft := toU 20 (l.mbNumLeft.toNat - 1 : Nat) }) = s.replaySkipped := by
  have hleft : toU 20 ((s.slice.mbNumLeft.toNat - 1 : Nat) : Int) = BitVec.ofNat 20 (s.slice.mbNumLeft.toNat - 1) :=
    toU_nat (by have := s.slice.mbNumLeft.isLt; omega)
  unfold State.replaySkipped State.replayedMb
  dsimp only [State.startMb, State.loadPart, State.setDcSwitch, State.partSkipped, State.updMb, State.updPic,
    State.updEng, State.updSlice]
  rw [hleft]
  rfl

/-- MB_PARTITIONED of a skipped record where no padding is looked for (R348). -/
theorem mbPartitionedP_skipped (hskip : s.partHere.skipped = true) (hpad : ¬s.padded) : mbPartitionedP s =
    .ok () (s.replaySkipped.epilogue.emitMb.advance.answer (s.replaySkipped.partResult .ok)) := by
  have htexture : partTexture s.startMb.loadPart = .ok () s.startMb.loadPart.partSkipped := by
    rw [partTexture, Parse.getState_bind, show s.startMb.loadPart.partHere = s.partHere from rfl, hskip, if_pos rfl]
    rfl
  have hpeek : resyncPeekP s.replaySkipped = .ok .ok s.replaySkipped := resyncPeekP_unpadded hpad
  rw [mbPartitionedP, Parse.update_bind, Parse.update_bind, Parse.bind_ok htexture, Parse.update_bind,
    State.loadPart_skipped, Parse.bind_ok hpeek]
  rfl

/-- Without a marker the last record of a slice ends it without an end (R348). -/
theorem State.replaySkipped_partResult (h : 1 ≤ s.slice.mbNumLeft.toNat) :
    s.replaySkipped.partResult .ok = if s.slice.mbNumLeft = 1 then .sliceNoend else .ok := by
  have hlast : s.replaySkipped.slice.mbNumLeft = 0 ↔ s.slice.mbNumLeft = 1 := by
    show BitVec.ofNat 20 (s.slice.mbNumLeft.toNat - 1) = 0 ↔ _
    bv_omega
  unfold State.partResult
  simp only [hlast, reduceCtorEq, false_and, if_false]

/-- Settles O52: the record is loaded, its answer needs no bit, and the end of the macroblock is the one of every
macroblock. -/
theorem skippedRecordIsReplayed : Obligations.SkippedRecordIsReplayed := by
  unfold Obligations.SkippedRecordIsReplayed
  intro s hfit hwf hpic hquirk hmarker hskip hintra hleft hv hi
  have hpad : ¬s.padded := by
    unfold State.padded
    rw [hquirk, hmarker]
    decide
  have hgmc : s.isGmc = false := by
    rw [Bool.eq_false_iff, Ne, State.isGmc_iff]
    rintro ⟨hs, _⟩
    rw [hs] at hpic
    obtain h | h := hpic <;> cases h
  have hrun := mbPartitionedP_skipped hskip hpad
  rw [State.replaySkipped_partResult hleft] at hrun
  have h := State.endsAs_answered (u := s.replaySkipped) hwf hv hi (if s.slice.mbNumLeft = 1 then .sliceNoend else .ok)
  refine ⟨_, (inStores_fits hfit).trans (congrArg _ (runAt_ok hrun)), ?_⟩
  generalize s.replaySkipped.epilogue.emitMb.advance.answer _ = t at h ⊢
  refine ⟨h.pos, h.fsm, (congrArg Mb.skipped h.mb).trans (congrArg not hgmc), (congrArg Mb.mcsel h.mb).trans hgmc,
    congrArg Mb.lastIndex h.mb, congrArg Mb.qscale h.mb, congrArg Mb.mvFwd h.mb, h.pic, h.left, h.next, h.valid, ?_, ?_,
    h.phase, h.picture, h.slots⟩
  · rw [h.port, h.mb]
    rfl
  · rw [h.status]
    split <;> rfl

end Sys2Proof.Machine
end

section
/-! Taking a raise (60_exceptions.md R371, R374, R377, R386): what it does in each class of its code, the frame that all
classes share, and the count of the lost macroblocks (45_resync.md R350). -/

namespace Sys2Proof.Machine

variable {s t u : State} {r : Raise} {site : Site} {tag : Tag}

/-! ## One equation per class -/

theorem State.takeRaise_invalid (h : r.code = .invalidData) :
    s.takeRaise site r = (s.recordRaise r).takeInvalid r.tag site := by
  rw [State.takeRaise, h]

theorem State.takeRaise_fatal (h : r.code.isFatal = true) :
    s.takeRaise site r = (s.recordRaise r).failFatally site r.tag := by
  obtain ⟨c, tg⟩ := r
  cases c
  case refusedStudio | fatalTruncated | fatalExhausted | fatalRange | fatalGmc | fatalNoVol | fatalNoResync => rfl
  all_goals cases h

theorem State.takeRaise_terminal
    (h : r.code ∈ [.ok, .okAtVop, .okWithErrors, .endOfData, .frameSkipped, .badCommand]) :
    s.takeRaise site r = (s.recordRaise r).setFsm .done := by
  obtain ⟨c, tg⟩ := r
  cases c
  case ok | okAtVop | okWithErrors | endOfData | frameSkipped | badCommand => rfl
  all_goals simp at h

theorem State.takeRaise_soft (h : r.code ∈ [.sliceEnd, .sliceNoend]) :
    s.takeRaise site r = (s.recordRaise r).setFsm .resyncCheck := by
  obtain ⟨c, tg⟩ := r
  cases c
  case sliceEnd | sliceNoend => rfl
  all_goals simp at h

/-- Taking a raise is the effect of an INVALID_DATA, the fatal end, or a mere move of FSM. -/
theorem State.takeRaise_cases (s : State) (site : Site) (r : Raise) :
    r.code = .invalidData ∧ s.takeRaise site r = (s.recordRaise r).takeInvalid r.tag site
      ∨ r.code.isFatal = true ∧ s.takeRaise site r = (s.recordRaise r).failFatally site r.tag
      ∨ ∃ f, s.takeRaise site r = (s.recordRaise r).setFsm f := by
  by_cases hi : r.code = .invalidData
  · exact .inl ⟨hi, State.takeRaise_invalid hi⟩
  · by_cases hf : r.code.isFatal = true
    · exact .inr (.inl ⟨hf, State.takeRaise_fatal hf⟩)
    · refine .inr (.inr ?_)
      obtain ⟨c, tg⟩ := r
      cases c
      case invalidData => cases hi rfl
      case refusedStudio | fatalTruncated | fatalExhausted | fatalRange | fatalGmc | fatalNoVol | fatalNoResync =>
        cases hf rfl
      all_goals exact ⟨_, rfl⟩

/-! ## The frame of every class -/

/-- `t` is `u` but for what the class of a raise may write: FSM, SLICE, the port, the engine, STATUS.PIC_VALID and the
row counter. -/
def ClassEffect (u t : State) : Prop :=
  t = { u with
    fsm := t.fsm, slice := t.slice, port := t.port, eng := t.eng
    status := { u.status with picValid := t.status.picValid }
    stores := { u.stores with rowprog := t.stores.rowprog } }

theorem classEffect_setFsm (u : State) (f : Fsm) : ClassEffect u (u.setFsm f) := rfl

theorem classEffect_failFatally (u : State) (site : Site) (tag : Tag) : ClassEffect u (u.failFatally site tag) := by
  unfold State.failFatally
  split
  · rfl
  · rfl

theorem classEffect_failRecoverably (u : State) (site : Site) (tag : Tag) :
    ClassEffect u (u.failRecoverably site tag) := by
  unfold State.failRecoverably
  dsimp only
  split
  · rfl
  · rfl

theorem classEffect_takeInvalid (u : State) (tag : Tag) (site : Site) : ClassEffect u (u.takeInvalid tag site) := by
  cases site with
  | headerRun => exact classEffect_setFsm _ _
  | vopHeader => exact classEffect_failFatally _ _ _
  | command => exact classEffect_setFsm _ _
  | macroblock | partA | partB | packet | resync => exact classEffect_failRecoverably _ _ _

theorem classEffect_takeRaise (s : State) (site : Site) (r : Raise) :
    ClassEffect (s.recordRaise r) (s.takeRaise site r) := by
  obtain ⟨_, h⟩ | ⟨_, h⟩ | ⟨f, h⟩ := s.takeRaise_cases site r <;> rw [h]
  · exact classEffect_takeInvalid _ _ _
  · exact classEffect_failFatally _ _ _
  · exact classEffect_setFsm _ _

/-! ## What the fatal end and the recoverable failure write -/

@[simp] theorem State.failFatally_fsm (u : State) (site : Site) (tag : Tag) :
    (u.failFatally site tag).fsm = .error := rfl

@[simp] theorem State.failFatally_picValid (u : State) (site : Site) (tag : Tag) :
    (u.failFatally site tag).status.picValid = false := rfl

/-- Inside a picture the fatal end publishes every row (R386; 20_memory.md R95). -/
theorem State.failFatally_rowprog (h : site.inPicture = true) : (u.failFatally site tag).stores.rowprog = u.mbH := by
  rw [State.failFatally, if_pos h]
  rfl

@[simp] theorem State.failRecoverably_phase (u : State) (site : Site) (tag : Tag) :
    (u.failRecoverably site tag).eng.phase = .recover := rfl

@[simp] theorem State.failRecoverably_status (u : State) (site : Site) (tag : Tag) :
    (u.failRecoverably site tag).status = u.status := by
  unfold State.failRecoverably
  dsimp only
  split
  · rfl
  · rfl

@[simp] theorem State.failRecoverably_stores (u : State) (site : Site) (tag : Tag) :
    (u.failRecoverably site tag).stores = u.stores := by
  unfold State.failRecoverably
  dsimp only
  split
  · rfl
  · rfl

/-- A macroblock that fails where SLICE.mb_err and SLICE.next_mbi can hold their values: its error record, the count of
the lost ones, and the macroblock after it (R350). -/
theorem State.failRecoverably_macroblock
    (herr : u.slice.mbErr.toNat + u.notConsumed tag .macroblock < 1048576) (hnext : u.mbi + 1 < 1048576) :
    (u.failRecoverably .macroblock tag).port = u.port ++ [.failed u.slice.mbX u.slice.mbY]
      ∧ (u.failRecoverably .macroblock tag).slice = { u.slice with
          mbErr := BitVec.ofNat 20 (u.slice.mbErr.toNat + u.notConsumed tag .macroblock)
          nextMbi := BitVec.ofNat 20 (u.mbi + 1) } := by
  rw [← toU_nat (w := 20) herr, ← toU_nat (w := 20) hnext]
  exact ⟨rfl, rfl⟩

/-- In a plain slice a failed macroblock loses itself alone; in a partitioned one it loses the records not replayed and
good (R350; log 18). -/
theorem State.notConsumed_macroblock (s : State) (tag : Tag) : s.notConsumed tag .macroblock =
    if s.pic.partitionedFrame = false then 1
    else if tag = .resyncMbnum then s.slice.mbNumLeft.toNat + 1 else max 1 s.slice.mbNumLeft.toNat := by
  rw [State.notConsumed, State.recordsLeft]
  cases s.pic.partitionedFrame
  · rfl
  · rfl

/-! ## What an INVALID_DATA does -/

/-- An INVALID_DATA in a macroblock, a partition or a packet header goes to the recovery (R371). -/
theorem State.takeInvalid_recovers (h : site ∈ [.macroblock, .partA, .partB, .packet]) :
    (u.takeInvalid tag site).fsm = .resyncCheck ∧ (u.takeInvalid tag site).eng.phase = .recover := by
  cases site with
  | macroblock | partA | partB | packet => exact ⟨rfl, rfl⟩
  | headerRun | vopHeader | resync | command => simp at h

/-- Outside the VOP header an INVALID_DATA leaves STATUS and the stores as they are. -/
theorem State.takeInvalid_keeps (h : site ≠ .vopHeader) :
    (u.takeInvalid tag site).status = u.status ∧ (u.takeInvalid tag site).stores = u.stores := by
  cases site with
  | vopHeader => exact absurd rfl h
  | headerRun | command => exact ⟨rfl, rfl⟩
  | macroblock | partA | partB | packet | resync =>
    exact ⟨State.failRecoverably_status _ _ _, State.failRecoverably_stores _ _ _⟩

/-- A raise that is neither fatal nor an INVALID_DATA of the VOP header leaves STATUS.PIC_VALID and the stores. -/
theorem State.takeRaise_keeps (hf : r.code.isFatal = false) (hv : ¬(r.code = .invalidData ∧ site = .vopHeader)) :
    (s.takeRaise site r).status.picValid = s.status.picValid ∧ (s.takeRaise site r).stores = s.stores := by
  obtain ⟨hi, h⟩ | ⟨hfatal, _⟩ | ⟨f, h⟩ := s.takeRaise_cases site r
  · obtain ⟨hstatus, hstores⟩ :=
      State.takeInvalid_keeps (u := s.recordRaise r) (tag := r.tag) fun hs => hv ⟨hi, hs⟩
    rw [h]
    exact ⟨congrArg (·.picValid) hstatus, hstores⟩
  · cases hf.symm.trans hfatal
  · rw [h]
    exact ⟨rfl, rfl⟩

/-- An INVALID_DATA in a macroblock: its port record and its count, where the registers can hold them (R350). -/
theorem State.takeRaise_macroblock_loses (h : r.code = .invalidData)
    (herr : s.slice.mbErr.toNat + s.notConsumed r.tag .macroblock < 1048576) (hnext : s.mbi + 1 < 1048576) :
    (s.takeRaise .macroblock r).port = s.port ++ [.failed s.slice.mbX s.slice.mbY]
      ∧ (s.takeRaise .macroblock r).slice = { s.slice with
          mbErr := BitVec.ofNat 20 (s.slice.mbErr.toNat + s.notConsumed r.tag .macroblock)
          nextMbi := BitVec.ofNat 20 (s.mbi + 1) } := by
  rw [State.takeRaise_invalid h]
  exact State.failRecoverably_macroblock (u := s.recordRaise r) herr hnext

/-- Settles O55: the frame is the one all classes share, and each class is the equation of its code. -/
theorem raiseRecordsAndClassifies : Obligations.RaiseRecordsAndClassifies := by
  unfold Obligations.RaiseRecordsAndClassifies
  intro s site r t
  have hframe : ClassEffect (s.recordRaise r) t := classEffect_takeRaise s site r
  refine ⟨congrArg (·.status.result) hframe, congrArg (·.status.tag) hframe, congrArg (·.status.errpos) hframe,
    congrArg (·.status.log) hframe, congrArg (·.bitpos) hframe, congrArg (·.seq) hframe, congrArg (·.pic) hframe,
    congrArg (·.time) hframe, congrArg (·.mb) hframe, congrArg (·.ctrl) hframe, congrArg (·.cfg) hframe,
    congrArg (·.bs) hframe, congrArg (·.stores) hframe, ?fatal, ?terminal, ?soft, ?invalid, State.takeRaise_keeps⟩
  case fatal =>
    intro hf
    have ht : t = (s.recordRaise r).failFatally site r.tag := State.takeRaise_fatal hf
    rw [ht]
    exact ⟨State.failFatally_fsm _ _ _, State.failFatally_picValid _ _ _, State.failFatally_rowprog⟩
  case terminal => exact fun h => congrArg State.fsm (State.takeRaise_terminal h)
  case soft => exact fun h => congrArg State.fsm (State.takeRaise_soft h)
  case invalid =>
    intro hi
    have ht : t = (s.recordRaise r).takeInvalid r.tag site := State.takeRaise_invalid hi
    refine ⟨?_, ?_, ?_, ?_⟩
    · rintro rfl
      exact congrArg State.fsm ht
    · rintro rfl
      exact ⟨congrArg State.fsm ht, congrArg (·.status.picValid) ht⟩
    · intro hsite
      rw [ht]
      exact State.takeInvalid_recovers hsite
    · intro left lost hsite herr hnext
      subst hsite
      have hlost : s.notConsumed r.tag .macroblock = lost := s.notConsumed_macroblock r.tag
      rw [← hlost] at herr ⊢
      exact State.takeRaise_macroblock_loses hi herr hnext

end Sys2Proof.Machine
end

section
/-! The reset input (70_reset_and_hazards.md R400, R401): the state it leaves meets the invariant, and what its matrices
and stores read back. -/

namespace Sys2Proof.Machine

variable {p z : List Nat}

/-! ## Place, and the matrix loaded through it (40_header_vol.md R160) -/

theorem place_lt (hp : isPerm64 p = true) (hz : isPerm64 z = true) {i : Nat} (hi : i < 64) : place p z i < 64 :=
  permAt_lt hp (permAt_lt hz hi)

theorem place_injective (hp : isPerm64 p = true) (hz : isPerm64 z = true) {i j : Nat} (hi : i < 64) (hj : j < 64)
    (he : place p z i = place p z j) : i = j :=
  permAt_injective hz hi hj (permAt_injective hp (permAt_lt hz hi) (permAt_lt hz hj) he)

theorem putScan_getD_same (hp : isPerm64 p = true) (hz : isPerm64 z = true) {m : List Byte} (hm : m.length = 64)
    {i : Nat} (hi : i < 64) (v : Byte) : (putScan p z i v m).getD (place p z i) 0 = v := by
  have hin : place p z i < m.length := hm ▸ place_lt hp hz hi
  rw [putScan, List.getD_eq_getElem?_getD, List.getElem?_set_self hin, Option.getD_some]

theorem putScan_getD_other (hp : isPerm64 p = true) (hz : isPerm64 z = true) {i j : Nat} (hi : i < 64) (hj : j < 64)
    (hij : i ≠ j) (v : Byte) (m : List Byte) :
    (putScan p z i v m).getD (place p z j) 0 = m.getD (place p z j) 0 := by
  have hne : place p z i ≠ place p z j := fun he => hij (place_injective hp hz hi hj he)
  rw [putScan, List.getD_eq_getElem?_getD, List.getElem?_set_ne hne, ← List.getD_eq_getElem?_getD]

/-- A run of values from scan position `i` up leaves the positions before it. -/
theorem putScanList_getD_before (hp : isPerm64 p = true) (hz : isPerm64 z = true) (vs : List Byte) :
    ∀ {i j : Nat} (m : List Byte), i + vs.length ≤ 64 → j < i →
      (putScanList p z i vs m).getD (place p z j) 0 = m.getD (place p z j) 0 := by
  induction vs with
  | nil => exact fun _ _ _ => rfl
  | cons v vs ih =>
    intro i j m hle hji
    rw [List.length_cons] at hle
    rw [putScanList, ih _ (by omega) (by omega), putScan_getD_other hp hz (by omega) (by omega) (by omega)]

/-- A run of values from scan position `i` up: its value `k` is read back at the place of position `i + k`. -/
theorem putScanList_getD (hp : isPerm64 p = true) (hz : isPerm64 z = true) (vs : List Byte) :
    ∀ {i k : Nat} (m : List Byte), m.length = 64 → i + vs.length ≤ 64 → k < vs.length →
      (putScanList p z i vs m).getD (place p z (i + k)) 0 = vs.getD k 0 := by
  induction vs with
  | nil => exact fun _ _ _ hk => absurd hk (Nat.not_lt_zero _)
  | cons v vs ih =>
    intro i k m hm hle hk
    rw [List.length_cons] at hle hk
    cases k with
    | zero =>
      rw [Nat.add_zero, putScanList, putScanList_getD_before hp hz vs _ (by omega) (by omega),
        putScan_getD_same hp hz hm (by omega), List.getD_cons_zero]
    | succ k =>
      have hpos : i + (k + 1) = i + 1 + k := by omega
      rw [hpos, putScanList, ih _ ((putScan_length ..).trans hm) (by omega) (by omega), List.getD_cons_succ]

/-- Entry `i` of a default matrix of 64 stands at Place(i) (R159, R161). -/
theorem placedMatrix_getD {c : Cfg} (hp : isPerm64 c.idctPerm = true) (hz : isPerm64 c.zigzag = true)
    {d : List Byte} (hd : d.length = 64) {i : Nat} (hi : i < 64) :
    (placedMatrix c d).getD (place c.idctPerm c.zigzag i) 0 = d.getD i 0 := by
  have := putScanList_getD hp hz d zeroMatrix (i := 0) List.length_replicate (by omega) (hd ▸ hi)
  rwa [Nat.zero_add] at this

/-! ## The stores after reset (20_memory.md R89) -/

@[simp] theorem Stores.initial_dcPlane (n : Fin 6) : Stores.initial.dcPlane n = [] := by
  simp only [Stores.dcPlane, Stores.initial, ite_self]

@[simp] theorem Stores.initial_acPlane (n : Fin 6) : Stores.initial.acPlane n = [] := by
  simp only [Stores.acPlane, Stores.initial, ite_self]

theorem Stores.initial_reads (n : Fin 6) (a : Nat) : Cells.read dcUnlisted (Stores.initial.dcPlane n) a = 1024
    ∧ Cells.read 0 (Stores.initial.acPlane n) a = 0 := by
  rw [Stores.initial_dcPlane, Stores.initial_acPlane]
  exact ⟨rfl, rfl⟩

/-! ## The invariant -/

theorem Seq.legal_reset (c : Cfg) : (Seq.reset c).legal = true := by
  have hlen := placedMatrix_length c
  have hprecision : 3 ≤ 5 ∧ 5 ≤ 9 := by decide
  exact Seq.legal_iff.2 ⟨Nat.zero_le 3, Nat.zero_le 16, hprecision.1, hprecision.2, hlen _, hlen _, hlen _, hlen _,
    Nat.zero_le 255, Cells.wf_nil⟩

theorem Pic.legal_reset : Pic.reset.legal = true := by decide

theorem Mb.wf_reset : Mb.reset.wf = true := by decide

theorem Stores.wf_initial : Stores.initial.wf = true := by decide

/-- Reset meets the invariant under every configuration, as LEN is 0: a cursor of any width holds bit 0 (log 2). -/
theorem good_resetUnder (c : Cfg) (v : Coloc) : Good (State.resetUnder c v) where
  bs := Cells.wf_nil
  len := ⟨Nat.two_pow_pos _, Nat.two_pow_pos 32⟩
  pos := Nat.le_refl 0
  last := Nat.le_refl 0
  seq := Seq.legal_reset _
  pic := Pic.legal_reset
  mb := Mb.wf_reset
  stores := Stores.wf_initial
  quirk := BitVec.zero_and
  log := BitVec.zero_and

/-- Settles O6: the reset state and the one the reset input leaves are both a reset under some configuration. -/
theorem resetMeetsInvariant : Obligations.ResetMeetsInvariant := by
  unfold Obligations.ResetMeetsInvariant
  exact ⟨State.inv_iff.2 (good_resetUnder _ _), fun s => State.inv_iff.2 (good_resetUnder s.cfg s.coloc)⟩

/-! ## The values after reset -/

/-- The default matrices after reset stand where CFG.IDCT_PERM's configured initial value places them (R161, R400). -/
theorem State.resetInput_matrices (s : State) (hp : isPerm64 s.cfg.idctPermInit = true)
    (hz : isPerm64 s.cfg.zigzag = true) (hintra : s.cfg.defaultIntra.length = 64)
    (hinter : s.cfg.defaultInter.length = 64) {i : Nat} (hi : i < 64) :
    s.resetInput.seq.intraMatrix.getD (place s.cfg.idctPermInit s.cfg.zigzag i) 0 = s.cfg.defaultIntra.getD i 0
      ∧ s.resetInput.seq.interMatrix.getD (place s.cfg.idctPermInit s.cfg.zigzag i) 0
        = s.cfg.defaultInter.getD i 0 :=
  ⟨placedMatrix_getD (c := s.resetInput.cfg) hp hz hintra hi, placedMatrix_getD (c := s.resetInput.cfg) hp hz hinter hi⟩

/-- Settles O9: the registers are the fields of the reset state; the matrices are read back through Place and the stores
as unlisted. -/
theorem resetLeavesTheSpecsValues : Obligations.ResetLeavesTheSpecsValues := by
  unfold Obligations.ResetLeavesTheSpecsValues
  intro s t perm
  refine ⟨rfl, rfl, rfl, rfl, rfl, rfl, rfl, rfl, rfl, rfl, rfl, rfl, ?seq, ?matrices, ?text, rfl, rfl, rfl, ?stores⟩
  case seq => rfl
  case matrices => exact fun hp hz hintra hinter _ hi => s.resetInput_matrices hp hz hintra hinter hi
  case text => exact fun _ => rfl
  case stores => exact Stores.initial_reads

end Sys2Proof.Machine
end
